-- ==== Sys2Proof/Word.lean ====
section
/-! DEFINITION. The word types of the SN-MC4 (spec/00_scope.md R11: bit 0 is the least significant, memory is little-endian). -/
namespace Sys2Proof

/-- One byte of memory. -/
abbrev Byte := BitVec 8
/-- A 32-bit word: a scalar instruction, a lane element. -/
abbrev W32 := BitVec 32
/-- A 64-bit word: a scalar register, a w register, an address. -/
abbrev W64 := BitVec 64
/-- A 96-bit lane mask, bit i for lane i (R25). -/
abbrev Mask := BitVec 96

end Sys2Proof
end

