-- ==== Sys2Proof/Machine/Maps.lean ====
section
/-! DEFINITION. Sparse maps from natural numbers: the form in which the model holds memories, lane registers, tables of
records. A map is a list of pairs with strictly rising keys; in the maps of words an unlisted key reads as 0 and no entry
is 0 (log 1), so that equal contents are equal lists. -/
namespace Sys2Proof.Machine

/-- Records by key, keys strictly rising. -/
abbrev KMap (α : Type) := List (Nat × α)

/-- Words by key; an unlisted key holds 0. -/
abbrev SMap (w : Nat) := List (Nat × BitVec w)

/-- The record at a key. -/
def kget {α : Type} : KMap α → Nat → Option α
  | [], _ => none
  | (k, v) :: r, x => if k = x then some v else if x < k then none else kget r x

/-- The record at a key, or a default. -/
def kgetD {α : Type} (m : KMap α) (x : Nat) (d : α) : α := (kget m x).getD d

/-- Sets the record at a key. -/
def kset {α : Type} : KMap α → Nat → α → KMap α
  | [], x, a => [(x, a)]
  | (k, v) :: r, x, a => if k = x then (x, a) :: r else if x < k then (x, a) :: (k, v) :: r else (k, v) :: kset r x a

/-- Removes a key. -/
def kdel {α : Type} : KMap α → Nat → KMap α
  | [], _ => []
  | (k, v) :: r, x => if k = x then r else if x < k then (k, v) :: r else (k, v) :: kdel r x

/-- Changes the record at a key, where there is one. -/
def kmod {α : Type} (m : KMap α) (x : Nat) (f : α → α) : KMap α :=
  m.map fun p => if p.1 = x then (p.1, f p.2) else p

/-- The word at a key. (DESIGN CHOICE, log 1.) -/
def sget {w : Nat} (m : SMap w) (x : Nat) : BitVec w := (kget m x).getD 0

/-- Sets the word at a key, keeping the canonical form: a 0 is not listed. (DESIGN CHOICE, log 1.) -/
def sset {w : Nat} (m : SMap w) (x : Nat) (v : BitVec w) : SMap w := if v = 0 then kdel m x else kset m x v

/-- Sets words at consecutive keys. -/
def ssetL {w : Nat} (m : SMap w) (x : Nat) : List (BitVec w) → SMap w
  | [] => m
  | v :: r => ssetL (sset m x v) (x + 1) r

/-- Words at n consecutive keys. -/
def sgetL {w : Nat} (m : SMap w) (x : Nat) : Nat → List (BitVec w)
  | 0 => []
  | n + 1 => sget m x :: sgetL m (x + 1) n

/-- Keys strictly rise from above a bound. -/
def risesFrom {α : Type} : Option Nat → KMap α → Bool
  | _, [] => true
  | b, (k, _) :: r => (match b with | none => true | some x => decide (x < k)) && risesFrom (some k) r

/-- The canonical form of a map of words: keys strictly rise and no entry is what an unlisted key reads as. -/
def swf {w : Nat} (m : SMap w) : Bool := risesFrom none m && m.all fun p => p.2 != 0

/-- The canonical form of a map of records. -/
def kwf {α : Type} (m : KMap α) : Bool := risesFrom none m

/-- Puts an element behind those that do not come after it. -/
def insertBy {α : Type} (le : α → α → Bool) (x : α) : List α → List α
  | [] => [x]
  | y :: r => if le y x then y :: insertBy le x r else x :: y :: r

/-- Sorts a list by an order, equal elements in the order of the list. -/
def sortBy {α : Type} (le : α → α → Bool) : List α → List α
  | [] => []
  | x :: r => insertBy (fun a b => !le b a) x (sortBy le r)

/-! ## Bytes (R11: the byte at the lowest address holds bits 7:0) -/

/-- The number that bytes spell, lowest address first. -/
def bytesNat : List Byte → Nat
  | [] => 0
  | b :: r => b.toNat + 256 * bytesNat r

/-- The n bytes of a number, lowest address first. -/
def natBytes : Nat → Nat → List Byte
  | 0, _ => []
  | n + 1, x => BitVec.ofNat 8 x :: natBytes n (x / 256)

/-- The word that bytes spell. -/
def bytesW (w : Nat) (bs : List Byte) : BitVec w := BitVec.ofNat w (bytesNat bs)

/-- The n bytes of a word. -/
def wBytes {w : Nat} (n : Nat) (x : BitVec w) : List Byte := natBytes n x.toNat

/-- Bytes i to i + n - 1 of a list, missing ones 0, as a number. -/
def fieldN (bs : List Byte) (i n : Nat) : Nat := bytesNat ((bs.drop i).take n)

end Sys2Proof.Machine
end

