-- ==== Sys2Proof/Syntax.lean ====
section
/-! DEFINITION. The instructions of the SN-MC4 as syntax: one constructor for each row of spec/opcode_table.json, its
operand fields decoded into names. Machine instructions carry the fields of their word (spec/02 R67 to R89); a row of an
event or of a host operation carries what identifies the event (a group, an operation, a unit) or what arrived. -/
namespace Sys2Proof

/-- The stream that fetched a word (spec/02 R67, R76, R88). -/
inductive StreamId where
  | scalar | lane | team
  deriving DecidableEq, Repr

/-- Why a word is no instruction: ILLEGAL with a subcode (R95), or XFUNC with the func7 value (R75). -/
inductive DecErr where
  | illegal (sub : BitVec 16)
  | xfunc (func : BitVec 7)
  deriving DecidableEq, Repr

/-- Conditions of cond4 (R70). -/
inductive Cond where
  | al | eqz | nez | ltz | gez | lez | gtz | bs | bc
  deriving DecidableEq, Repr

/-- Conditions of SCMP (R73). -/
inductive SCond where
  | eq | ne | lt | ge | le | gt | ltu | geu | leu | gtu
  deriving DecidableEq, Repr

/-- Conditions of VCMP (R192). -/
inductive VCond where
  | eq | ne | lt | ge | le | gt
  deriving DecidableEq, Repr

/-- Conditions of VFCMP (R222). -/
inductive FCond where
  | eq | ne | lt | le | gt | ge | ord | uno
  deriving DecidableEq, Repr

/-- Scopes (R71). -/
inductive Scope where
  | grp | team | cl | dev | sys
  deriving DecidableEq, Repr

/-- Atomic operations of SATOM and VATOM (R73). -/
inductive AtomOp where
  | add | and | or | xor | min | max | minu | maxu | swap
  deriving DecidableEq, Repr

/-- Paths of SWAITP (R73). -/
inductive WaitPath where
  | ldc | stc | cpc | tlc | cp
  deriving DecidableEq, Repr

/-- Lane types (R80); `w32` is code 0, the untyped 32-bit word. -/
inductive LType where
  | w32 | i8x4 | i16x2 | i32 | i64 | n8x4 | n16x2 | n32 | n64 | f16x2 | bf16x2 | f32 | f64
  deriving DecidableEq, Repr

/-- Operand b of a lane instruction (R81). -/
inductive OpB where
  | reg (r : BitVec 10)
  | imm (w : BitVec 32)
  | snap (n : BitVec 4)
  | none
  deriving DecidableEq, Repr

/-- The operand fields every lane data instruction shares (R76, R79). `pfx` says that a prefix word is present: it sets the
instruction's length (12 or 16 bytes). `men` is the prefix mask register, `vc` the fourth operand. -/
structure LaneF where
  ty : LType
  vd : BitVec 10
  va : BitVec 10
  b : OpB
  pfx : Bool
  men : Option (BitVec 4)
  zero : Bool
  rnd : BitVec 3
  vc : Option (BitVec 10)
  deriving DecidableEq, Repr

/-- Memory access sizes (R85). -/
inductive MSize where
  | b | h | w | d | q
  deriving DecidableEq, Repr

/-- Memory orders (R85). -/
inductive MOrder where
  | relaxed | acq | rel | acqrel
  deriving DecidableEq, Repr

/-- Formats of VCVPK2, VCVPK4 and VQSCALE (R222); `own` is the 16-bit destination type of VCVPK2. -/
inductive PackFmt where
  | own | e4m3 | e5m2 | e2m1
  deriving DecidableEq, Repr

/-- Spans of VAMAX (R222). -/
inductive Span where
  | all | b32 | b16
  deriving DecidableEq, Repr

/-- Source formats of VUNPK (R222). -/
inductive UnpkSrc where
  | fp16 | bf16 | e4m3 | e5m2 | e2m1 | int8 | int4
  deriving DecidableEq, Repr

/-- Reduction operations (R192). -/
inductive RedOp where
  | add | min | max | and | or | xor
  deriving DecidableEq, Repr

/-- Output formats of a drain (R265). -/
inductive OFmt where
  | fp32 | bf16 | fp16 | int32
  deriving DecidableEq, Repr

/-- The drain-control word (R265). -/
structure DrainCtl where
  ofmt : OFmt
  spd : Bool
  zero : Bool
  sc : Scope
  rnd : BitVec 2
  sat : Bool
  deriving DecidableEq, Repr

/-- A cache named by an event: an L1, an instruction cache, a die's RDC (R338, R340). -/
inductive CacheId where
  | l1 (core : Nat) | icache (core : Nat) | rdc (die : Nat)
  deriving DecidableEq, Repr

/-- What wakes a parked group (R372). -/
inductive WakeWhy where
  | barrier (n : BitVec 4) | fen | sal | watch | grant | regroup
  deriving DecidableEq, Repr

/-- What a Willow reports (R455). -/
inductive ReportOf where
  | stopped (ctx : Nat) | tinv (cmd : Nat)
  deriving DecidableEq, Repr

/-- A Poale packet (R410): the header's fields and the data flits' bytes. -/
structure Packet where
  kind : BitVec 8
  crit : Bool
  resend : Bool
  dst : BitVec 8
  src : BitVec 8
  score : BitVec 16
  eseq : BitVec 32
  cred : BitVec 32
  addr : BitVec 64
  time : BitVec 64
  ben : BitVec 256
  data : List (BitVec 8)
  deriving DecidableEq, Repr

/-- A flit (R410): its wrapper's fields, its 64 content bytes, its CRC-32. -/
structure Flit where
  lseq : BitVec 12
  cseq : BitVec 16
  plane1 : Bool
  content : List (BitVec 8)
  crc : BitVec 32
  deriving DecidableEq, Repr

/-- PCIe AtomicOps (R401, R404). -/
inductive PcieAtomic where
  | fetchAdd | swap | cas
  deriving DecidableEq, Repr

/-- What can arrive at a gate (R433). -/
inductive Arrival where
  | barRead (bar tag off len : Nat)
  | barWrite (bar off : Nat) (data : List (BitVec 8)) (ben : List Bool)
  | barAtomic (tag off : Nat) (op : PcieAtomic) (wide : Bool) (x y : BitVec 64)
  | readCpl (tag offset : Nat) (data : List (BitVec 8))
  | atomicCpl (tag : Nat) (old : BitVec 64)
  | packet (p : Packet)
  | timex (mSend sRecv sSend mRecv : BitVec 64)
  | hold (module : Nat)
  | credit (cls limit : Nat)
  | samples (xs : List (BitVec 32))
  | wcorr (w q : BitVec 64)
  | wakeEntry (off : Nat) (data : BitVec 64) (ben : BitVec 8)
  | stepEvent (code : BitVec 2)
  deriving DecidableEq, Repr

/-- Arrays that soft errors strike (R342). -/
inductive ErrArray where
  | dram | l2 | rdc (die : Nat) | l1 (core : Nat) | scratchpad (core : Nat)
  deriving DecidableEq, Repr

/-- The instructions, events and host operations of spec/opcode_table.json: those with operand fields in its order, then those without. -/
inductive Instr where
  /-- SADD (R157). Writes the 64-bit sum of sa and sb, modulo 2^64, to sd. -/
  | sadd (d a b : BitVec 6)
  /-- SSUB (R157). Writes sa minus sb, modulo 2^64, to sd. -/
  | ssub (d a b : BitVec 6)
  /-- SMUL (R157). Writes the low 64 bits of sa times sb to sd, with a latency of 4 cycles. -/
  | smul (d a b : BitVec 6)
  /-- SMULH (R157). Writes bits 127:64 of the signed 128-bit product of sa and sb to sd. -/
  | smulh (d a b : BitVec 6)
  /-- SDIV (R158). Writes the signed quotient of sa by sb, truncated toward zero, to sd in 36 cycles, with the edge cases of R158. -/
  | sdiv (d a b : BitVec 6)
  /-- SDIVU (R158). Writes the unsigned quotient of sa by sb to sd in 36 cycles. -/
  | sdivu (d a b : BitVec 6)
  /-- SREM (R158). Writes the signed remainder of sa by sb, with the sign of sa, to sd. -/
  | srem (d a b : BitVec 6)
  /-- SAND (R157). Writes the bitwise AND of sa and sb to sd. -/
  | sand (d a b : BitVec 6)
  /-- SOR (R157). Writes the bitwise OR of sa and sb to sd. -/
  | sor (d a b : BitVec 6)
  /-- SXOR (R157). Writes the bitwise XOR of sa and sb to sd. -/
  | sxor (d a b : BitVec 6)
  /-- SSHL (R157). Shifts sa left by sb bits 5:0 and writes the result to sd. -/
  | sshl (d a b : BitVec 6)
  /-- SSHR (R157). Shifts sa right logically by sb bits 5:0 and writes the result to sd. -/
  | sshr (d a b : BitVec 6)
  /-- SSRA (R157). Shifts sa right arithmetically by sb bits 5:0 and writes the result to sd. -/
  | ssra (d a b : BitVec 6)
  /-- SMIN (R157). Writes the signed minimum of sa and sb to sd. -/
  | smin (d a b : BitVec 6)
  /-- SMAX (R157). Writes the signed maximum of sa and sb to sd. -/
  | smax (d a b : BitVec 6)
  /-- SMINU (R157). Writes the unsigned minimum of sa and sb to sd. -/
  | sminu (d a b : BitVec 6)
  /-- SMAXU (R157). Writes the unsigned maximum of sa and sb to sd. -/
  | smaxu (d a b : BitVec 6)
  /-- SCMP (R157). Writes 1 to sd when sa and sb satisfy the condition in fn7, and 0 otherwise. -/
  | scmp (c : SCond) (d a b : BitVec 6)
  /-- SSEL (R157). Writes sa to sd when the register sc named in fn7 is non-zero, and sb otherwise. -/
  | ssel (d c a b : BitVec 6)
  /-- SPOPC (R157). Writes the number of set bits of sa to sd. -/
  | spopc (d a : BitVec 6)
  /-- SCLZ (R157). Writes the number of leading zero bits of sa to sd. -/
  | sclz (d a : BitVec 6)
  /-- SADDI (R157). Adds the sign-extended imm13 to sa and writes the sum to sd. -/
  | saddi (d a : BitVec 6) (imm : BitVec 13)
  /-- SANDI (R157). ANDs sa with the zero-extended imm13 and writes the result to sd. -/
  | sandi (d a : BitVec 6) (imm : BitVec 13)
  /-- SORI (R157). ORs sa with the zero-extended imm13 and writes the result to sd. -/
  | sori (d a : BitVec 6) (imm : BitVec 13)
  /-- SXORI (R157). XORs sa with the zero-extended imm13 and writes the result to sd. -/
  | sxori (d a : BitVec 6) (imm : BitVec 13)
  /-- SSHLI (R157). Shifts sa left by an immediate count and writes the result to sd. -/
  | sshli (d a n : BitVec 6)
  /-- SSHRI (R157). Shifts sa right logically by an immediate count and writes the result to sd. -/
  | sshri (d a n : BitVec 6)
  /-- SSRAI (R157). Shifts sa right arithmetically by an immediate count and writes the result to sd. -/
  | ssrai (d a n : BitVec 6)
  /-- SMULI (R157). Multiplies sa by the sign-extended imm13 and writes the low 64 bits to sd. -/
  | smuli (d a : BitVec 6) (imm : BitVec 13)
  /-- SLI (R159). Writes the zero-extended imm19 to sd. -/
  | sli (d : BitVec 6) (imm : BitVec 19)
  /-- SLUI (R159). Writes imm19 shifted left by 13 to sd. -/
  | slui (d : BitVec 6) (imm : BitVec 19)
  /-- SLXI (R159). ORs imm19 into sd bits 50:32 and fills sd bits 63:51 with copies of imm19 bit 18. -/
  | slxi (d : BitVec 6) (imm : BitVec 19)
  /-- SLDB (R160). Loads 1 byte early, zero-extended, from sa + imm13 into sd. -/
  | sldb (d a : BitVec 6) (imm : BitVec 13)
  /-- SLDH (R160). Loads 2 bytes early, zero-extended, from sa + imm13 into sd. -/
  | sldh (d a : BitVec 6) (imm : BitVec 13)
  /-- SLDW (R160). Loads 4 bytes early, zero-extended, from sa + imm13 into sd. -/
  | sldw (d a : BitVec 6) (imm : BitVec 13)
  /-- SLDD (R160). Loads 8 bytes early from sa + imm13 into sd. -/
  | sldd (d a : BitVec 6) (imm : BitVec 13)
  /-- SSTB (R160). Checks a 1-byte store at issue and holds it in the commit queue until release. -/
  | sstb (d a : BitVec 6) (imm : BitVec 13)
  /-- SSTH (R160). Checks a 2-byte store at issue and holds it in the commit queue until release. -/
  | ssth (d a : BitVec 6) (imm : BitVec 13)
  /-- SSTW (R160). Checks a 4-byte store at issue and holds it in the commit queue until release. -/
  | sstw (d a : BitVec 6) (imm : BitVec 13)
  /-- SSTD (R160). Checks an 8-byte store at issue and holds it in the commit queue until release. -/
  | sstd (d a : BitVec 6) (imm : BitVec 13)
  /-- SLDSP (R162). Loads 8 bytes early from the team's scratchpad into sd, after the alignment and bound checks. -/
  | sldsp (d a : BitVec 6) (imm : BitVec 13)
  /-- SSTSP (R162). Holds an 8-byte scratchpad store in the commit queue; it is performed at release. -/
  | sstsp (d a : BitVec 6) (imm : BitVec 13)
  /-- SATOM (R163). Holds an 8-byte atomic and sends it to the home of its address at release. -/
  | satom (op : AtomOp) (sc : Scope) (d a b : BitVec 6)
  /-- SCAS (R163). Holds an 8-byte compare-and-swap and sends it to the home of its address at release. -/
  | scas (sc : Scope) (d a b : BitVec 6)
  /-- SBR (R165). Branches by off15 words when the condition holds on sa. -/
  | sbr (c : Cond) (a : BitVec 6) (off : BitVec 15)
  /-- SJMP (R165). Jumps by imm19 words. -/
  | sjmp (off : BitVec 19)
  /-- SJMPR (R165). Jumps to the address held in sa. -/
  | sjmpr (a : BitVec 6)
  /-- SCALL (R165). Writes pc + 4 to sd and jumps by imm19 words. -/
  | scall (d : BitVec 6) (off : BitVec 19)
  /-- SCALLR (R165). Writes pc + 4 to sd and jumps to the old value of sa. -/
  | scallr (d a : BitVec 6)
  /-- SRET (R165). Returns to the address held in sa. -/
  | sret (a : BitVec 6)
  /-- LENQ (R166). Takes a scalar checkpoint and appends a block, with its entry and snapshot s16–s31, to the lane queue. -/
  | lenq (off : BitVec 19)
  /-- LENQR (R166). Enqueues a lane block whose entry address is held in sa. -/
  | lenqr (a : BitVec 6)
  /-- SVRD (R168). After the drain, reads lane register vn of the lane named by sa into sd. -/
  | svrd (d a : BitVec 6) (n : BitVec 10)
  /-- SWAITC (R169). After the drain, stalls until all four counters are at or below their limits. -/
  | swaitc (l s c t : BitVec 3)
  /-- SWAITP (R170). After the drain, waits for one counter to fall to a threshold, or for a copy batch to complete and become idle. -/
  | swaitp (p : WaitPath) (a : BitVec 6)
  /-- SFENCE (R171). Drains, then waits until the ordering condition of its scope holds. -/
  | sfence (sc : Scope)
  /-- SWAITA (R174). Drains, arms a watch on a line at its home slice, and sleeps until a wake. -/
  | swaita (a : BitVec 6) (imm : BitVec 13)
  /-- BARA (R176). Holds an arrival at a numbered barrier until release. -/
  | bara (n : BitVec 4) (sc : Scope)
  /-- BARW (R177). Drains and waits for the barrier phase after the group's arrival record, and raises MATRIX on an error phase. -/
  | barw (n : BitVec 4) (sc : Scope)
  /-- BARAW (R177). Arrives at a barrier and waits for the phase of its own arrival, as one instruction. -/
  | baraw (n : BitVec 4) (sc : Scope)
  /-- BARINIT (R175). Held; at release, arms a barrier word with EXPECT, SCOPE and BTARG. -/
  | barinit (n : BitVec 4) (a b : BitVec 6)
  /-- SRDS (R182). Reads a special register into sd, after the drain for lane-shared registers. -/
  | srds (d a : BitVec 6) (i : BitVec 7)
  /-- SWRS (R182). Writes a special register: at once for S-class registers, and held for lane-shared ones. -/
  | swrs (a : BitVec 6) (i : BitVec 7)
  /-- STRAP (R184). After the drain, raises BRK with the code; code 0x1FFF inside a handler escalates instead (R387). -/
  | strap (code : BitVec 13)
  /-- SBRK (R184). After the drain, freezes the device when a debugger is attached, and raises BRK otherwise. -/
  | sbrk (code : BitVec 13)
  /-- SAL (R185). Reads the send allowance SAL for a destination module into sd. -/
  | sal (d a : BitVec 6)
  /-- SBSAL (R186). Branches when SAL for a destination module is at least 2^e. -/
  | sbsal (e : BitVec 4) (a : BitVec 6) (off : BitVec 15)
  /-- STIME (R183). Writes PTIME or WTIME, sampled in the issue cycle, to sd. -/
  | stime (d : BitVec 6) (wall : Bool)
  /-- SPOP (R187). Drains, pops the top reconvergence-stack entry, optionally copies it to scratchpad, and returns from a trap for a TRAP entry. -/
  | spop (a : BitVec 6)
  /-- UNASSIGNED_OPCODE (R95). An unassigned or reserved encoding in any stream raises ILLEGAL exactly, with no effect. -/
  | unassignedOpcode (st : StreamId) (e : DecErr)
  /-- CPY1D (R275). XCMD that, at release, queues a one-dimensional copy from a scratchpad descriptor into the open batch. -/
  | cpy1d (d a b : BitVec 6)
  /-- CPY2D (R275). XCMD that, at release, queues a strided two-dimensional copy. -/
  | cpy2d (d a b : BitVec 6)
  /-- CPYT (R276). XCMD that, at release, queues a transposing copy with element size ESIZE. -/
  | cpyt (d a b : BitVec 6)
  /-- CPYRES (R278). XCMD that resumes the copy form named by FORM, moving only pieces whose bitmap bit is clear. -/
  | cpyres (d a b : BitVec 6)
  /-- CSEAL (R279). XCMD that seals the open copy batch, opens the next one, and optionally returns the sealed number. -/
  | cseal (d a b : BitVec 6)
  /-- CWAITB (R279). XCMD that waits at the commit-queue head until a batch is complete, makes it idle, and returns its status. -/
  | cwaitb (d a b : BitVec 6)
  /-- CSTAT (R279). XCMD that returns the states and FAULT bits of all copy batches. -/
  | cstat (d a b : BitVec 6)
  /-- BXFER (R284). XCMD that streams a source range to the transfer target in 256-byte packets. -/
  | bxfer (d a b : BitVec 6)
  /-- BTARG (R282). XCMD that sets the group's transfer target address and barrier selector. -/
  | btarg (d a b : BitVec 6)
  /-- FSDEP (R293). Scalar Fen deposit of a tuple held in scratchpad. -/
  | fsdep (d a b : BitVec 6)
  /-- FSTAKE (R293). Scalar Fen take-match using a request held in scratchpad. -/
  | fstake (d a b : BitVec 6)
  /-- FSCPY (R293). Scalar Fen copy-match using a request held in scratchpad. -/
  | fscpy (d a b : BitVec 6)
  /-- FCFG_CREATE (R301). Privileged FCFG operation 0: creates a Fen region from a record, carving on-chip space and rings. -/
  | fcfgCreate (d a b : BitVec 6)
  /-- FCFG_DELETE (R301). Privileged FCFG operation 1: deletes an empty Fen region and shrinks the carve. -/
  | fcfgDelete (d a b : BitVec 6)
  /-- FCFG_READ_COUNTERS (R301). Privileged FCFG operation 2: writes six region counters to scratchpad. -/
  | fcfgReadCounters (d a b : BitVec 6)
  /-- XATOM (R298). XCMD that performs a remote atomic at the home slice, or at the switch for peer memory. -/
  | xatom (d a b : BitVec 6)
  /-- TRMARK (R299). XCMD that emits a trace MARK packet at release when TRON is set. -/
  | trmark (d a b : BitVec 6)
  /-- WPSET (R300). Privileged XCMD that loads and enables or disables a value watchpoint of the die. -/
  | wpset (d a b : BitVec 6)
  /-- VADD (R193). Lane integer add, modulo or saturating. -/
  | vadd (f : LaneF) (sat : Bool)
  /-- VSUB (R193). Lane integer subtract, modulo or saturating. -/
  | vsub (f : LaneF) (sat : Bool)
  /-- VMUL (R193). Lane integer multiply, low bits. -/
  | vmul (f : LaneF)
  /-- VMULH (R193). Lane integer multiply, high bits. -/
  | vmulh (f : LaneF)
  /-- VMAD (R193). Lane integer multiply-add with vc. -/
  | vmad (f : LaneF)
  /-- VAND (R193). Lane bitwise AND. -/
  | vand (f : LaneF)
  /-- VOR (R193). Lane bitwise OR. -/
  | vor (f : LaneF)
  /-- VXOR (R193). Lane bitwise XOR. -/
  | vxor (f : LaneF)
  /-- VNOT (R193). Lane bitwise complement. -/
  | vnot (f : LaneF)
  /-- VSHL (R193). Lane shift left. -/
  | vshl (f : LaneF)
  /-- VSHR (R193). Lane logical shift right. -/
  | vshr (f : LaneF)
  /-- VSRA (R193). Lane arithmetic shift right. -/
  | vsra (f : LaneF)
  /-- VMIN (R193). Lane integer minimum. -/
  | vmin (f : LaneF)
  /-- VMAX (R193). Lane integer maximum. -/
  | vmax (f : LaneF)
  /-- VABS (R193). Lane integer absolute value, optionally saturating. -/
  | vabs (f : LaneF) (sat : Bool)
  /-- VNEG (R193). Lane integer negation, optionally saturating. -/
  | vneg (f : LaneF) (sat : Bool)
  /-- VPOPC (R193). Lane population count. -/
  | vpopc (f : LaneF)
  /-- VCLZ (R193). Lane count of leading zeros. -/
  | vclz (f : LaneF)
  /-- VBFX (R194). Lane bit-field extract. -/
  | vbfx (f : LaneF)
  /-- VBFI (R194). Lane bit-field insert. -/
  | vbfi (f : LaneF)
  /-- VSEL (R193). Lane select by the mask ks. -/
  | vsel (f : LaneF) (k : BitVec 4)
  /-- VCMP (R195). Lane integer compare, writing a mask. -/
  | vcmp (f : LaneF) (c : VCond) (any : Bool)
  /-- VADDC (R196). Lane add with carry held in a mask. -/
  | vaddc (f : LaneF) (k : BitVec 4)
  /-- VSUBB (R196). Lane subtract with borrow held in a mask. -/
  | vsubb (f : LaneF) (k : BitVec 4)
  /-- VFADD (R228). Lane floating add. -/
  | vfadd (f : LaneF)
  /-- VFSUB (R228). Lane floating subtract. -/
  | vfsub (f : LaneF)
  /-- VFMUL (R228). Lane floating multiply. -/
  | vfmul (f : LaneF)
  /-- VFMA (R228). Lane fused multiply-add. -/
  | vfma (f : LaneF)
  /-- VFMS (R228). Lane fused multiply-subtract. -/
  | vfms (f : LaneF)
  /-- VFNMA (R228). Lane fused negated multiply-add, c − a × b. -/
  | vfnma (f : LaneF)
  /-- VFMIN (R230). Lane floating minimum. -/
  | vfmin (f : LaneF) (prop : Bool)
  /-- VFMAX (R230). Lane floating maximum. -/
  | vfmax (f : LaneF) (prop : Bool)
  /-- VFABS (R232). Lane floating absolute value; clears the sign bit. -/
  | vfabs (f : LaneF)
  /-- VFNEG (R232). Lane floating negation; inverts the sign bit. -/
  | vfneg (f : LaneF)
  /-- VFCMP (R231). Lane floating compare, writing a mask. -/
  | vfcmp (f : LaneF) (c : FCond) (sig any : Bool)
  /-- VFCLASS (R233). Lane floating classification, one-hot. -/
  | vfclass (f : LaneF)
  /-- VFRND (R234). Lane round to an integral value. -/
  | vfrnd (f : LaneF) (exact : Bool)
  /-- VFDIV (R229). Lane floating division in the SFU. -/
  | vfdiv (f : LaneF)
  /-- VFSQRT (R229). Lane floating square root in the SFU. -/
  | vfsqrt (f : LaneF)
  /-- VRCP (R235). SFU reciprocal. -/
  | vrcp (f : LaneF)
  /-- VRSQ (R235). SFU reciprocal square root. -/
  | vrsq (f : LaneF)
  /-- VSIN (R235). SFU sine. -/
  | vsin (f : LaneF)
  /-- VCOS (R235). SFU cosine. -/
  | vcos (f : LaneF)
  /-- VEXP2 (R235). SFU base-2 exponential. -/
  | vexp2 (f : LaneF)
  /-- VLOG2 (R235). SFU base-2 logarithm. -/
  | vlog2 (f : LaneF)
  /-- VTANH (R235). SFU hyperbolic tangent. -/
  | vtanh (f : LaneF)
  /-- VCVT (R237). Lane conversion between types with the same number of elements. -/
  | vcvt (f : LaneF) (src : LType) (sat : Bool)
  /-- VCVPK2 (R239). Converts two FP32 sources and packs them into 16-bit or 8-bit formats. -/
  | vcvpk2 (f : LaneF) (fmt : PackFmt) (hi sat : Bool)
  /-- VCVPK4 (R239). Converts four FP32 sources and packs them into FP8 or E2M1. -/
  | vcvpk4 (f : LaneF) (fmt : PackFmt) (hi sat : Bool)
  /-- VQSCALE (R240). Derives an E8M0 scale code, or its multiplier, from amax. -/
  | vqscale (f : LaneF) (dst : PackFmt) (mul : Bool)
  /-- VAMAX (R241). Takes the largest magnitude over each span of lanes. -/
  | vamax (f : LaneF) (span : Span)
  /-- VUNPK (R242). Decodes one narrow element to FP32, optionally scaled. -/
  | vunpk (f : LaneF) (src : UnpkSrc) (scale : Bool)
  /-- VLUT (R243). Decodes 4-bit codes through a BF16 codebook. -/
  | vlut (f : LaneF) (j : BitVec 3) (pair : Bool)
  /-- VMOV (R197). Lane move of operand b. -/
  | vmov (f : LaneF)
  /-- VPERM (R197). Lane permute across lanes. -/
  | vperm (f : LaneF)
  /-- VBCAST (R197). Lane broadcast from one lane. -/
  | vbcast (f : LaneF)
  /-- VRED (R198). Reduction across the lanes of the effective mask. -/
  | vred (f : LaneF) (op : RedOp)
  /-- VSCAN (R198). Inclusive or exclusive scan across lanes. -/
  | vscan (f : LaneF) (op : RedOp) (excl : Bool)
  /-- VBALLOT (R197). Writes a mask bit for each lane whose register is non-zero. -/
  | vballot (f : LaneF)
  /-- KAND (R199). Mask AND. -/
  | kand (d a b : BitVec 4)
  /-- KOR (R199). Mask OR. -/
  | kor (d a b : BitVec 4)
  /-- KXOR (R199). Mask XOR. -/
  | kxor (d a b : BitVec 4)
  /-- KNOT (R199). Mask NOT. -/
  | knot (d a : BitVec 4)
  /-- KMOV (R199). Mask move. -/
  | kmov (d a : BitVec 4)
  /-- VLD (R200). Lane load from memory, with every lane checked before any lane is accessed. -/
  | vld (f : LaneF) (size : MSize) (ord : MOrder) (sc : Scope) (imm : BitVec 32)
  /-- VST (R203). Lane store to memory. -/
  | vst (f : LaneF) (size : MSize) (ord : MOrder) (sc : Scope) (imm : BitVec 32)
  /-- VLDSP (R208). Lane load from scratchpad. -/
  | vldsp (f : LaneF) (size : MSize) (imm : BitVec 32)
  /-- VSTSP (R208). Lane store to scratchpad. -/
  | vstsp (f : LaneF) (size : MSize) (imm : BitVec 32)
  /-- VATOM (R206). Lane atomic performed at the home of each lane's address. -/
  | vatom (f : LaneF) (op : AtomOp) (size : MSize) (ord : MOrder) (sc : Scope) (imm : BitVec 32)
  /-- VCAS (R206). Lane compare-and-swap performed at the home. -/
  | vcas (f : LaneF) (size : MSize) (ord : MOrder) (sc : Scope) (imm : BitVec 32)
  /-- VPREF (R209). Lane prefetch of lines into L1. -/
  | vpref (f : LaneF) (imm : BitVec 32)
  /-- FDEP (R291). Lane Fen deposit: one tuple per lane of the effective mask. -/
  | fdep (f : LaneF) (blk : Bool) (sc : Scope)
  /-- FCPY (R291). Lane Fen copy-match. -/
  | fcpy (f : LaneF) (blk : Bool) (sc : Scope) (sel : BitVec 14)
  /-- FTAKE (R291). Lane Fen take-match. -/
  | ftake (f : LaneF) (blk : Bool) (sc : Scope) (sel : BitVec 14)
  /-- VBR (R211). Divergent branch that pushes a DIV entry. -/
  | vbr (k : BitVec 4) (inv : Bool) (off : BitVec 32) (join : BitVec 30)
  /-- VJMP (R210). Lane jump. -/
  | vjmp (off : BitVec 32)
  /-- VCALL (R210). Lane call after the budget check of the header word; pushes a CALL entry. -/
  | vcall (off : BitVec 32)
  /-- VCALLV (R212). Lane call with per-lane targets, pushing one entry per distinct target. -/
  | vcallv (a : BitVec 10)
  /-- VBRK (R213). Lane breakpoint: freezes the device under a debugger, and raises BRK otherwise. -/
  | vbrk (code : BitVec 13)
  /-- VTRAP (R213). Raises a lane trap with cause BRK. -/
  | vtrap (code : BitVec 13)
  /-- REGRP (R214). Pushes a REGROUP entry and arrives at the team's regroup; the last arrival starts the repacking move. -/
  | regrp (a : BitVec 10) (base : BitVec 10) (count : BitVec 7)
  /-- VWAITC (R219). Stalls the lane stream until the counters are at or below their limits. -/
  | vwaitc (l s c t : BitVec 3)
  /-- VFENCE (R220). Stalls the lane stream until the fence condition of its scope holds. -/
  | vfence (sc : Scope)
  /-- MMA (R257). Checks a matrix multiply-accumulate and hands it to the engine queue. -/
  | mma (t : BitVec 3) (a b c : BitVec 5) (n : BitVec 4)
  /-- MZERO (R263). Queues the zeroing of an accumulator tile. -/
  | mzero (t : BitVec 3)
  /-- MDRAIN (R265). Queues the conversion and write of a tile to memory or scratchpad. -/
  | mdrain (t : BitVec 3) (a : BitVec 5) (n : BitVec 4) (ctl : DrainCtl)
  /-- MDRAINA (R267). Queues an add-on-store drain of a tile. -/
  | mdraina (t : BitVec 3) (a : BitVec 5) (n : BitVec 4) (ctl : DrainCtl)
  /-- MLOAD (R264). Queues the load of a tile from memory. -/
  | mload (t : BitVec 3) (a : BitVec 5) (n : BitVec 4)
  /-- TBARW (R248). The sequencer waits on a barrier phase. -/
  | tbarw (n : BitVec 4) (sc : Scope)
  /-- TBARA (R248). The sequencer arrives at a barrier after its earlier WSTSPs. -/
  | tbara (n : BitVec 4) (sc : Scope)
  /-- WLI (R250). Writes the sign-extended imm32 to wd. -/
  | wli (d : BitVec 5) (imm : BitVec 32)
  /-- WADD (R250). Team register add. -/
  | wadd (d a b : BitVec 5)
  /-- WSUB (R250). Team register subtract. -/
  | wsub (d a b : BitVec 5)
  /-- WMUL (R250). Team register multiply. -/
  | wmul (d a b : BitVec 5)
  /-- WADDI (R250). Team register add of an immediate. -/
  | waddi (d a : BitVec 5) (imm : BitVec 32)
  /-- WLDSP (R250). Team load of 8 bytes from scratchpad. -/
  | wldsp (d a : BitVec 5) (imm : BitVec 32)
  /-- WSTSP (R250). Team store of 8 bytes to scratchpad. -/
  | wstsp (b a : BitVec 5) (imm : BitVec 32)
  /-- WSHL (R250). Team register shift left. -/
  | wshl (d a b : BitVec 5)
  /-- WBR (R251). Team conditional branch. -/
  | wbr (c : Cond) (a : BitVec 5) (off : BitVec 32)
  /-- WJMP (R251). Team jump. -/
  | wjmp (off : BitVec 32)
  /-- WLOOP (R251). Decrements a loop counter and branches while it is non-zero. -/
  | wloop (a : BitVec 5) (off : BitVec 32)
  /-- LEASE_EXPIRY (R305). A copy's lease reaches its expiry, and the copy becomes invalid. -/
  | leaseExpiry (c : CacheId) (line sector : Nat)
  /-- GROUP_WAKE (R372). A wake message reaches a parked group's core, and its streams are ready from the next cycle. -/
  | groupWake (g : Nat) (why : WakeWhy)
  /-- WILLOW_REPORT (R395). A grove's REPORT reaches Alder; with all 32 held, the checkpoint image is written. -/
  | willowReport (willow : Nat) (of : ReportOf)
  /-- RESUME (R354). Host command that starts a seed image or restores a checkpoint image as a context. -/
  | resume (q : Nat) (cmd : BitVec 512)
  /-- TRAPSET (R381). Host command that registers a trap table for an ASN. -/
  | trapset (q : Nat) (cmd : BitVec 512)
  /-- PREEMPT (R407). Host command that requests pre-emption of an active context with REASON 3. -/
  | preempt (q : Nat) (cmd : BitVec 512)
  /-- TLBINV (R462). Host command that invalidates matching TLB entries through the Willows. -/
  | tlbinv (q : Nat) (cmd : BitVec 512)
  /-- QFENCE (R407). Host command that completes when every earlier command has completed. -/
  | qfence (q : Nat) (cmd : BitVec 512)
  /-- SAMPLE_POINT (R367). Every 65,536 cycles, the logged sensor samples update the hot states, the step choice and the leave budget. -/
  | samplePoint (samples : List (BitVec 32))
  /-- WCORR_APPLY (R430). A WTIME correction record updates PBASE, WBASE and RATE. -/
  | wcorrApply (w q : BitVec 64)
  /-- TIMEX (R431). Timing flits are exchanged on a Poale link for pod time alignment. -/
  | timex (port : Nat) (mSend sRecv sSend mRecv : BitVec 64)
  /-- DRAM_REFRESH (R341). A DRAM channel starts a refresh at its fixed reference count. -/
  | dramRefresh (die chan : Nat) (lpddr : Bool)
  /-- REFRESH_END (R341). A refresh ends, and the accesses waiting on the channel proceed. -/
  | refreshEnd (die chan : Nat) (lpddr : Bool)
  /-- FLIT_RECEIVE (R412). A flit is checked for CRC and LSEQ; a bad flit is NAKed. -/
  | flitReceive (port plane : Nat) (f : Flit)
  /-- NAK_RECEIVE (R412). A NAK makes the sender resend from the named flit. -/
  | nakReceive (port plane : Nat) (lseq : BitVec 12)
  /-- PEER_READ (R419). A peer read or fill packet is served at the home switch slice. -/
  | peerRead (p : Packet)
  /-- PEER_WRITE (R419). A peer write packet is accepted at the home slice and forwarded to its L2 home. -/
  | peerWrite (p : Packet)
  /-- PEER_ATOMIC (R420). A peer atomic is performed at the home slice through the hot-word cache. -/
  | peerAtomic (p : Packet)
  /-- PEER_RESPONSE (R411). A response packet from a peer reaches the requester. -/
  | peerResponse (p : Packet)
  /-- BAR2_WRITE (R402). A host write of module space through BAR2, accepted at its home. -/
  | bar2Write (addr : Nat) (data : List (BitVec 8)) (ben : List Bool)
  /-- BAR2_ATOMICOP (R402). A PCIe AtomicOp on BAR2 is executed at the home as SATOM or SCAS. -/
  | bar2Atomicop (tag addr : Nat) (op : PcieAtomic) (wide : Bool) (x y : BitVec 64)
  /-- HOST_READ_COMPLETION (R403). Completions of a device read of host memory arrive and are reassembled. -/
  | hostReadCompletion (tag offset : Nat) (data : List (BitVec 8))
  /-- HOST_ATOMIC_COMPLETION (R404). The completion of a PCIe AtomicOp to host memory returns the old value. -/
  | hostAtomicCompletion (tag : Nat) (old : BitVec 64)
  /-- CONFIG_REQUEST (R484). A configuration request is answered in the always-on domain. -/
  | configRequest (write : Bool) (off : Nat) (data : BitVec 32)
  /-- CHALLENGE (R458). SPDM request answered over DOE. -/
  | challenge (slot : Nat) (nonce : BitVec 256)
  /-- SPDM_UNSUPPORTED (R458). Any other SPDM request is answered with ERROR UnsupportedRequest. -/
  | spdmUnsupported (code : BitVec 8)
  /-- GATE_ADMIT (R433). A gate admits and stamps an arrival and writes its record. -/
  | gateAdmit (gate : Nat) (x : Arrival)
  /-- ARRIVAL_CROSSING (R428). An admitted arrival enters its die's core domain 8 cycles after its stamp. -/
  | arrivalCrossing (gate : Nat) (x : Arrival)
  /-- BOOT_IMAGE_VERIFY (R457). A verifier checks the next firmware image, extends its measurement register, and passes control or stops the boot. -/
  | bootImageVerify (image : List (BitVec 8))
  /-- WAKE (R408). A write of the WAKE register enters the latch and starts the wake sequence. -/
  | wake (data : BitVec 64) (ben : BitVec 8)
  /-- QTAIL_DOORBELL (R405). A write of a queue's QTAIL announces entries, and starts a wake while gated. -/
  | qtailDoorbell (q : Nat) (v : BitVec 32)
  /-- CQHEAD_WRITE (R406). The host frees completion-ring room, and held completions proceed. -/
  | cqheadWrite (q : Nat) (v : BitVec 32)
  /-- FQHEAD_WRITE (R351). The host advances the fault-queue HEAD, releasing held records in the next cycle. -/
  | fqheadWrite (die : Nat) (v : BitVec 32)
  /-- GHEAD_WRITE (R436). The host advances a gate's HEAD; a waiting arrival is admitted in the next cycle. -/
  | gheadWrite (gate : Nat) (v : BitVec 32)
  /-- STEPREQ_WRITE (R426). Firmware or the host requests a clock step and the fastest allowed step. -/
  | stepreqWrite (v : BitVec 2)
  /-- STOPATD_WRITE (R439). A host write sets the package STOPAT. -/
  | stopatdWrite (v : BitVec 64)
  /-- TRRHEAD_WRITE (R482). The host advances the trace ring head, freeing room for blocks. -/
  | trrheadWrite (die : Nat) (v : BitVec 32)
  /-- MBOXIN_WRITE (R459). A host mailbox write raises a firmware event in Alder. -/
  | mboxinWrite (v : BitVec 64)
  /-- REGISTER_WRITE (R13). A write to a device register without a row of its own, under its access code. -/
  | registerWrite (off : Nat) (data : BitVec 64) (ben : BitVec 8)
  /-- SOFT_ERROR (R342). A soft error in a DRAM, L2, RDC, L1 or scratchpad array is corrected and counted, or, when uncorrectable, poisons the 8 bytes concerned. -/
  | softError (arr : ErrArray) (addr : Nat) (correctable : Bool)
  /-- PCIE_LINK_TRAINING (R404). The PCIe link trains, at some width and rate, and firmware reads whether the host root port reports AtomicOp routing and completion. -/
  | pcieLinkTraining (width rate : Nat) (atomics : Bool)
  /-- LSYNC (R167). Performs the drain and has no other effect. -/
  | lsync
  /-- STFENCE (R173). Drains, then raises ARITH when FLAGS and FTRAPEN intersect. -/
  | stfence
  /-- SACQ (R179). Held; at release, requests the declared full register allotment. -/
  | sacq
  /-- SREL (R179). Held; at release, returns the allotment to 32 registers. -/
  | srel
  /-- SYIELD (R180). Keeps the scalar stream from issuing for 16 cycles. -/
  | syield
  /-- SEXIT (R181). Drains, waits for the counters to reach zero, and ends the group. -/
  | sexit
  /-- SNOP (R180). Does nothing. -/
  | snop
  /-- VJOIN (R211). Resolves the top DIV entry: runs the pending path or reconverges. -/
  | vjoin
  /-- VRET (R210). Pops a CALL entry and restores EXEC and LPC. -/
  | vret
  /-- VEND (R210). Ends the lane block. -/
  | vend
  /-- RJOIN (R216). A host arrives at RJOIN; the last arrival starts the move back. -/
  | rjoin
  /-- VNOP (R210). Lane no-operation. -/
  | vnop
  /-- TEXIT (R251). Ends the team stream. -/
  | texit
  /-- BLOCK_START (R150). The lane stream begins the next queued block, releasing the held effects that precede its LENQ. Acts on g of `State.args`. -/
  | blockStart
  /-- DRAIN (R151). A draining instruction's drain completes once the lane stream, results, releases and accesses have settled. Acts on g of `State.args`. -/
  | drain
  /-- COMMIT_HEAD_RESUME (R156). An effect waiting at the commit-queue head for allowance, room or status proceeds, and the effects behind it follow. Acts on g of `State.args`. -/
  | commitHeadResume
  /-- EARLY_LOAD_PERFORM (R153). An early load held by a load barrier is performed in the cycle after the barrier finishes. Acts on op of `State.args`. -/
  | earlyLoadPerform
  /-- SCALAR_LOAD_RETURN (R22). A scalar load value returns, clears the pending mark and lowers LDC. Acts on op of `State.args`. -/
  | scalarLoadReturn
  /-- LANE_LOAD_RETURN (R204). Every lane of a lane load has its register written, and LDC falls. Acts on op of `State.args`. -/
  | laneLoadReturn
  /-- STORE_GWCT_RETURN (R161). A store's GWCT returns to the group; STC falls and GWCTMAX is updated. Acts on op, part of `State.args`. -/
  | storeGwctReturn
  /-- ATOMIC_REPLY (R307). An atomic's old value and GWCT return; the written bytes enter the L1 write masks. Acts on op, part of `State.args`. -/
  | atomicReply
  /-- ATOMIC_AT_HOME (R163). An atomic is performed indivisibly at its home slice. Acts on op, part of `State.args`. -/
  | atomicAtHome
  /-- WRITE_ACCEPT (R306). A home accepts a write and assigns its GWCT from the outstanding leases. Acts on op, part of `State.args`. -/
  | writeAccept
  /-- WRITE_PERFORM (R306). A home applies an accepted write at PTIME equal to its GWCT. Acts on w of `State.args`. -/
  | writePerform
  /-- HOME_READ (R306). A read or fill request is served at the home, granting a lease. Acts on op, part of `State.args`. -/
  | homeRead
  /-- FILL_RETURN (R305). Filled sectors arrive at an L1 or RDC with their lease. Acts on op, part of `State.args`. -/
  | fillReturn
  /-- WRITE_MASK_RELEASE (R307). L1 write masks may be dropped once PTIME reaches the latest masked GWCT. Acts on core, line of `State.args`. -/
  | writeMaskRelease
  /-- PAGE_WALK (R333). The walker returns a translation or a fault after reading the table levels. Acts on w of `State.args`. -/
  | pageWalk
  /-- SCALAR_RESULT_WRITE (R157). A multiply or divide result is written after its fixed latency. Acts on g, id of `State.args`. -/
  | scalarResultWrite
  /-- LANE_RESULT_WRITE (R491). A lane arithmetic or FP result is written after its fixed latency. Acts on g, id of `State.args`. -/
  | laneResultWrite
  /-- SFU_RESULT_WRITE (R226). An SFU result and its flags are written, and the entry leaves the SFU queue. Acts on g, id of `State.args`. -/
  | sfuResultWrite
  /-- W_RESULT_WRITE (R245). A pending WMUL or WLDSP result is written 4 cycles after issue. Acts on t, id of `State.args`. -/
  | wResultWrite
  /-- SYIELD_EXPIRY (R180). The 16-cycle hold of SYIELD ends. Acts on g of `State.args`. -/
  | syieldExpiry
  /-- SACQ_GRANT (R369). A WAITING group receives its full allotment under age order and the reserve. Acts on g of `State.args`. -/
  | sacqGrant
  /-- REGRP_MOVE_COMPLETE (R215). The regroup register move ends after 3 × count × p + 12 cycles; the hosts run and the others park. Acts on t of `State.args`. -/
  | regrpMoveComplete
  /-- RJOIN_MOVE_COMPLETE (R216). The move back ends; every lane returns to its origin and the REGROUP entries are popped. Acts on t of `State.args`. -/
  | rjoinMoveComplete
  /-- BARRIER_ARRIVAL (R176). A released arrival leaves the commit queue once its ordering condition holds, and is applied to the word. Acts on g of `State.args`. -/
  | barrierArrival
  /-- REMOTE_BARRIER_UPDATE (R47). An update forwarded from a cluster core is applied at the home word. Acts on m of `State.args`. -/
  | remoteBarrierUpdate
  /-- BARRIER_REFUSAL (R47). The refusal of a forwarded update by an unarmed home word returns to the forwarding core. Acts on m of `State.args`. -/
  | barrierRefusal
  /-- TRAP_ENTRY (R382). After the FP and SFU drain, trap registers are written and the handler entered, or the trap escalates. Acts on g of `State.args`. -/
  | trapEntry
  /-- TIME_SLICE_EXPIRY (R391). A context's TSLICE expires, and Alder requests its pre-emption. Acts on ctx of `State.args`. -/
  | timeSliceExpiry
  /-- WILLOW_STOP (R392). A Willow receives STOP and stops the context's engines in its grove. Acts on willow, ctx of `State.args`. -/
  | willowStop
  /-- ENGINE_STOP_ACK (R392). An engine reaches its stopping point and acknowledges to its Willow. Acts on willow, ctx of `State.args`. -/
  | engineStopAck
  /-- PREEMPT_COMPLETION (R395). After PTIME passes the image GWCTs, the context's resources are freed and status 2 is written. Acts on ctx of `State.args`. -/
  | preemptCompletion
  /-- CONTEXT_COMPLETION (R355). When every team has ended and PTIME exceeds every GWCT of the grid, the completion entry is written. Acts on ctx of `State.args`. -/
  | contextCompletion
  /-- PLACEMENT_PASS (R362). Alder places clusters of active contexts in dispatch order, every 1,024 cycles and after events. -/
  | placementPass
  /-- WILLOW_PLACE (R455). A Willow writes a placed team's state into a core of its grove. Acts on pl of `State.args`. -/
  | willowPlace
  /-- TEAM_START (R365). The placed groups and sequencers start 512 cycles after the pass. Acts on pl of `State.args`. -/
  | teamStart
  /-- QUEUE_VISIT (R406). Every 64 cycles Alder visits the enabled command queues and takes at most one entry from each. -/
  | queueVisit
  /-- WILLOW_TINV (R462). A Willow drops matching L1 TLB entries of its grove when TINV arrives. Acts on willow, cmd of `State.args`. -/
  | willowTinv
  /-- WILLOW_LRATE (R465). A Willow sets the new leave refill rate of its grove's cores. Acts on willow, rate of `State.args`. -/
  | willowLrate
  /-- STEP_BOUNDARY (R426). A requested step change takes effect at a 24,000-tick boundary. -/
  | stepBoundary
  /-- DROOP_STRETCH (R427). A droop detector fires and every domain stretches one clock period. Acts on die, delay of `State.args`. -/
  | droopStretch
  /-- LEAVE_REQUEST (R261). An MMA at the queue head or second position requests leave from the governor. Acts on core of `State.args`. -/
  | leaveRequest
  /-- LEAVE_GRANT (R463). The governor grants pending leave once the balance suffices, and debits it. Acts on core of `State.args`. -/
  | leaveGrant
  /-- TILE_FETCH_RETURN (R259). An operand or scale line arrives and is pinned for the MMA. Acts on core of `State.args`. -/
  | tileFetchReturn
  /-- MMA_COMPLETION (R262). After the last accumulation, the MMA makes its completion arrival. Acts on core of `State.args`. -/
  | mmaCompletion
  /-- MZERO_COMPLETION (R263). The tile is zeroed after 16 cycles. Acts on core of `State.args`. -/
  | mzeroCompletion
  /-- MLOAD_COMPLETION (R264). After every source line is fetched, the tile is written in 16 cycles and the arrival is made. Acts on core of `State.args`. -/
  | mloadCompletion
  /-- DRAIN_COMPLETION (R268). The drain's completion arrival is made once its writes are performed and the scope conditions hold. Acts on core, op of `State.args`. -/
  | drainCompletion
  /-- MDRAINA_REPORT (R267). A home reports reservation of its lines and its latest lease. Acts on core, slice of `State.args`. -/
  | mdrainaReport
  /-- MDRAINA_COMMIT (R267). Holding every report, the drain unit sends the commit with time T. Acts on core of `State.args`. -/
  | mdrainaCommit
  /-- MDRAINA_APPLY (R267). Every home applies its part of the add-on-store at PTIME T. Acts on core, op of `State.args`. -/
  | mdrainaApply
  /-- ERROR_PHASE_DELIVERY (R269). After the operation's writes are performed, error phases are delivered to the faulting and the cancelled operations' barriers. Acts on core of `State.args`. -/
  | errorPhaseDelivery
  /-- COPY_PIECE (R277). The copy engine checks and copies the next 64-byte piece, or records a fault. Acts on core of `State.args`. -/
  | copyPiece
  /-- COPY_PIECE_DONE (R277). A piece write is performed; its bit is set and its bytes may be counted into a barrier. Acts on core, cmd, piece of `State.args`. -/
  | copyPieceDone
  /-- BULK_PACKET_SEND (R284). The transfer engine takes allowance and sends the next 256-byte packet. Acts on core, xfer of `State.args`. -/
  | bulkPacketSend
  /-- BULK_WRITE (R286). A bulk packet is written at the destination home and its bytes are counted into a barrier. Acts on pkt of `State.args`. -/
  | bulkWrite
  /-- BULK_ACK (R285). The transfer acknowledgement writes status and lowers TLC. Acts on core, xfer of `State.args`. -/
  | bulkAck
  /-- FEN_DEPOSIT (R294). A deposit arrives at its home slice: it serves copies, hands off, spills, stores, parks or is refused. Acts on req of `State.args`. -/
  | fenDeposit
  /-- FEN_TAKE (R294). A take-match arrives at the home and removes the oldest matching tuple, parks, or returns NONE. Acts on req of `State.args`. -/
  | fenTake
  /-- FEN_COPY (R294). A copy-match arrives at the home and copies the oldest matching tuple, parks, or returns NONE. Acts on req of `State.args`. -/
  | fenCopy
  /-- FEN_REFILL (R295). With room on chip, the oldest live ring tuple moves on chip. Acts on slice, region of `State.args`. -/
  | fenRefill
  /-- FEN_PARKED_DEPOSIT_STORE (R295). With room on chip, the oldest parked deposit is stored. Acts on slice, region of `State.args`. -/
  | fenParkedDepositStore
  /-- FEN_REQUEST_RETRY (R295). A request returned for a full parked table is sent again 256 cycles later. Acts on req of `State.args`. -/
  | fenRequestRetry
  /-- FEN_STATUS_RETURN (R292). A Fen status reaches the requester and is written; TLC falls after the last lane. Acts on req of `State.args`. -/
  | fenStatusReturn
  /-- FEN_WITHDRAWAL (R393). A withdrawal of a parked request reaches the home. Acts on req of `State.args`. -/
  | fenWithdrawal
  /-- MONITOR_ARM (R344). An SWAITA arm request is recorded in a slice's monitor table, evicting the oldest entry when full. Acts on g of `State.args`. -/
  | monitorArm
  /-- MONITOR_NOTICE (R344). A write notice from the L2 home wakes the switch slice's watches on the line. Acts on line of `State.args`. -/
  | monitorNotice
  /-- SWAITA_TIMEOUT (R174). A watch times out at arm + LEASE and the slice sends a wake. Acts on g of `State.args`. -/
  | swaitaTimeout
  /-- CREDIT_RETURN (R373). Returned units are added to SAL[d], and the parked list is served in order. Acts on die, dst, units of `State.args`. -/
  | creditReturn
  /-- CREDIT_PACKET_SEND (R417). Units unsent for 256 cycles are sent in a credit packet. Acts on die, dst of `State.args`. -/
  | creditPacketSend
  /-- END_TO_END_RESEND (R414). A request without a response after 4,800,000 ticks is resent with the same ESEQ. Acts on die, dst, eseq of `State.args`. -/
  | endToEndResend
  /-- LINK_RETRAIN (R412). A link retrain discards both planes' replay buffers. Acts on port of `State.args`. -/
  | linkRetrain
  /-- HOLD_FLIT (R440). While frozen, each port sends a HOLD flit every 1,024 reference periods. Acts on port of `State.args`. -/
  | holdFlit
  /-- BAR2_READ (R402). A host read of module space through BAR2. Acts on tag, addr, len of `State.args`. -/
  | bar2Read
  /-- ZERO_LENGTH_WRITE (R318). A write without enabled bytes is acknowledged and ordered as a store. Acts on gate, addr of `State.args`. -/
  | zeroLengthWrite
  /-- FLOW_CONTROL_UPDATE (R484). A credit update that changes a credit limit is logged and applied. Acts on cls, limit of `State.args`. -/
  | flowControlUpdate
  /-- GET_VERSION (R458). SPDM request answered over DOE. -/
  | getVersion
  /-- GET_CAPABILITIES (R458). SPDM request answered over DOE. -/
  | getCapabilities
  /-- NEGOTIATE_ALGORITHMS (R458). SPDM request: only RSASSA-4096 and SHA-512 are offered. -/
  | negotiateAlgorithms
  /-- GET_DIGESTS (R458). SPDM request answered over DOE. -/
  | getDigests
  /-- GET_CERTIFICATE (R458). SPDM request answered over DOE. Acts on slot, off, len of `State.args`. -/
  | getCertificate
  /-- GET_MEASUREMENTS (R458). SPDM request returning MR[1]–MR[4] and the rollback counter. Acts on block of `State.args`. -/
  | getMeasurements
  /-- GATE_LOSS_RECORD (R436). In lossy mode, when a slot frees, one LOSS record counts the dropped records. Acts on gate of `State.args`. -/
  | gateLossRecord
  /-- REPLAY_INJECT (R437). In replay, the next record is injected at its stamp or a STEP record is checked. Acts on gate of `State.args`. -/
  | replayInject
  /-- STOPAT_REACHED (R439). PTIME reaches STOPAT and the package freezes. -/
  | stopatReached
  /-- TRACE_INTERVAL (R450). Every 4,096 cycles each core selects its traced group and writes a SYNC. Acts on core of `State.args`. -/
  | traceInterval
  /-- STALL_SAMPLE (R453). Periodically a core writes STALL packets for one sampled group. Acts on core of `State.args`. -/
  | stallSample
  /-- TRACE_BLOCK_WRITE (R482). A core writes a 256-byte block of its trace bytes to the die's ring. Acts on core of `State.args`. -/
  | traceBlockWrite
  /-- TRACE_RESYNC (R452). After drops, with 64 bytes free, the core writes LOSS and then SYNC. Acts on core of `State.args`. -/
  | traceResync
  /-- RESET (R456). Reset starts bring-up from the boot ROM. -/
  | reset
  /-- BRINGUP_PHASE (R460). A bring-up phase completes and the next begins, or reduced service continues on failure. Acts on err, die of `State.args`. -/
  | bringupPhase
  /-- FULL_SERVICE_ENTRY (R460). With no context active, the device moves from reduced to full service. -/
  | fullServiceEntry
  /-- GATE_CLOSE (R461). After 2^24 idle cycles with GATEEN set, Alder gates the device. -/
  | gateClose
  /-- WAKE_COMPLETE (R461). The wake completes 65,536 cycles after its start. -/
  | wakeComplete
  /-- LATCHED_WRITE_APPLY (R409). One latched write is applied per cycle after the wake. -/
  | latchedWriteApply
  /-- RSTREQ_RST (R485). Resets the deterministic domain and restarts bring-up. -/
  | rstreqRst
  /-- DBGCTL_FREEZE (R440). A debugger write freezes the package. -/
  | dbgctlFreeze
  /-- DBGCTL_RESUME (R441). Restarts a frozen package at the next cycle. -/
  | dbgctlResume
  /-- DBGCTL_DUMP (R442). While frozen, the scan engine writes the peat image. -/
  | dbgctlDump
  /-- DBGCTL_RESTORE (R442). While frozen, a peat image is loaded into the domain. -/
  | dbgctlRestore
  /-- CRCERR_READ (R415). A read of a port's CRCERR count clears it. Acts on port of `State.args`. -/
  | crcerrRead
  /-- PEAT_IMAGE_COMPLETE (R442). The scan engine finishes writing the peat image and sets DUMPED. -/
  | peatImageComplete
  deriving DecidableEq, Repr

end Sys2Proof
end

