-- ==== Sys2Proof/WellFormed.lean ====
section
/-! DEFINITION. Which terms of `Instr` an instruction word can stand for: the field constraints of spec/02 R67 to R89 that the
types of the fields do not already say. Register numbers against the allotment and the alignment of pairs and windows are
checks of execution (R97 step 7) and stand with the meanings. -/
namespace Sys2Proof

/-- Integer lane types, codes 0x1 to 0x8 (R80). -/
def LType.isInt : LType → Bool
  | .i8x4 | .i16x2 | .i32 | .i64 | .n8x4 | .n16x2 | .n32 | .n64 => true
  | _ => false

/-- Floating-point lane types, codes 0x9 to 0xC (R80). -/
def LType.isFp : LType → Bool
  | .f16x2 | .bf16x2 | .f32 | .f64 => true
  | _ => false

/-- Types whose register operands are pairs (R23). -/
def LType.is64 : LType → Bool
  | .i64 | .n64 | .f64 => true
  | _ => false

/-- Elements per lane of a type (R124). -/
def LType.elems : LType → Nat
  | .i8x4 | .n8x4 => 4
  | .i16x2 | .n16x2 | .f16x2 | .bf16x2 => 2
  | _ => 1

/-- Signed integer types (R80). -/
def LType.signed : LType → Bool
  | .i8x4 | .i16x2 | .i32 | .i64 => true
  | _ => false

/-- What a lane instruction's row of R84 admits of the shared fields. -/
structure Adm where
  tys : List LType
  reg : Bool
  imm : Bool
  snap : Bool
  bnone : Bool
  mask : Bool
  rnd : Nat
  vcReq : Bool

/-- The prefix of R79 and the operand kinds of R84 for one instruction. -/
def LaneF.ok (f : LaneF) (a : Adm) : Bool :=
  a.tys.contains f.ty &&
  (match f.b with | .reg _ => a.reg | .imm _ => a.imm | .snap _ => a.snap | .none => a.bnone) &&
  (f.pfx || (f.men.isNone && !f.zero && f.rnd == 0 && f.vc.isNone)) &&
  (a.mask || f.men.isNone) && (f.men.isSome || !f.zero) && decide (f.rnd.toNat ≤ a.rnd) && (f.vc.isSome == a.vcReq)

/-- The integer types (R84). -/
def tInt : List LType := [.i8x4, .i16x2, .i32, .i64, .n8x4, .n16x2, .n32, .n64]
/-- The floating types (R84). -/
def tFp : List LType := [.f16x2, .bf16x2, .f32, .f64]

/-- Operand b of any kind, masks admitted, no rounding (R84). -/
def admB (ts : List LType) : Adm := ⟨ts, true, true, true, false, true, 0, false⟩
/-- No operand b (R84). -/
def admN (ts : List LType) : Adm := ⟨ts, false, false, false, true, true, 0, false⟩
/-- Operand b a register or a snapshot (R84). -/
def admRS (ts : List LType) : Adm := ⟨ts, true, false, true, false, true, 0, false⟩
/-- A memory form: bkind 0 without a register, or a snapshot base (R85). -/
def admM (ts : List LType) : Adm := ⟨ts, false, false, true, true, true, 0, false⟩

/-- Orders each memory instruction admits, with scope 0 when relaxed where R85 says so. -/
def orderOk (relOk acqOk bothOk : Bool) (o : MOrder) : Bool :=
  match o with | .relaxed => true | .acq => acqOk | .rel => relOk | .acqrel => bothOk

/-- A VATOM's operation, type and size agree (R85, R206). -/
def vatomOk (ty : LType) (op : AtomOp) (sz : MSize) : Bool :=
  (match ty, op with
   | .i32, o | .i64, o => o != .minu && o != .maxu
   | .n32, o | .n64, o => o != .min && o != .max
   | .f32, o => o == .add || o == .min || o == .max || o == .swap
   | _, _ => false) && (if ty.is64 then sz == .d else sz == .w)

/-- A VCVT's type pair and SAT (R237). -/
def vcvtOk (dst src : LType) (sat : Bool) : Bool :=
  src != .w32 && src != dst && src.elems == dst.elems &&
  (!sat || (dst.isInt && src.isInt) || ((dst == .f16x2 || dst == .bf16x2) && src.isFp))

/-- No selector of R86 is the reserved code 3. -/
def selOk (sel : BitVec 14) : Bool :=
  (List.range 7).all fun i => sel.extractLsb' (2 * i) 2 != 3#2

/-- The combinations of R265. -/
def DrainCtl.ok (c : DrainCtl) (add : Bool) : Bool :=
  match c.ofmt with
  | .fp32 | .int32 => c.rnd == 0 && !c.sat
  | .bf16 | .fp16 => !add

/-- An instruction some word stands for. Events and host operations have no word: they are not well formed as instructions
of a stream, and neither is the row of unassigned encodings. -/
def Instr.wf : Instr → Bool
  | .sbr c a _ => c != .al || a == 0
  | .vadd f _ | .vsub f _ => f.ok (admB tInt)
  | .vmul f | .vshl f | .vmin f | .vmax f => f.ok (admB tInt)
  | .vmulh f => f.ok (admB [.i32, .i64, .n32, .n64])
  | .vmad f => f.ok { admB [.i16x2, .i32, .n16x2, .n32] with vcReq := true }
  | .vand f | .vor f | .vxor f => f.ok (admB [.w32, .n64])
  | .vnot f => f.ok (admN [.w32, .n64])
  | .vshr f => f.ok (admB [.n8x4, .n16x2, .n32, .n64])
  | .vsra f => f.ok (admB [.i8x4, .i16x2, .i32, .i64])
  | .vabs f _ | .vneg f _ => f.ok (admN [.i8x4, .i16x2, .i32, .i64])
  | .vpopc f | .vclz f => f.ok (admN [.n32, .n64])
  | .vbfx f => f.ok (admB [.i32, .n32])
  | .vbfi f => f.ok (admB [.n32])
  | .vsel f _ => f.ok (admB [.w32, .n64])
  | .vcmp f _ any => f.ok (admB tInt) && f.vd.toNat < 16 && (!any || f.ty.elems != 1)
  | .vaddc f _ | .vsubb f _ => f.ok (admB [.n32])
  | .vfadd f | .vfsub f | .vfmul f => f.ok { admB tFp with rnd := 4 }
  | .vfma f | .vfms f | .vfnma f => f.ok { admB tFp with rnd := 4, vcReq := true }
  | .vfmin f _ | .vfmax f _ => f.ok (admB tFp)
  | .vfcmp f _ _ any => f.ok (admB tFp) && f.vd.toNat < 16 && (!any || f.ty.elems != 1)
  | .vfabs f | .vfneg f | .vfclass f => f.ok (admN tFp)
  | .vfrnd f _ => f.ok { admN tFp with rnd := 4 }
  | .vfdiv f => f.ok { admB [.f32, .f64] with rnd := 4 }
  | .vfsqrt f => f.ok { admN [.f32, .f64] with rnd := 4 }
  | .vrcp f | .vrsq f | .vsin f | .vcos f | .vexp2 f | .vlog2 f | .vtanh f => f.ok (admN [.f32])
  | .vcvt f src sat => f.ok { admN (tInt ++ tFp) with rnd := 4 } && vcvtOk f.ty src sat &&
      (f.rnd == 0 || !(f.ty.isInt && src.isInt))
  | .vcvpk2 f fmt hi _ => f.ok { admN [.f16x2, .bf16x2, .w32] with rnd := 5, vcReq := f.rnd == 5 } &&
      (match fmt with | .own => f.ty != .w32 && !hi | .e4m3 | .e5m2 => f.ty == .w32 | .e2m1 => false)
  | .vcvpk4 f fmt hi _ => f.ok { admN [.w32] with rnd := 5, vcReq := f.rnd == 5 } &&
      (match fmt with | .own => false | .e4m3 | .e5m2 => !hi | .e2m1 => true)
  | .vqscale f dst _ => f.ok (admN [.f32]) && dst != .own
  | .vamax f _ => f.ok (admN [.f16x2, .bf16x2, .f32])
  | .vunpk f _ _ => f.ok (admRS [.w32])
  | .vlut f j pair => f.ok (admRS [.w32]) && (!pair || j.getLsbD 0 == false) &&
      (match f.b with | .snap n => n.toNat % 4 == 0 | _ => true)
  | .vmov f => f.ok (admB [.w32, .n64]) && f.va == 0
  | .vperm f => f.ok (admRS [.w32])
  | .vbcast f => f.ok (admRS [.w32, .n64])
  | .vred f op | .vscan f op _ => f.ok (admN (tInt ++ tFp)) &&
      (f.ty.isInt || op == .add || op == .min || op == .max)
  | .vballot f => f.ok (admN [.w32]) && f.vd.toNat < 16
  | .vld f sz o sc _ => f.ok (admM [.w32, .i32, .n32]) && orderOk false true false o &&
      (o != .relaxed || sc == .grp) && (f.ty == .w32 || sz == .b || sz == .h)
  | .vst f _ o sc _ => f.ok (admM [.w32]) && orderOk true false false o && (o != .relaxed || sc == .grp)
  | .vldsp f _ _ | .vstsp f _ _ => f.ok (admM [.w32])
  | .vatom f op sz _ _ _ => f.ok (admM [.i32, .i64, .n32, .n64, .f32]) && vatomOk f.ty op sz
  | .vcas f sz _ _ _ => f.ok { admM [.n32, .n64] with vcReq := true } && (if f.ty.is64 then sz == .d else sz == .w)
  | .vpref f _ => f.ok (admM [.w32]) && f.vd == 0
  | .fdep f _ _ => f.ok { admRS [.w32] with snap := false } && f.va == 0
  | .fcpy f _ _ sel | .ftake f _ _ sel => f.ok { admRS [.w32] with snap := false } && selOk sel
  | .regrp _ _ count => decide (1 ≤ count.toNat) && decide (count.toNat ≤ 64)
  | .mdrain _ _ _ c => c.ok false
  | .mdraina _ _ _ c => c.ok true
  | .wbr c a _ => c != .al || a == 0
  | .unassignedOpcode _ _ => false
  | .sadd _ _ _ | .ssub _ _ _ | .smul _ _ _ | .smulh _ _ _
  | .sdiv _ _ _ | .sdivu _ _ _ | .srem _ _ _ | .sand _ _ _
  | .sor _ _ _ | .sxor _ _ _ | .sshl _ _ _ | .sshr _ _ _
  | .ssra _ _ _ | .smin _ _ _ | .smax _ _ _ | .sminu _ _ _
  | .smaxu _ _ _ | .scmp _ _ _ _ | .ssel _ _ _ _ | .spopc _ _
  | .sclz _ _ | .saddi _ _ _ | .sandi _ _ _ | .sori _ _ _
  | .sxori _ _ _ | .sshli _ _ _ | .sshri _ _ _ | .ssrai _ _ _
  | .smuli _ _ _ | .sli _ _ | .slui _ _ | .slxi _ _
  | .sldb _ _ _ | .sldh _ _ _ | .sldw _ _ _ | .sldd _ _ _
  | .sstb _ _ _ | .ssth _ _ _ | .sstw _ _ _ | .sstd _ _ _
  | .sldsp _ _ _ | .sstsp _ _ _ | .satom _ _ _ _ _ | .scas _ _ _ _
  | .sjmp _ | .sjmpr _ | .scall _ _ | .scallr _ _
  | .sret _ | .lenq _ | .lenqr _ | .lsync
  | .svrd _ _ _ | .swaitc _ _ _ _ | .swaitp _ _ | .sfence _
  | .stfence | .swaita _ _ | .bara _ _ | .barw _ _
  | .baraw _ _ | .barinit _ _ _ | .sacq | .srel
  | .syield | .sexit | .snop | .srds _ _ _
  | .swrs _ _ | .strap _ | .sbrk _ | .sal _ _
  | .sbsal _ _ _ | .stime _ _ | .spop _ | .cpy1d _ _ _
  | .cpy2d _ _ _ | .cpyt _ _ _ | .cpyres _ _ _ | .cseal _ _ _
  | .cwaitb _ _ _ | .cstat _ _ _ | .bxfer _ _ _ | .btarg _ _ _
  | .fsdep _ _ _ | .fstake _ _ _ | .fscpy _ _ _ | .fcfgCreate _ _ _
  | .fcfgDelete _ _ _ | .fcfgReadCounters _ _ _ | .xatom _ _ _ | .trmark _ _ _
  | .wpset _ _ _ | .kand _ _ _ | .kor _ _ _ | .kxor _ _ _
  | .knot _ _ | .kmov _ _ | .vbr _ _ _ _ | .vjoin
  | .vjmp _ | .vcall _ | .vcallv _ | .vret
  | .vend | .vbrk _ | .vtrap _ | .rjoin
  | .vnop | .vwaitc _ _ _ _ | .vfence _ | .mma _ _ _ _ _
  | .mzero _ | .mload _ _ _ | .tbarw _ _ | .tbara _ _
  | .wli _ _ | .wadd _ _ _ | .wsub _ _ _ | .wmul _ _ _
  | .waddi _ _ _ | .wldsp _ _ _ | .wstsp _ _ _ | .wshl _ _ _
  | .wjmp _ | .wloop _ _ | .texit => true
  | .blockStart | .drain | .commitHeadResume | .earlyLoadPerform
  | .scalarLoadReturn | .laneLoadReturn | .storeGwctReturn | .atomicReply
  | .atomicAtHome | .writeAccept | .writePerform | .homeRead
  | .fillReturn | .leaseExpiry _ _ _ | .writeMaskRelease | .pageWalk
  | .scalarResultWrite | .laneResultWrite | .sfuResultWrite | .wResultWrite
  | .syieldExpiry | .sacqGrant | .regrpMoveComplete | .rjoinMoveComplete
  | .groupWake _ _ | .barrierArrival | .remoteBarrierUpdate | .barrierRefusal
  | .trapEntry | .timeSliceExpiry | .willowStop | .engineStopAck
  | .willowReport _ _ | .preemptCompletion | .contextCompletion | .placementPass
  | .willowPlace | .teamStart | .queueVisit | .resume _ _
  | .trapset _ _ | .preempt _ _ | .tlbinv _ _ | .qfence _ _
  | .willowTinv | .willowLrate | .samplePoint _ | .stepBoundary
  | .droopStretch | .wcorrApply _ _ | .timex _ _ _ _ _ | .dramRefresh _ _ _
  | .refreshEnd _ _ _ | .leaveRequest | .leaveGrant | .tileFetchReturn
  | .mmaCompletion | .mzeroCompletion | .mloadCompletion | .drainCompletion
  | .mdrainaReport | .mdrainaCommit | .mdrainaApply | .errorPhaseDelivery
  | .copyPiece | .copyPieceDone | .bulkPacketSend | .bulkWrite
  | .bulkAck | .fenDeposit | .fenTake | .fenCopy
  | .fenRefill | .fenParkedDepositStore | .fenRequestRetry | .fenStatusReturn
  | .fenWithdrawal | .monitorArm | .monitorNotice | .swaitaTimeout
  | .creditReturn | .creditPacketSend | .endToEndResend | .flitReceive _ _ _
  | .nakReceive _ _ _ | .linkRetrain | .peerRead _ | .peerWrite _
  | .peerAtomic _ | .peerResponse _ | .holdFlit | .bar2Read
  | .bar2Write _ _ _ | .bar2Atomicop _ _ _ _ _ _ | .zeroLengthWrite | .hostReadCompletion _ _ _
  | .hostAtomicCompletion _ _ | .flowControlUpdate | .configRequest _ _ _ | .getVersion
  | .getCapabilities | .negotiateAlgorithms | .getDigests | .getCertificate
  | .challenge _ _ | .getMeasurements | .spdmUnsupported _ | .gateAdmit _ _
  | .arrivalCrossing _ _ | .gateLossRecord | .replayInject | .stopatReached
  | .traceInterval | .stallSample | .traceBlockWrite | .traceResync
  | .reset | .bootImageVerify _ | .bringupPhase | .fullServiceEntry
  | .gateClose | .wakeComplete | .latchedWriteApply | .wake _ _
  | .qtailDoorbell _ _ | .cqheadWrite _ _ | .fqheadWrite _ _ | .gheadWrite _ _
  | .stepreqWrite _ | .stopatdWrite _ | .trrheadWrite _ _ | .mboxinWrite _
  | .rstreqRst | .dbgctlFreeze | .dbgctlResume | .dbgctlDump
  | .dbgctlRestore | .crcerrRead | .registerWrite _ _ _ | .softError _ _ _
  | .pcieLinkTraining _ _ _ | .peatImageComplete => false

end Sys2Proof
end

