-- ==== Sys2Proof/Decode.lean ====
section
/-! DEFINITION. Decoding and encoding of the three streams (spec/02 R67 to R97). The decoder is total: it answers the
instruction, or the refusal by name of R95 and R75, making the checks of R97 steps 2 to 5 in their order. The encoder is
written from the same tables. -/
namespace Sys2Proof

/-! ## Coded fields -/

/-- cond4 (R70). -/
def condOf (c : BitVec 4) : Option Cond :=
  match c.toNat with
  | 0 => some .al | 1 => some .eqz | 2 => some .nez | 3 => some .ltz | 4 => some .gez | 5 => some .lez
  | 6 => some .gtz | 7 => some .bs | 8 => some .bc | _ => none

/-- The code of a condition (R70). -/
def Cond.code : Cond → BitVec 4
  | .al => 0 | .eqz => 1 | .nez => 2 | .ltz => 3 | .gez => 4 | .lez => 5 | .gtz => 6 | .bs => 7 | .bc => 8

/-- SCMP's fn7 (R73). -/
def scondOf (c : BitVec 7) : Option SCond :=
  match c.toNat with
  | 0 => some .eq | 1 => some .ne | 2 => some .lt | 3 => some .ge | 4 => some .le | 5 => some .gt
  | 6 => some .ltu | 7 => some .geu | 8 => some .leu | 9 => some .gtu | _ => none

/-- The code of an SCMP condition (R73). -/
def SCond.code : SCond → BitVec 7
  | .eq => 0 | .ne => 1 | .lt => 2 | .ge => 3 | .le => 4 | .gt => 5 | .ltu => 6 | .geu => 7 | .leu => 8 | .gtu => 9

/-- A scope code (R71). -/
def scopeOf (c : BitVec 3) : Option Scope :=
  match c.toNat with
  | 0 => some .grp | 1 => some .team | 2 => some .cl | 3 => some .dev | 4 => some .sys | _ => none

/-- The code of a scope (R71). -/
def Scope.code : Scope → BitVec 3
  | .grp => 0 | .team => 1 | .cl => 2 | .dev => 3 | .sys => 4

/-- An atomic operation code (R73). -/
def atomOf (c : BitVec 4) : Option AtomOp :=
  match c.toNat with
  | 0 => some .add | 1 => some .and | 2 => some .or | 3 => some .xor | 4 => some .min | 5 => some .max
  | 6 => some .minu | 7 => some .maxu | 8 => some .swap | _ => none

/-- The code of an atomic operation (R73). -/
def AtomOp.code : AtomOp → BitVec 4
  | .add => 0 | .and => 1 | .or => 2 | .xor => 3 | .min => 4 | .max => 5 | .minu => 6 | .maxu => 7 | .swap => 8

/-- SWAITP's path (R73). -/
def pathOf (c : BitVec 7) : Option WaitPath :=
  match c.toNat with
  | 1 => some .ldc | 2 => some .stc | 3 => some .cpc | 4 => some .tlc | 5 => some .cp | _ => none

/-- The code of a wait path (R73). -/
def WaitPath.code : WaitPath → BitVec 7
  | .ldc => 1 | .stc => 2 | .cpc => 3 | .tlc => 4 | .cp => 5

/-- A type code (R80). -/
def ltypeOf (c : BitVec 4) : Option LType :=
  match c.toNat with
  | 0 => some .w32 | 1 => some .i8x4 | 2 => some .i16x2 | 3 => some .i32 | 4 => some .i64 | 5 => some .n8x4
  | 6 => some .n16x2 | 7 => some .n32 | 8 => some .n64 | 9 => some .f16x2 | 10 => some .bf16x2 | 11 => some .f32
  | 12 => some .f64 | _ => none

/-- The code of a type (R80). -/
def LType.code : LType → BitVec 4
  | .w32 => 0 | .i8x4 => 1 | .i16x2 => 2 | .i32 => 3 | .i64 => 4 | .n8x4 => 5 | .n16x2 => 6 | .n32 => 7 | .n64 => 8
  | .f16x2 => 9 | .bf16x2 => 10 | .f32 => 11 | .f64 => 12

/-- VCMP's condition (R192). -/
def vcondOf (c : BitVec 3) : Option VCond :=
  match c.toNat with
  | 0 => some .eq | 1 => some .ne | 2 => some .lt | 3 => some .ge | 4 => some .le | 5 => some .gt | _ => none

/-- The code of a VCMP condition (R192). -/
def VCond.code : VCond → BitVec 3
  | .eq => 0 | .ne => 1 | .lt => 2 | .ge => 3 | .le => 4 | .gt => 5

/-- VFCMP's condition (R222). -/
def fcondOf (c : BitVec 4) : Option FCond :=
  match c.toNat with
  | 0 => some .eq | 1 => some .ne | 2 => some .lt | 3 => some .le | 4 => some .gt | 5 => some .ge | 6 => some .ord
  | 7 => some .uno | _ => none

/-- The code of a VFCMP condition (R222). -/
def FCond.code : FCond → BitVec 4
  | .eq => 0 | .ne => 1 | .lt => 2 | .le => 3 | .gt => 4 | .ge => 5 | .ord => 6 | .uno => 7

/-- A reduction operation (R192). -/
def redOf (c : BitVec 3) : Option RedOp :=
  match c.toNat with
  | 0 => some .add | 1 => some .min | 2 => some .max | 3 => some .and | 4 => some .or | 5 => some .xor | _ => none

/-- The code of a reduction operation (R192). -/
def RedOp.code : RedOp → BitVec 3
  | .add => 0 | .min => 1 | .max => 2 | .and => 3 | .or => 4 | .xor => 5

/-- SIZE (R85). -/
def msizeOf (c : BitVec 3) : Option MSize :=
  match c.toNat with
  | 0 => some .b | 1 => some .h | 2 => some .w | 3 => some .d | 4 => some .q | _ => none

/-- The code of a size (R85). -/
def MSize.code : MSize → BitVec 3
  | .b => 0 | .h => 1 | .w => 2 | .d => 3 | .q => 4

/-- ORDER (R85). -/
def morderOf (c : BitVec 2) : MOrder :=
  match c.toNat with
  | 0 => .relaxed | 1 => .acq | 2 => .rel | _ => .acqrel

/-- The code of an order (R85). -/
def MOrder.code : MOrder → BitVec 2
  | .relaxed => 0 | .acq => 1 | .rel => 2 | .acqrel => 3

/-- FMT of VCVPK2 and VCVPK4 with type 0x0 (R222). -/
def packOf (c : BitVec 2) : Option PackFmt :=
  match c.toNat with
  | 0 => some .e4m3 | 1 => some .e5m2 | 2 => some .e2m1 | _ => none

/-- The code of a packing format (R222). -/
def PackFmt.code : PackFmt → BitVec 2
  | .own => 0 | .e4m3 => 0 | .e5m2 => 1 | .e2m1 => 2

/-- D of VQSCALE (R222). -/
def qdstOf (c : BitVec 2) : Option PackFmt :=
  match c.toNat with
  | 0 => some .e2m1 | 1 => some .e4m3 | 2 => some .e5m2 | _ => none

/-- The code of a VQSCALE format (R222). -/
def PackFmt.qcode : PackFmt → BitVec 2
  | .own => 0 | .e2m1 => 0 | .e4m3 => 1 | .e5m2 => 2

/-- SPAN of VAMAX (R222). -/
def spanOf (c : BitVec 2) : Option Span :=
  match c.toNat with
  | 0 => some .all | 1 => some .b32 | 2 => some .b16 | _ => none

/-- The code of a span (R222). -/
def Span.code : Span → BitVec 2
  | .all => 0 | .b32 => 1 | .b16 => 2

/-- SRC of VUNPK (R222). -/
def unpkOf (c : BitVec 3) : Option UnpkSrc :=
  match c.toNat with
  | 0 => some .fp16 | 1 => some .bf16 | 2 => some .e4m3 | 3 => some .e5m2 | 4 => some .e2m1 | 5 => some .int8
  | 6 => some .int4 | _ => none

/-- The code of a VUNPK source (R222). -/
def UnpkSrc.code : UnpkSrc → BitVec 3
  | .fp16 => 0 | .bf16 => 1 | .e4m3 => 2 | .e5m2 => 3 | .e2m1 => 4 | .int8 => 5 | .int4 => 6

/-- OFMT of a drain (R265). -/
def ofmtOf (c : BitVec 3) : Option OFmt :=
  match c.toNat with
  | 0 => some .fp32 | 1 => some .bf16 | 2 => some .fp16 | 3 => some .int32 | _ => none

/-- The code of a drain format (R265). -/
def OFmt.code : OFmt → BitVec 3
  | .fp32 => 0 | .bf16 => 1 | .fp16 => 2 | .int32 => 3

/-- A Boolean as one bit. -/
def bit1 (b : Bool) : BitVec 1 := if b then 1 else 0

/-! ## Scalar words -/

/-- ILLEGAL with a subcode (R95). -/
def ill {α : Type} (sub : BitVec 16) : Except DecErr α := .error (.illegal sub)

/-- The instruction when no reserved field is set; otherwise subcode 0x0011 (R95). -/
def rsv (ok : Bool) (i : Instr) : Except DecErr Instr := if ok then .ok i else ill 0x0011

/-- The instruction a coded field selects; a reserved code is subcode 0x0017 (R95). -/
def coded {α : Type} (x : Option α) (f : α → Except DecErr Instr) : Except DecErr Instr :=
  match x with | some a => f a | none => ill 0x0017

/-- The functions of XCMD (R74). FCFG's three operations share one word (R301); the word decodes to `fcfgCreate`, and the
operation is read from sa when the instruction issues. -/
def decodeXcmd (d a b : BitVec 6) (func : BitVec 7) : Except DecErr Instr :=
  match func.toNat with
  | 0x01 => .ok (.cpy1d d a b) | 0x02 => .ok (.cpy2d d a b) | 0x03 => .ok (.cpyt d a b) | 0x04 => .ok (.cpyres d a b)
  | 0x05 => .ok (.cseal d a b) | 0x06 => .ok (.cwaitb d a b) | 0x07 => .ok (.cstat d a b)
  | 0x10 => .ok (.bxfer d a b) | 0x11 => .ok (.btarg d a b)
  | 0x20 => .ok (.fsdep d a b) | 0x21 => .ok (.fstake d a b) | 0x22 => .ok (.fscpy d a b) | 0x23 => .ok (.fcfgCreate d a b)
  | 0x30 => .ok (.xatom d a b) | 0x60 => .ok (.trmark d a b) | 0x61 => .ok (.wpset d a b)
  | _ => .error (.xfunc func)

/-- One scalar word (R67 to R75). (DEDUCED, log 8.) -/
def decodeScalar (w : BitVec 32) : Except DecErr Instr :=
  if w == 0 then ill 0x0016 else
  let d := w.extractLsb' 19 6
  let a := w.extractLsb' 13 6
  let b := w.extractLsb' 7 6
  let fn := w.extractLsb' 0 7
  let i13 := w.extractLsb' 0 13
  let i19 := w.extractLsb' 0 19
  let c4 := w.extractLsb' 21 4
  let sa := w.extractLsb' 15 6
  let o15 := w.extractLsb' 0 15
  let f0 := fn == 0
  match (w.extractLsb' 25 7).toNat with
  | 0x01 => rsv f0 (.sadd d a b) | 0x02 => rsv f0 (.ssub d a b) | 0x03 => rsv f0 (.smul d a b)
  | 0x04 => rsv f0 (.smulh d a b) | 0x05 => rsv f0 (.sdiv d a b) | 0x06 => rsv f0 (.sdivu d a b)
  | 0x07 => rsv f0 (.srem d a b) | 0x08 => rsv f0 (.sand d a b) | 0x09 => rsv f0 (.sor d a b)
  | 0x0A => rsv f0 (.sxor d a b) | 0x0B => rsv f0 (.sshl d a b) | 0x0C => rsv f0 (.sshr d a b)
  | 0x0D => rsv f0 (.ssra d a b) | 0x0E => rsv f0 (.smin d a b) | 0x0F => rsv f0 (.smax d a b)
  | 0x10 => rsv f0 (.sminu d a b) | 0x11 => rsv f0 (.smaxu d a b)
  | 0x12 => coded (scondOf fn) fun c => .ok (.scmp c d a b)
  | 0x13 => rsv (!fn.getLsbD 6) (.ssel d (fn.extractLsb' 0 6) a b)
  | 0x14 => rsv (b == 0 && f0) (.spopc d a) | 0x15 => rsv (b == 0 && f0) (.sclz d a)
  | 0x18 => .ok (.saddi d a i13) | 0x19 => .ok (.sandi d a i13) | 0x1A => .ok (.sori d a i13)
  | 0x1B => .ok (.sxori d a i13)
  | 0x1C => rsv (i13.extractLsb' 6 7 == 0) (.sshli d a (i13.extractLsb' 0 6))
  | 0x1D => rsv (i13.extractLsb' 6 7 == 0) (.sshri d a (i13.extractLsb' 0 6))
  | 0x1E => rsv (i13.extractLsb' 6 7 == 0) (.ssrai d a (i13.extractLsb' 0 6))
  | 0x1F => .ok (.smuli d a i13)
  | 0x20 => .ok (.sli d i19) | 0x21 => .ok (.slui d i19) | 0x22 => .ok (.slxi d i19)
  | 0x28 => .ok (.sldb d a i13) | 0x29 => .ok (.sldh d a i13) | 0x2A => .ok (.sldw d a i13) | 0x2B => .ok (.sldd d a i13)
  | 0x2C => .ok (.sstb d a i13) | 0x2D => .ok (.ssth d a i13) | 0x2E => .ok (.sstw d a i13) | 0x2F => .ok (.sstd d a i13)
  | 0x30 => .ok (.sldsp d a i13) | 0x31 => .ok (.sstsp d a i13)
  | 0x32 => coded (atomOf (fn.extractLsb' 0 4)) fun o => coded (scopeOf (fn.extractLsb' 4 3)) fun sc => .ok (.satom o sc d a b)
  | 0x33 => coded (scopeOf (fn.extractLsb' 4 3)) fun sc => rsv (fn.extractLsb' 0 4 == 0) (.scas sc d a b)
  | 0x38 => coded (condOf c4) fun c => rsv (c != .al || sa == 0) (.sbr c sa o15)
  | 0x39 => rsv (d == 0) (.sjmp i19)
  | 0x3A => rsv (d == 0 && b == 0 && f0) (.sjmpr a)
  | 0x3B => .ok (.scall d i19)
  | 0x3C => rsv (b == 0 && f0) (.scallr d a)
  | 0x3D => rsv (d == 0 && b == 0 && f0) (.sret a)
  | 0x40 => rsv (d == 0) (.lenq i19)
  | 0x41 => rsv (d == 0 && b == 0 && f0) (.lenqr a)
  | 0x42 => rsv (d == 0 && a == 0 && b == 0 && f0) .lsync
  | 0x43 => rsv (i13.extractLsb' 10 3 == 0) (.svrd d a (i13.extractLsb' 0 10))
  | 0x48 => rsv (d == 0 && a == 0 && i13.extractLsb' 12 1 == 0)
      (.swaitc (i13.extractLsb' 0 3) (i13.extractLsb' 3 3) (i13.extractLsb' 6 3) (i13.extractLsb' 9 3))
  | 0x49 => coded (pathOf fn) fun p => rsv (d == 0 && b == 0) (.swaitp p a)
  | 0x4A => coded (scopeOf (fn.extractLsb' 0 3)) fun sc =>
      rsv (d == 0 && a == 0 && b == 0 && fn.extractLsb' 3 4 == 0) (.sfence sc)
  | 0x4B => rsv (d == 0 && a == 0 && b == 0 && f0) .stfence
  | 0x4C => rsv (d == 0) (.swaita a i13)
  | 0x50 => coded (scopeOf (i13.extractLsb' 4 3)) fun sc =>
      rsv (d == 0 && a == 0 && i13.extractLsb' 7 6 == 0) (.bara (i13.extractLsb' 0 4) sc)
  | 0x51 => coded (scopeOf (i13.extractLsb' 4 3)) fun sc =>
      rsv (d == 0 && a == 0 && i13.extractLsb' 7 6 == 0) (.barw (i13.extractLsb' 0 4) sc)
  | 0x52 => coded (scopeOf (i13.extractLsb' 4 3)) fun sc =>
      rsv (d == 0 && a == 0 && i13.extractLsb' 7 6 == 0) (.baraw (i13.extractLsb' 0 4) sc)
  | 0x53 => rsv (d == 0 && fn.extractLsb' 4 3 == 0) (.barinit (fn.extractLsb' 0 4) a b)
  | 0x58 => rsv (d == 0 && a == 0 && b == 0 && f0) .sacq
  | 0x59 => rsv (d == 0 && a == 0 && b == 0 && f0) .srel
  | 0x5A => rsv (d == 0 && a == 0 && b == 0 && f0) .syield
  | 0x5B => rsv (d == 0 && a == 0 && b == 0 && f0) .sexit
  | 0x5C => rsv (d == 0 && a == 0 && b == 0 && f0) .snop
  | 0x60 => rsv (i13.extractLsb' 7 6 == 0) (.srds d a (i13.extractLsb' 0 7))
  | 0x61 => rsv (d == 0 && i13.extractLsb' 7 6 == 0) (.swrs a (i13.extractLsb' 0 7))
  | 0x62 => rsv (d == 0 && a == 0) (.strap i13)
  | 0x63 => rsv (d == 0 && a == 0) (.sbrk i13)
  | 0x64 => rsv (b == 0 && f0) (.sal d a)
  | 0x65 => .ok (.sbsal c4 sa o15)
  | 0x66 => coded (if fn == 0 then some false else if fn == 1 then some true else none) fun wl =>
      rsv (a == 0 && b == 0) (.stime d wl)
  | 0x68 => rsv (d == 0 && b == 0 && f0) (.spop a)
  | 0x7E => decodeXcmd d a b fn
  | _ => ill 0x0010

/-! ## Lane words -/

/-- How an instruction treats vc (R84): forbidden, required, or required exactly when rnd is 5. -/
inductive VcUse where
  | no | req | rs
  deriving DecidableEq, Repr

/-- The fields of a lane instruction's words as they stand (R76). -/
structure LaneRaw where
  ty : BitVec 4
  md : BitVec 12
  bk : BitVec 2
  vd : BitVec 10
  va : BitVec 10
  vb : BitVec 10
  imm : BitVec 32
  deriving DecidableEq, Repr

/-- One row of R84, with the fields it uses (R78) and the instruction it makes: `build` makes the checks of the coded fields
of mod12 and of imm32 (0x0017), then the combinations with a subcode of their own, and says whether mod12's and the
instruction's other reserved fields are clear. -/
structure LaneRow where
  tys : List LType
  reg : Bool := false
  imm : Bool := false
  snap : Bool := false
  mask : Bool := true
  rnd : Nat := 0
  vc : VcUse := .no
  noPfx : Bool := false
  useD : Bool := true
  useA : Bool := true
  useB : Bool := false
  useI : Bool := false
  build : LaneF → LaneRaw → Except DecErr (Instr × Bool)

/-- A row whose mod12 is reserved. -/
def mkPlain (k : LaneF → Instr) (f : LaneF) (r : LaneRaw) : Except DecErr (Instr × Bool) := .ok (k f, r.md == 0)

/-- Mod12 bit 0 alone. -/
def mkBit (k : LaneF → Bool → Instr) (f : LaneF) (r : LaneRaw) : Except DecErr (Instr × Bool) :=
  .ok (k f (r.md.getLsbD 0), r.md.extractLsb' 1 11 == 0)

/-- Mod12 bits 3:0 a mask register (R192). -/
def mkMask (k : LaneF → BitVec 4 → Instr) (f : LaneF) (r : LaneRaw) : Except DecErr (Instr × Bool) :=
  .ok (k f (r.md.extractLsb' 0 4), r.md.extractLsb' 4 8 == 0)

/-- A coded field of a lane instruction (0x0017). -/
def lcode {α β : Type} (x : Option α) (f : α → Except DecErr β) : Except DecErr β :=
  match x with | some a => f a | none => ill 0x0017

/-- A memory row: SIZE, scope, ORDER of mod12 (R85). `k` answers the instruction; bits 11:8 are reserved. An ORDER that the row does not
admit raises 0x0017. (DEDUCED, log 73.) -/
def mkMem (relOk acqOk bothOk : Bool) (k : LaneF → MSize → MOrder → Scope → BitVec 32 → Instr) (f : LaneF) (r : LaneRaw) :
    Except DecErr (Instr × Bool) :=
  lcode (msizeOf (r.md.extractLsb' 0 3)) fun sz => lcode (scopeOf (r.md.extractLsb' 3 3)) fun sc =>
    let o := morderOf (r.md.extractLsb' 6 2)
    if !orderOk relOk acqOk bothOk o then ill 0x0017 else
    .ok (k f sz o sc r.imm, r.md.extractLsb' 8 4 == 0 && (bothOk || o != .relaxed || sc == .grp))

/-- The Fen rows: blocking, scope, selectors (R86). -/
def mkFen (dep : Bool) (k : LaneF → Bool → Scope → BitVec 14 → Instr) (f : LaneF) (r : LaneRaw) :
    Except DecErr (Instr × Bool) :=
  lcode (scopeOf (r.md.extractLsb' 1 3)) fun sc =>
    let sel := r.imm.extractLsb' 0 14
    if !dep && !selOk sel then ill 0x0017 else
    .ok (k f (r.md.getLsbD 0) sc sel, r.md.extractLsb' 4 8 == 0 && (if dep then r.imm == 0 else r.imm.extractLsb' 14 18 == 0))

/-- A control row (R87): no prefix, no operand of R81. -/
def ctl (useA useI : Bool) (mkr : LaneRaw → Except DecErr (Instr × Bool)) : LaneRow :=
  { tys := [.w32], mask := false, noPfx := true, useD := false, useA := useA, useI := useI, build := fun _ r => mkr r }

/-- A mask row (R199). -/
def kRow (two : Bool) (k : LaneRaw → Instr) : LaneRow :=
  { tys := [.w32], reg := two, mask := false, noPfx := true, useB := two,
    build := fun _ r => .ok (k r, r.md == 0 && r.vd.extractLsb' 4 6 == 0 && r.va.extractLsb' 4 6 == 0 &&
      r.vb.extractLsb' 4 6 == 0) }

/-- Operand b of any kind (R84). -/
def rowB (tys : List LType) (mk : LaneF → LaneRaw → Except DecErr (Instr × Bool)) : LaneRow :=
  { tys := tys, reg := true, imm := true, snap := true, useB := true, build := mk }

/-- No operand b (R84). -/
def rowN (tys : List LType) (mk : LaneF → LaneRaw → Except DecErr (Instr × Bool)) : LaneRow := { tys := tys, build := mk }

/-- Operand b a register or a snapshot (R84). -/
def rowRS (tys : List LType) (mk : LaneF → LaneRaw → Except DecErr (Instr × Bool)) : LaneRow :=
  { tys := tys, reg := true, snap := true, useB := true, build := mk }

/-- A memory row (R85): kind 0 without vb, or a snapshot base; imm32 the offset. -/
def rowM (tys : List LType) (mk : LaneF → LaneRaw → Except DecErr (Instr × Bool)) : LaneRow :=
  { tys := tys, snap := true, useI := true, build := mk }

/-- The low ten bits of a mask-register destination (R84). -/
def kdOk (r : LaneRaw) : Bool := r.vd.extractLsb' 4 6 == 0

/-- VCVT's checks (R237). -/
def mkCvt (f : LaneF) (r : LaneRaw) : Except DecErr (Instr × Bool) :=
  match ltypeOf (r.md.extractLsb' 0 4) with
  | none | some .w32 => ill 0x0017
  | some s =>
    let sat := r.md.getLsbD 4
    if s == f.ty || s.elems != f.ty.elems then ill 0x0050
    else if !vcvtOk f.ty s sat then ill 0x0051
    else .ok (.vcvt f s sat, r.md.extractLsb' 5 7 == 0)

/-- VCVPK2's and VCVPK4's checks (R239). -/
def mkPack (four : Bool) (f : LaneF) (r : LaneRaw) : Except DecErr (Instr × Bool) :=
  let hi := r.md.getLsbD 2
  let sat := r.md.getLsbD 3
  let ok := r.md.extractLsb' 4 8 == 0
  if !four && f.ty != .w32 then
    if r.md.extractLsb' 0 2 != 0 || hi then ill 0x0052 else .ok (.vcvpk2 f .own false sat, ok)
  else
    lcode (packOf (r.md.extractLsb' 0 2)) fun p =>
      if four then
        if p != .e2m1 && hi then ill 0x0052 else .ok (.vcvpk4 f p hi sat, ok)
      else if p == .e2m1 then ill 0x0052 else .ok (.vcvpk2 f p hi sat, ok)

/-- The lane opcode map with its admissions (R83, R84); VPERM has type 0x0 only. (DEDUCED, log 73.) -/
def laneRow (op : Nat) : Option LaneRow :=
  match op with
  | 0x010 => some (rowB tInt (mkBit .vadd)) | 0x011 => some (rowB tInt (mkBit .vsub))
  | 0x012 => some (rowB tInt (mkPlain .vmul))
  | 0x013 => some (rowB [.i32, .i64, .n32, .n64] (mkPlain .vmulh))
  | 0x014 => some { rowB [.i16x2, .i32, .n16x2, .n32] (mkPlain .vmad) with vc := .req }
  | 0x015 => some (rowB [.w32, .n64] (mkPlain .vand)) | 0x016 => some (rowB [.w32, .n64] (mkPlain .vor))
  | 0x017 => some (rowB [.w32, .n64] (mkPlain .vxor)) | 0x018 => some (rowN [.w32, .n64] (mkPlain .vnot))
  | 0x019 => some (rowB tInt (mkPlain .vshl))
  | 0x01A => some (rowB [.n8x4, .n16x2, .n32, .n64] (mkPlain .vshr))
  | 0x01B => some (rowB [.i8x4, .i16x2, .i32, .i64] (mkPlain .vsra))
  | 0x01C => some (rowB tInt (mkPlain .vmin)) | 0x01D => some (rowB tInt (mkPlain .vmax))
  | 0x01E => some (rowN [.i8x4, .i16x2, .i32, .i64] (mkBit .vabs))
  | 0x01F => some (rowN [.i8x4, .i16x2, .i32, .i64] (mkBit .vneg))
  | 0x020 => some (rowN [.n32, .n64] (mkPlain .vpopc)) | 0x021 => some (rowN [.n32, .n64] (mkPlain .vclz))
  | 0x022 => some (rowB [.i32, .n32] (mkPlain .vbfx)) | 0x023 => some (rowB [.n32] (mkPlain .vbfi))
  | 0x024 => some (rowB [.w32, .n64] (mkMask .vsel))
  | 0x025 => some (rowB tInt fun f r => lcode (vcondOf (r.md.extractLsb' 0 3)) fun c =>
      .ok (.vcmp f c (r.md.getLsbD 3), r.md.extractLsb' 4 8 == 0 && kdOk r && (!r.md.getLsbD 3 || f.ty.elems != 1)))
  | 0x026 => some (rowB [.n32] (mkMask .vaddc)) | 0x027 => some (rowB [.n32] (mkMask .vsubb))
  | 0x040 => some { rowB tFp (mkPlain .vfadd) with rnd := 4 } | 0x041 => some { rowB tFp (mkPlain .vfsub) with rnd := 4 }
  | 0x042 => some { rowB tFp (mkPlain .vfmul) with rnd := 4 }
  | 0x043 => some { rowB tFp (mkPlain .vfma) with rnd := 4, vc := .req }
  | 0x044 => some { rowB tFp (mkPlain .vfms) with rnd := 4, vc := .req }
  | 0x045 => some { rowB tFp (mkPlain .vfnma) with rnd := 4, vc := .req }
  | 0x046 => some (rowB tFp (mkBit .vfmin)) | 0x047 => some (rowB tFp (mkBit .vfmax))
  | 0x048 => some (rowN tFp (mkPlain .vfabs)) | 0x049 => some (rowN tFp (mkPlain .vfneg))
  | 0x04A => some (rowB tFp fun f r => lcode (fcondOf (r.md.extractLsb' 0 4)) fun c =>
      .ok (.vfcmp f c (r.md.getLsbD 4) (r.md.getLsbD 5),
        r.md.extractLsb' 6 6 == 0 && kdOk r && (!r.md.getLsbD 5 || f.ty.elems != 1)))
  | 0x04B => some (rowN tFp (mkPlain .vfclass))
  | 0x04C => some { rowN tFp (mkBit .vfrnd) with rnd := 4 }
  | 0x04D => some { rowB [.f32, .f64] (mkPlain .vfdiv) with rnd := 4 }
  | 0x04E => some { rowN [.f32, .f64] (mkPlain .vfsqrt) with rnd := 4 }
  | 0x070 => some (rowN [.f32] (mkPlain .vrcp)) | 0x071 => some (rowN [.f32] (mkPlain .vrsq))
  | 0x072 => some (rowN [.f32] (mkPlain .vsin)) | 0x073 => some (rowN [.f32] (mkPlain .vcos))
  | 0x074 => some (rowN [.f32] (mkPlain .vexp2)) | 0x075 => some (rowN [.f32] (mkPlain .vlog2))
  | 0x076 => some (rowN [.f32] (mkPlain .vtanh))
  | 0x080 => some { rowN (tInt ++ tFp) mkCvt with rnd := 4 }
  | 0x081 => some { rowN [.f16x2, .bf16x2, .w32] (mkPack false) with rnd := 5, vc := .rs }
  | 0x082 => some { rowN [.w32] (mkPack true) with rnd := 5, vc := .rs }
  | 0x083 => some (rowN [.f32] fun f r => lcode (qdstOf (r.md.extractLsb' 0 2)) fun p =>
      .ok (.vqscale f p (r.md.getLsbD 2), r.md.extractLsb' 3 9 == 0))
  | 0x084 => some (rowN [.f16x2, .bf16x2, .f32] fun f r => lcode (spanOf (r.md.extractLsb' 0 2)) fun p =>
      .ok (.vamax f p, r.md.extractLsb' 2 10 == 0))
  | 0x085 => some (rowRS [.w32] fun f r => lcode (unpkOf (r.md.extractLsb' 0 3)) fun p =>
      .ok (.vunpk f p (r.md.getLsbD 3), r.md.extractLsb' 4 8 == 0))
  | 0x086 => some (rowRS [.w32] fun f r =>
      if r.bk == 2 && r.vb.extractLsb' 0 2 != 0 then ill 0x0053
      else if r.md.getLsbD 3 && r.md.getLsbD 0 then ill 0x0054
      else .ok (.vlut f (r.md.extractLsb' 0 3) (r.md.getLsbD 3), r.md.extractLsb' 4 8 == 0))
  | 0x0A0 => some { rowB [.w32, .n64] (mkPlain .vmov) with useA := false }
  | 0x0A1 => some (rowRS [.w32] (mkPlain .vperm))
  | 0x0A2 => some (rowRS [.w32, .n64] (mkPlain .vbcast))
  | 0x0A3 => some (rowN (tInt ++ tFp) fun f r => lcode (redOf (r.md.extractLsb' 0 3)) fun o =>
      if !f.ty.isInt && o != .add && o != .min && o != .max then ill 0x0044
      else .ok (.vred f o, r.md.extractLsb' 3 9 == 0))
  | 0x0A4 => some (rowN (tInt ++ tFp) fun f r => lcode (redOf (r.md.extractLsb' 0 3)) fun o =>
      if !f.ty.isInt && o != .add && o != .min && o != .max then ill 0x0044
      else .ok (.vscan f o (r.md.getLsbD 3), r.md.extractLsb' 4 8 == 0))
  | 0x0A5 => some (rowN [.w32] fun f r => .ok (.vballot f, r.md == 0 && kdOk r))
  | 0x0A6 => some (kRow true fun r => .kand (r.vd.extractLsb' 0 4) (r.va.extractLsb' 0 4) (r.vb.extractLsb' 0 4))
  | 0x0A7 => some (kRow true fun r => .kor (r.vd.extractLsb' 0 4) (r.va.extractLsb' 0 4) (r.vb.extractLsb' 0 4))
  | 0x0A8 => some (kRow true fun r => .kxor (r.vd.extractLsb' 0 4) (r.va.extractLsb' 0 4) (r.vb.extractLsb' 0 4))
  | 0x0A9 => some (kRow false fun r => .knot (r.vd.extractLsb' 0 4) (r.va.extractLsb' 0 4))
  | 0x0AA => some (kRow false fun r => .kmov (r.vd.extractLsb' 0 4) (r.va.extractLsb' 0 4))
  | 0x0C0 => some (rowM [.w32, .i32, .n32] (mkMem false true false .vld))
  | 0x0C1 => some (rowM [.w32] (mkMem true false false .vst))
  | 0x0C2 => some (rowM [.w32] (mkMem false false false fun f sz _ _ i => .vldsp f sz i))
  | 0x0C3 => some (rowM [.w32] (mkMem false false false fun f sz _ _ i => .vstsp f sz i))
  | 0x0C4 => some (rowM [.i32, .i64, .n32, .n64, .f32] fun f r =>
      lcode (msizeOf (r.md.extractLsb' 0 3)) fun sz => lcode (scopeOf (r.md.extractLsb' 3 3)) fun sc =>
      lcode (atomOf (r.md.extractLsb' 8 4)) fun o =>
        if !vatomOk f.ty o sz then ill 0x0044
        else .ok (.vatom f o sz (morderOf (r.md.extractLsb' 6 2)) sc r.imm, true))
  | 0x0C5 => some { rowM [.n32, .n64] (mkMem true true true fun f sz o sc i => .vcas f sz o sc i) with vc := .req }
  | 0x0C6 => some { rowM [.w32] (fun f r =>
      if r.md.extractLsb' 0 3 != 0 || r.md.extractLsb' 6 2 != 0 || (scopeOf (r.md.extractLsb' 3 3)).isNone then ill 0x0017
      else .ok (.vpref f r.imm, r.md == 0)) with useD := false }
  | 0x0F0 => some { rowRS [.w32] (mkFen true fun f b sc _ => .fdep f b sc) with snap := false, useA := false, useI := true }
  | 0x0F1 => some { rowRS [.w32] (mkFen false .fcpy) with snap := false, useI := true }
  | 0x0F2 => some { rowRS [.w32] (mkFen false .ftake) with snap := false, useI := true }
  | 0x100 => some { ctl true true (fun r => .ok (.vbr (r.md.extractLsb' 0 4) (r.md.getLsbD 4) r.imm
      (r.vd ++ r.va ++ r.vb), r.md.extractLsb' 5 7 == 0)) with useD := true, useB := true, reg := true }
  | 0x101 => some (ctl false false fun r => .ok (.vjoin, r.md == 0))
  | 0x102 => some (ctl false true fun r => .ok (.vjmp r.imm, r.md == 0))
  | 0x103 => some (ctl false true fun r => .ok (.vcall r.imm, r.md == 0))
  | 0x104 => some (ctl true false fun r => .ok (.vcallv r.va, r.md == 0))
  | 0x105 => some (ctl false false fun r => .ok (.vret, r.md == 0))
  | 0x106 => some (ctl false false fun r => .ok (.vend, r.md == 0))
  | 0x107 => some (ctl false true fun r => .ok (.vbrk (r.imm.extractLsb' 0 13), r.md == 0 && r.imm.extractLsb' 13 19 == 0))
  | 0x108 => some (ctl false true fun r => .ok (.vtrap (r.imm.extractLsb' 0 13), r.md == 0 && r.imm.extractLsb' 13 19 == 0))
  | 0x109 => some (ctl true true fun r =>
      let n := r.imm.extractLsb' 10 7
      if n.toNat == 0 || n.toNat > 64 then ill 0x0043
      else .ok (.regrp r.va (r.imm.extractLsb' 0 10) n, r.md == 0 && r.imm.extractLsb' 17 15 == 0))
  | 0x10A => some (ctl false false fun r => .ok (.rjoin, r.md == 0))
  | 0x10B => some (ctl false false fun r => .ok (.vnop, r.md == 0))
  | 0x10C => some (ctl false false fun r =>
      .ok (.vwaitc (r.md.extractLsb' 0 3) (r.md.extractLsb' 3 3) (r.md.extractLsb' 6 3) (r.md.extractLsb' 9 3), true))
  | 0x10D => some (ctl false false fun r => lcode (scopeOf (r.md.extractLsb' 0 3)) fun sc =>
      .ok (.vfence sc, r.md.extractLsb' 3 9 == 0))
  | _ => none

/-- The operand b that the fields name (R81). -/
def opBOf (row : LaneRow) (r : LaneRaw) : OpB :=
  if r.bk == 1 then .imm r.imm
  else if r.bk == 2 then .snap (r.vb.extractLsb' 0 4)
  else if row.useB then .reg r.vb else .none

/-- The operand kind is one the row admits (R84: without an operand b, bkind must be 0). -/
def bkOk (row : LaneRow) (bk : BitVec 2) : Bool :=
  if bk == 0 then row.reg || !(row.imm || row.snap) || row.useI else if bk == 1 then row.imm else if bk == 2 then row.snap else false

/-- The prefix of R79 as the row admits it (R97 step 4). `p` is the prefix word, 0 where there is none. -/
def pfxOk (row : LaneRow) (present : Bool) (p : BitVec 32) (intInt : Bool) : Bool :=
  let men := p.getLsbD 23
  let rnd := (p.extractLsb' 19 3).toNat
  let vcp := p.getLsbD 18
  let need := match row.vc with | .no => false | .req => true | .rs => rnd == 5
  !(present && row.noPfx) && (!men || row.mask) && (men || (p.extractLsb' 24 4 == 0 && !p.getLsbD 22)) &&
  (decide (rnd ≤ row.rnd) || (decide (6 ≤ rnd) && row.rnd != 0)) && vcp == need && (vcp || p.extractLsb' 8 10 == 0) &&
  p.extractLsb' 0 8 == 0 && !(intInt && rnd != 0)

/-- Fields of word 1 and word 2 that the row does not use are zero (R78, R81). -/
def unusedOk (row : LaneRow) (r : LaneRaw) : Bool :=
  (row.useD || r.vd == 0) && (row.useA || r.va == 0) &&
  (if r.bk == 0 then row.useB || r.vb == 0 else if r.bk == 2 then r.vb.extractLsb' 4 6 == 0 else r.vb == 0) &&
  (row.useI || r.bk == 1 || r.imm == 0)

/-- The words after the first-word class check: `p` the prefix (0 where absent), then words 0, 1 and 2 (R97 steps 3 to 5). A type that
disagrees with its size raises 0x0012. (DEDUCED, log 73.) -/
def decodeLaneBody (present : Bool) (p w0 w1 w2 : BitVec 32) : Except DecErr Instr :=
  match laneRow (w0.extractLsb' 16 12).toNat with
  | none => ill 0x0010
  | some row =>
    let r : LaneRaw := ⟨w0.extractLsb' 12 4, w0.extractLsb' 0 12, w1.extractLsb' 30 2, w1.extractLsb' 20 10,
      w1.extractLsb' 10 10, w1.extractLsb' 0 10, w2⟩
    let isCvt := (w0.extractLsb' 16 12).toNat == 0x080
    let isInt := fun c : BitVec 4 => decide (1 ≤ c.toNat) && decide (c.toNat ≤ 8)
    if !pfxOk row present p (isCvt && isInt r.ty && isInt (r.md.extractLsb' 0 4)) then ill 0x0014 else
    match ltypeOf r.ty with
    | none => ill 0x0012
    | some ty =>
      if !row.tys.contains ty then ill 0x0012
      else if memTypeBad (w0.extractLsb' 16 12).toNat ty (r.md.extractLsb' 0 3) then ill 0x0012
      else if !bkOk row r.bk then ill 0x0013
      else
        let rnd := p.extractLsb' 19 3
        if decide (6 ≤ rnd.toNat) then ill 0x0017 else
        let f : LaneF := ⟨ty, r.vd, r.va, opBOf row r, present, if p.getLsbD 23 then some (p.extractLsb' 24 4) else none,
          p.getLsbD 22, rnd, if p.getLsbD 18 then some (p.extractLsb' 8 10) else none⟩
        match row.build f r with
        | .error e => .error e
        | .ok (i, ok) => rsv (ok && unusedOk row r) i
where
  /-- Types that R85 ties to a size: 0x3 and 0x7 of VLD only with .b and .h; those of VATOM and VCAS with .w or .d. -/
  memTypeBad (op : Nat) (ty : LType) (sz : BitVec 3) : Bool :=
    if op == 0x0C0 then ty != .w32 && decide (2 ≤ sz.toNat) && decide (sz.toNat ≤ 4)
    else if op == 0x0C4 || op == 0x0C5 then
      decide (sz.toNat ≤ 4) && sz.toNat != (if ty.is64 then 3 else 2)
    else false

/-- A lane instruction's words (R76, R77, R96); words that are missing read as 0. (DEDUCED, log 11.) -/
def decodeLane (ws : List (BitVec 32)) : Except DecErr Instr :=
  let first := ws.getD 0 0
  if first == 0 then ill 0x0016
  else if first.extractLsb' 28 4 == 0xF then
    let w0 := ws.getD 1 0
    if w0 == 0 then ill 0x0016
    else if w0.extractLsb' 28 4 != 0xA then ill 0x0015
    else decodeLaneBody true first w0 (ws.getD 2 0) (ws.getD 3 0)
  else if first.extractLsb' 28 4 != 0xA then ill 0x0015
  else decodeLaneBody false 0 first (ws.getD 1 0) (ws.getD 2 0)

/-! ## Team words -/

/-- The drain-control word (R265): OFMT and SCOPE codes first (0x0017), then the combinations (0x0023). -/
def decodeDrainCtl (add : Bool) (w : BitVec 32) : Except DecErr DrainCtl :=
  match ofmtOf (w.extractLsb' 0 3), scopeOf (w.extractLsb' 5 3) with
  | some o, some sc =>
    let c : DrainCtl := ⟨o, w.getLsbD 3, w.getLsbD 4, sc, w.extractLsb' 8 2, w.getLsbD 10⟩
    if w.extractLsb' 11 21 != 0 || !c.ok add then ill 0x0023 else .ok c
  | _, _ => ill 0x0017

/-- One team word (R88, R89). -/
def decodeTeam (w : BitVec 64) : Except DecErr Instr :=
  if w == 0 then ill 0x0016 else
  let d := w.extractLsb' 51 5
  let a := w.extractLsb' 46 5
  let b := w.extractLsb' 41 5
  let c := w.extractLsb' 36 5
  let n := w.extractLsb' 32 4
  let i := w.extractLsb' 0 32
  let t := d.extractLsb' 0 3
  let tOk := d.extractLsb' 3 2 == 0
  match (w.extractLsb' 56 8).toNat with
  | 0x01 => rsv (tOk && i == 0) (.mma t a b c n)
  | 0x02 => rsv (tOk && a == 0 && b == 0 && c == 0 && n == 0 && i == 0) (.mzero t)
  | 0x03 => match decodeDrainCtl false i with
    | .error e => .error e
    | .ok x => rsv (tOk && b == 0 && c == 0) (.mdrain t a n x)
  | 0x04 => match decodeDrainCtl true i with
    | .error e => .error e
    | .ok x => rsv (tOk && b == 0 && c == 0) (.mdraina t a n x)
  | 0x05 => rsv (tOk && b == 0 && c == 0 && i == 0) (.mload t a n)
  | 0x10 => coded (scopeOf (i.extractLsb' 0 3)) fun sc =>
      rsv (d == 0 && a == 0 && b == 0 && c == 0 && i.extractLsb' 3 29 == 0) (.tbarw n sc)
  | 0x11 => coded (scopeOf (i.extractLsb' 0 3)) fun sc =>
      rsv (d == 0 && a == 0 && b == 0 && c == 0 && i.extractLsb' 3 29 == 0) (.tbara n sc)
  | 0x20 => rsv (a == 0 && b == 0 && c == 0 && n == 0) (.wli d i)
  | 0x21 => rsv (c == 0 && n == 0 && i == 0) (.wadd d a b)
  | 0x22 => rsv (c == 0 && n == 0 && i == 0) (.wsub d a b)
  | 0x23 => rsv (c == 0 && n == 0 && i == 0) (.wmul d a b)
  | 0x24 => rsv (b == 0 && c == 0 && n == 0) (.waddi d a i)
  | 0x25 => rsv (b == 0 && c == 0 && n == 0) (.wldsp d a i)
  | 0x26 => rsv (d == 0 && c == 0 && n == 0) (.wstsp b a i)
  | 0x27 => rsv (c == 0 && n == 0 && i == 0) (.wshl d a b)
  | 0x30 => coded (condOf n) fun k => rsv (d == 0 && b == 0 && c == 0 && (k != .al || a == 0)) (.wbr k a i)
  | 0x31 => rsv (d == 0 && a == 0 && b == 0 && c == 0 && n == 0) (.wjmp i)
  | 0x32 => rsv (d == 0 && b == 0 && c == 0 && n == 0) (.wloop a i)
  | 0x3F => rsv (d == 0 && a == 0 && b == 0 && c == 0 && n == 0 && i == 0) .texit
  | _ => ill 0x0010

/-! ## Encoding -/

/-- S-R word (R67). -/
def wordSR (op : BitVec 7) (d a b : BitVec 6) (fn : BitVec 7) : BitVec 32 := op ++ d ++ a ++ b ++ fn
/-- S-I word (R67). -/
def wordSI (op : BitVec 7) (d a : BitVec 6) (imm : BitVec 13) : BitVec 32 := op ++ d ++ a ++ imm
/-- S-B word (R67). -/
def wordSB (op : BitVec 7) (c : BitVec 4) (a : BitVec 6) (off : BitVec 15) : BitVec 32 := op ++ c ++ a ++ off
/-- S-L word (R67). -/
def wordSL (op : BitVec 7) (d : BitVec 6) (imm : BitVec 19) : BitVec 32 := op ++ d ++ imm
/-- S-X word (R67). -/
def wordSX (d a b : BitVec 6) (func : BitVec 7) : BitVec 32 := 0x7E#7 ++ d ++ a ++ b ++ func
/-- Team word (R88). -/
def wordT (op : BitVec 8) (d a b c : BitVec 5) (n : BitVec 4) (imm : BitVec 32) : BitVec 64 :=
  op ++ d ++ a ++ b ++ c ++ n ++ imm
/-- A team word as its two 32-bit halves, lower first (R88: little-endian). -/
def halves (w : BitVec 64) : List (BitVec 32) := [w.extractLsb' 0 32, w.extractLsb' 32 32]

/-- The prefix word of a lane instruction (R76). -/
def LaneF.pfxWord (f : LaneF) : BitVec 32 :=
  0xF#4 ++ f.men.getD 0 ++ bit1 f.men.isSome ++ bit1 f.zero ++ f.rnd ++ bit1 f.vc.isSome ++ f.vc.getD 0 ++ 0#8

/-- The words of a lane data instruction (R76): opcode, mod12, shared fields, imm32 where b is not an immediate. -/
def wordsL (op md : BitVec 12) (f : LaneF) (imm : BitVec 32) : List (BitVec 32) :=
  let w0 : BitVec 32 := 0xA#4 ++ op ++ f.ty.code ++ md
  let w1 : BitVec 32 := match f.b with
    | .reg r => 0#2 ++ f.vd ++ f.va ++ r
    | .imm _ => 1#2 ++ f.vd ++ f.va ++ 0#10
    | .snap n => 2#2 ++ f.vd ++ f.va ++ (0#6 ++ n)
    | .none => 0#2 ++ f.vd ++ f.va ++ 0#10
  let w2 := match f.b with | .imm w => w | _ => imm
  if f.pfx then [f.pfxWord, w0, w1, w2] else [w0, w1, w2]

/-- The words of a control or mask instruction (R87, R199): type 0, no prefix. -/
def wordsC (op md : BitVec 12) (w1 imm : BitVec 32) : List (BitVec 32) := [0xA#4 ++ op ++ 0#4 ++ md, w1, imm]

/-- Word 1 of a mask instruction (R199). -/
def kw1 (d a b : BitVec 4) : BitVec 32 := 0#2 ++ (0#6 ++ d) ++ (0#6 ++ a) ++ (0#6 ++ b)

/-- Mod12 of a memory instruction (R85). -/
def memMd (op : BitVec 4) (sz : MSize) (o : MOrder) (sc : Scope) : BitVec 12 := op ++ o.code ++ sc.code ++ sz.code

/-- Mod12 of a Fen instruction (R86). -/
def fenMd (blk : Bool) (sc : Scope) : BitVec 12 := 0#8 ++ sc.code ++ bit1 blk

/-- The drain-control word (R265). -/
def DrainCtl.code (c : DrainCtl) : BitVec 32 :=
  0#21 ++ bit1 c.sat ++ c.rnd ++ c.sc.code ++ bit1 c.zero ++ bit1 c.spd ++ c.ofmt.code

/-- The words of an instruction, first at the lowest address; the empty list for a row that has no word. -/
def encode : Instr → List (BitVec 32)
  | .sadd d a b => [wordSR 0x01 d a b 0]
  | .ssub d a b => [wordSR 0x02 d a b 0]
  | .smul d a b => [wordSR 0x03 d a b 0]
  | .smulh d a b => [wordSR 0x04 d a b 0]
  | .sdiv d a b => [wordSR 0x05 d a b 0]
  | .sdivu d a b => [wordSR 0x06 d a b 0]
  | .srem d a b => [wordSR 0x07 d a b 0]
  | .sand d a b => [wordSR 0x08 d a b 0]
  | .sor d a b => [wordSR 0x09 d a b 0]
  | .sxor d a b => [wordSR 0x0A d a b 0]
  | .sshl d a b => [wordSR 0x0B d a b 0]
  | .sshr d a b => [wordSR 0x0C d a b 0]
  | .ssra d a b => [wordSR 0x0D d a b 0]
  | .smin d a b => [wordSR 0x0E d a b 0]
  | .smax d a b => [wordSR 0x0F d a b 0]
  | .sminu d a b => [wordSR 0x10 d a b 0]
  | .smaxu d a b => [wordSR 0x11 d a b 0]
  | .scmp c d a b => [wordSR 0x12 d a b c.code]
  | .ssel d c a b => [wordSR 0x13 d a b (0#1 ++ c)]
  | .spopc d a => [wordSR 0x14 d a 0 0]
  | .sclz d a => [wordSR 0x15 d a 0 0]
  | .saddi d a i => [wordSI 0x18 d a i]
  | .sandi d a i => [wordSI 0x19 d a i]
  | .sori d a i => [wordSI 0x1A d a i]
  | .sxori d a i => [wordSI 0x1B d a i]
  | .smuli d a i => [wordSI 0x1F d a i]
  | .sldb d a i => [wordSI 0x28 d a i]
  | .sldh d a i => [wordSI 0x29 d a i]
  | .sldw d a i => [wordSI 0x2A d a i]
  | .sldd d a i => [wordSI 0x2B d a i]
  | .sstb d a i => [wordSI 0x2C d a i]
  | .ssth d a i => [wordSI 0x2D d a i]
  | .sstw d a i => [wordSI 0x2E d a i]
  | .sstd d a i => [wordSI 0x2F d a i]
  | .sldsp d a i => [wordSI 0x30 d a i]
  | .sstsp d a i => [wordSI 0x31 d a i]
  | .sshli d a n => [wordSI 0x1C d a (0#7 ++ n)]
  | .sshri d a n => [wordSI 0x1D d a (0#7 ++ n)]
  | .ssrai d a n => [wordSI 0x1E d a (0#7 ++ n)]
  | .sli d i => [wordSL 0x20 d i]
  | .slui d i => [wordSL 0x21 d i]
  | .slxi d i => [wordSL 0x22 d i]
  | .scall d i => [wordSL 0x3B d i]
  | .sjmp i => [wordSL 0x39 0 i]
  | .lenq i => [wordSL 0x40 0 i]
  | .satom o sc d a b => [wordSR 0x32 d a b (sc.code ++ o.code)]
  | .scas sc d a b => [wordSR 0x33 d a b (sc.code ++ 0#4)]
  | .sbr c a off => [wordSB 0x38 c.code a off]
  | .sjmpr a => [wordSR 0x3A 0 a 0 0]
  | .scallr d a => [wordSR 0x3C d a 0 0]
  | .sret a => [wordSR 0x3D 0 a 0 0]
  | .lenqr a => [wordSR 0x41 0 a 0 0]
  | .lsync => [wordSR 0x42 0 0 0 0]
  | .svrd d a n => [wordSI 0x43 d a (0#3 ++ n)]
  | .swaitc l s c t => [wordSI 0x48 0 0 (0#1 ++ t ++ c ++ s ++ l)]
  | .swaitp p a => [wordSR 0x49 0 a 0 p.code]
  | .sfence sc => [wordSR 0x4A 0 0 0 (0#4 ++ sc.code)]
  | .stfence => [wordSR 0x4B 0 0 0 0]
  | .swaita a i => [wordSI 0x4C 0 a i]
  | .bara n sc => [wordSI 0x50 0 0 (0#6 ++ sc.code ++ n)]
  | .barw n sc => [wordSI 0x51 0 0 (0#6 ++ sc.code ++ n)]
  | .baraw n sc => [wordSI 0x52 0 0 (0#6 ++ sc.code ++ n)]
  | .barinit n a b => [wordSR 0x53 0 a b (0#3 ++ n)]
  | .sacq => [wordSR 0x58 0 0 0 0]
  | .srel => [wordSR 0x59 0 0 0 0]
  | .syield => [wordSR 0x5A 0 0 0 0]
  | .sexit => [wordSR 0x5B 0 0 0 0]
  | .snop => [wordSR 0x5C 0 0 0 0]
  | .srds d a i => [wordSI 0x60 d a (0#6 ++ i)]
  | .swrs a i => [wordSI 0x61 0 a (0#6 ++ i)]
  | .strap k => [wordSI 0x62 0 0 k]
  | .sbrk k => [wordSI 0x63 0 0 k]
  | .sal d a => [wordSR 0x64 d a 0 0]
  | .sbsal e a off => [wordSB 0x65 e a off]
  | .stime d wl => [wordSR 0x66 d 0 0 (0#6 ++ bit1 wl)]
  | .spop a => [wordSR 0x68 0 a 0 0]
  | .cpy1d d a b => [wordSX d a b 0x01]
  | .cpy2d d a b => [wordSX d a b 0x02]
  | .cpyt d a b => [wordSX d a b 0x03]
  | .cpyres d a b => [wordSX d a b 0x04]
  | .cseal d a b => [wordSX d a b 0x05]
  | .cwaitb d a b => [wordSX d a b 0x06]
  | .cstat d a b => [wordSX d a b 0x07]
  | .bxfer d a b => [wordSX d a b 0x10]
  | .btarg d a b => [wordSX d a b 0x11]
  | .fsdep d a b => [wordSX d a b 0x20]
  | .fstake d a b => [wordSX d a b 0x21]
  | .fscpy d a b => [wordSX d a b 0x22]
  | .fcfgCreate d a b => [wordSX d a b 0x23]
  | .fcfgDelete d a b => [wordSX d a b 0x23]
  | .fcfgReadCounters d a b => [wordSX d a b 0x23]
  | .xatom d a b => [wordSX d a b 0x30]
  | .trmark d a b => [wordSX d a b 0x60]
  | .wpset d a b => [wordSX d a b 0x61]
  | .vadd f s => wordsL 0x010 (0#11 ++ bit1 s) f 0
  | .vsub f s => wordsL 0x011 (0#11 ++ bit1 s) f 0
  | .vmul f => wordsL 0x012 0 f 0
  | .vmulh f => wordsL 0x013 0 f 0
  | .vmad f => wordsL 0x014 0 f 0
  | .vand f => wordsL 0x015 0 f 0
  | .vor f => wordsL 0x016 0 f 0
  | .vxor f => wordsL 0x017 0 f 0
  | .vnot f => wordsL 0x018 0 f 0
  | .vshl f => wordsL 0x019 0 f 0
  | .vshr f => wordsL 0x01A 0 f 0
  | .vsra f => wordsL 0x01B 0 f 0
  | .vmin f => wordsL 0x01C 0 f 0
  | .vmax f => wordsL 0x01D 0 f 0
  | .vabs f s => wordsL 0x01E (0#11 ++ bit1 s) f 0
  | .vneg f s => wordsL 0x01F (0#11 ++ bit1 s) f 0
  | .vpopc f => wordsL 0x020 0 f 0
  | .vclz f => wordsL 0x021 0 f 0
  | .vbfx f => wordsL 0x022 0 f 0
  | .vbfi f => wordsL 0x023 0 f 0
  | .vsel f k => wordsL 0x024 (0#8 ++ k) f 0
  | .vcmp f c y => wordsL 0x025 (0#8 ++ bit1 y ++ c.code) f 0
  | .vaddc f k => wordsL 0x026 (0#8 ++ k) f 0
  | .vsubb f k => wordsL 0x027 (0#8 ++ k) f 0
  | .vfadd f => wordsL 0x040 0 f 0
  | .vfsub f => wordsL 0x041 0 f 0
  | .vfmul f => wordsL 0x042 0 f 0
  | .vfma f => wordsL 0x043 0 f 0
  | .vfms f => wordsL 0x044 0 f 0
  | .vfnma f => wordsL 0x045 0 f 0
  | .vfmin f s => wordsL 0x046 (0#11 ++ bit1 s) f 0
  | .vfmax f s => wordsL 0x047 (0#11 ++ bit1 s) f 0
  | .vfabs f => wordsL 0x048 0 f 0
  | .vfneg f => wordsL 0x049 0 f 0
  | .vfcmp f c g y => wordsL 0x04A (0#6 ++ bit1 y ++ bit1 g ++ c.code) f 0
  | .vfclass f => wordsL 0x04B 0 f 0
  | .vfrnd f s => wordsL 0x04C (0#11 ++ bit1 s) f 0
  | .vfdiv f => wordsL 0x04D 0 f 0
  | .vfsqrt f => wordsL 0x04E 0 f 0
  | .vrcp f => wordsL 0x070 0 f 0
  | .vrsq f => wordsL 0x071 0 f 0
  | .vsin f => wordsL 0x072 0 f 0
  | .vcos f => wordsL 0x073 0 f 0
  | .vexp2 f => wordsL 0x074 0 f 0
  | .vlog2 f => wordsL 0x075 0 f 0
  | .vtanh f => wordsL 0x076 0 f 0
  | .vcvt f src s => wordsL 0x080 (0#7 ++ bit1 s ++ src.code) f 0
  | .vcvpk2 f p h s => wordsL 0x081 (0#8 ++ bit1 s ++ bit1 h ++ p.code) f 0
  | .vcvpk4 f p h s => wordsL 0x082 (0#8 ++ bit1 s ++ bit1 h ++ p.code) f 0
  | .vqscale f p m => wordsL 0x083 (0#9 ++ bit1 m ++ p.qcode) f 0
  | .vamax f p => wordsL 0x084 (0#10 ++ p.code) f 0
  | .vunpk f p s => wordsL 0x085 (0#8 ++ bit1 s ++ p.code) f 0
  | .vlut f j p => wordsL 0x086 (0#8 ++ bit1 p ++ j) f 0
  | .vmov f => wordsL 0x0A0 0 f 0
  | .vperm f => wordsL 0x0A1 0 f 0
  | .vbcast f => wordsL 0x0A2 0 f 0
  | .vred f o => wordsL 0x0A3 (0#9 ++ o.code) f 0
  | .vscan f o x => wordsL 0x0A4 (0#8 ++ bit1 x ++ o.code) f 0
  | .vballot f => wordsL 0x0A5 0 f 0
  | .kand d a b => wordsC 0x0A6 0 (kw1 d a b) 0
  | .kor d a b => wordsC 0x0A7 0 (kw1 d a b) 0
  | .kxor d a b => wordsC 0x0A8 0 (kw1 d a b) 0
  | .knot d a => wordsC 0x0A9 0 (kw1 d a 0) 0
  | .kmov d a => wordsC 0x0AA 0 (kw1 d a 0) 0
  | .vld f sz o sc i => wordsL 0x0C0 (memMd 0 sz o sc) f i
  | .vst f sz o sc i => wordsL 0x0C1 (memMd 0 sz o sc) f i
  | .vldsp f sz i => wordsL 0x0C2 (memMd 0 sz .relaxed .grp) f i
  | .vstsp f sz i => wordsL 0x0C3 (memMd 0 sz .relaxed .grp) f i
  | .vatom f p sz o sc i => wordsL 0x0C4 (memMd p.code sz o sc) f i
  | .vcas f sz o sc i => wordsL 0x0C5 (memMd 0 sz o sc) f i
  | .vpref f i => wordsL 0x0C6 0 f i
  | .fdep f k sc => wordsL 0x0F0 (fenMd k sc) f 0
  | .fcpy f k sc sel => wordsL 0x0F1 (fenMd k sc) f (0#18 ++ sel)
  | .ftake f k sc sel => wordsL 0x0F2 (fenMd k sc) f (0#18 ++ sel)
  | .vbr k inv off j => wordsC 0x100 (0#7 ++ bit1 inv ++ k) (0#2 ++ j) off
  | .vjoin => wordsC 0x101 0 0 0
  | .vjmp off => wordsC 0x102 0 0 off
  | .vcall off => wordsC 0x103 0 0 off
  | .vcallv a => wordsC 0x104 0 (0#12 ++ a ++ 0#10) 0
  | .vret => wordsC 0x105 0 0 0
  | .vend => wordsC 0x106 0 0 0
  | .vbrk k => wordsC 0x107 0 0 (0#19 ++ k)
  | .vtrap k => wordsC 0x108 0 0 (0#19 ++ k)
  | .regrp a base n => wordsC 0x109 0 (0#12 ++ a ++ 0#10) (0#15 ++ n ++ base)
  | .rjoin => wordsC 0x10A 0 0 0
  | .vnop => wordsC 0x10B 0 0 0
  | .vwaitc l s c t => wordsC 0x10C (t ++ c ++ s ++ l) 0 0
  | .vfence sc => wordsC 0x10D (0#9 ++ sc.code) 0 0
  | .mma t a b c n => halves (wordT 0x01 (0#2 ++ t) a b c n 0)
  | .mzero t => halves (wordT 0x02 (0#2 ++ t) 0 0 0 0 0)
  | .mdrain t a n x => halves (wordT 0x03 (0#2 ++ t) a 0 0 n x.code)
  | .mdraina t a n x => halves (wordT 0x04 (0#2 ++ t) a 0 0 n x.code)
  | .mload t a n => halves (wordT 0x05 (0#2 ++ t) a 0 0 n 0)
  | .tbarw n sc => halves (wordT 0x10 0 0 0 0 n (0#29 ++ sc.code))
  | .tbara n sc => halves (wordT 0x11 0 0 0 0 n (0#29 ++ sc.code))
  | .wli d i => halves (wordT 0x20 d 0 0 0 0 i)
  | .wadd d a b => halves (wordT 0x21 d a b 0 0 0)
  | .wsub d a b => halves (wordT 0x22 d a b 0 0 0)
  | .wmul d a b => halves (wordT 0x23 d a b 0 0 0)
  | .waddi d a i => halves (wordT 0x24 d a 0 0 0 i)
  | .wldsp d a i => halves (wordT 0x25 d a 0 0 0 i)
  | .wstsp b a i => halves (wordT 0x26 0 a b 0 0 i)
  | .wshl d a b => halves (wordT 0x27 d a b 0 0 0)
  | .wbr k a i => halves (wordT 0x30 0 a 0 0 k.code i)
  | .wjmp i => halves (wordT 0x31 0 0 0 0 0 i)
  | .wloop a i => halves (wordT 0x32 0 a 0 0 0 i)
  | .texit => halves (wordT 0x3F 0 0 0 0 0 0)
  | .unassignedOpcode _ _ => []
  | .blockStart | .drain | .commitHeadResume | .earlyLoadPerform
  | .scalarLoadReturn | .laneLoadReturn | .storeGwctReturn | .atomicReply
  | .atomicAtHome | .writeAccept | .writePerform | .homeRead
  | .fillReturn | .leaseExpiry _ _ _ | .writeMaskRelease | .pageWalk
  | .scalarResultWrite | .laneResultWrite | .sfuResultWrite | .wResultWrite
  | .syieldExpiry | .sacqGrant | .regrpMoveComplete | .rjoinMoveComplete
  | .groupWake _ _ | .barrierArrival | .remoteBarrierUpdate | .barrierRefusal
  | .trapEntry | .timeSliceExpiry | .willowStop | .engineStopAck
  | .willowReport _ _ | .preemptCompletion | .contextCompletion | .placementPass
  | .willowPlace | .teamStart | .queueVisit | .resume _ _
  | .trapset _ _ | .preempt _ _ | .tlbinv _ _ | .qfence _ _
  | .willowTinv | .willowLrate | .samplePoint _ | .stepBoundary
  | .droopStretch | .wcorrApply _ _ | .timex _ _ _ _ _ | .dramRefresh _ _ _
  | .refreshEnd _ _ _ | .leaveRequest | .leaveGrant | .tileFetchReturn
  | .mmaCompletion | .mzeroCompletion | .mloadCompletion | .drainCompletion
  | .mdrainaReport | .mdrainaCommit | .mdrainaApply | .errorPhaseDelivery
  | .copyPiece | .copyPieceDone | .bulkPacketSend | .bulkWrite
  | .bulkAck | .fenDeposit | .fenTake | .fenCopy
  | .fenRefill | .fenParkedDepositStore | .fenRequestRetry | .fenStatusReturn
  | .fenWithdrawal | .monitorArm | .monitorNotice | .swaitaTimeout
  | .creditReturn | .creditPacketSend | .endToEndResend | .flitReceive _ _ _
  | .nakReceive _ _ _ | .linkRetrain | .peerRead _ | .peerWrite _
  | .peerAtomic _ | .peerResponse _ | .holdFlit | .bar2Read
  | .bar2Write _ _ _ | .bar2Atomicop _ _ _ _ _ _ | .zeroLengthWrite | .hostReadCompletion _ _ _
  | .hostAtomicCompletion _ _ | .flowControlUpdate | .configRequest _ _ _ | .getVersion
  | .getCapabilities | .negotiateAlgorithms | .getDigests | .getCertificate
  | .challenge _ _ | .getMeasurements | .spdmUnsupported _ | .gateAdmit _ _
  | .arrivalCrossing _ _ | .gateLossRecord | .replayInject | .stopatReached
  | .traceInterval | .stallSample | .traceBlockWrite | .traceResync
  | .reset | .bootImageVerify _ | .bringupPhase | .fullServiceEntry
  | .gateClose | .wakeComplete | .latchedWriteApply | .wake _ _
  | .qtailDoorbell _ _ | .cqheadWrite _ _ | .fqheadWrite _ _ | .gheadWrite _ _
  | .stepreqWrite _ | .stopatdWrite _ | .trrheadWrite _ _ | .mboxinWrite _
  | .rstreqRst | .dbgctlFreeze | .dbgctlResume | .dbgctlDump
  | .dbgctlRestore | .crcerrRead | .registerWrite _ _ _ | .softError _ _ _
  | .pcieLinkTraining _ _ _ | .peatImageComplete => []

/-- The length of a lane instruction in bytes, from its first word (R76, R77). -/
def laneLen (first : BitVec 32) : Nat := if first.extractLsb' 28 4 == 0xF then 16 else 12

/-- The instruction words stored little-endian from the lowest address (R11, R67, R76, R88). -/
def wordsOfBits (n w : Nat) : List (BitVec 32) := (List.range n).map fun i => BitVec.ofNat 32 (w >>> (32 * i))

/-- The stream that the table's word length names: 32 bits scalar, 64 team, 96 or 128 lane. -/
def streamOfBits (nbits : Nat) : StreamId := if nbits ≤ 32 then .scalar else if nbits ≤ 64 then .team else .lane

/-- Decoding by stream, from words at ascending addresses. -/
def decodeIn (st : StreamId) (ws : List (BitVec 32)) : Except DecErr Instr :=
  match st with
  | .scalar => decodeScalar (ws.getD 0 0)
  | .lane => decodeLane ws
  | .team => decodeTeam (ws.getD 1 0 ++ ws.getD 0 0)

/-- The instruction the decoder reads from an instruction whose bits are w, numbered as spec/opcode_table.json numbers them. -/
def decodeTableWord (nbits w : Nat) : Option Instr :=
  match decodeIn (streamOfBits nbits) (wordsOfBits 4 w) with
  | .ok i => some i
  | .error _ => none

end Sys2Proof
end

