-- ==== Sys2Proof/Config.lean ====
section
/-! DEFINITION. What the part fixes but the spec does not publish, and the free values.
Every constant below is opaque: no proof can see a value of it, so a statement holds whatever it is. -/
namespace Sys2Proof

/-- The n-th memory-path time the machine draws, in core cycles (spec/11 R490: the times of the memory paths are fixed
on the device but not published). FREE VALUE, DESIGN CHOICE, log 2. -/
opaque Config.pathLatency : Nat → Nat

/-- Bytes of the SPDM answers whose contents the spec does not give (spec/16 R458): request code, index.
FREE VALUE, DESIGN CHOICE, log 16. -/
opaque Config.spdmBytes : Nat → Nat → BitVec 8

/-- The part's fused SHA-512 digest of the root key (spec/16 R456). Fixed per part, log 17. -/
opaque Config.fusedDigest : BitVec 512

/-- The part's one-time-programmable rollback counter (spec/16 R456). Fixed per part, log 17. -/
opaque Config.rollback : BitVec 32

/-- What a read of configuration space gives (spec/19 R484; the spec does not give its contents): how often a free value was drawn,
offset. FREE VALUE, log 16. -/
opaque Config.configSpace : Nat → Nat → BitVec 32

/-- The base of the image area firmware reserves for peat images (spec/15 R442): a physical address in die[0]'s LPDDR. log 18. -/
opaque Config.peatBase : BitVec 64
/-- The size of that area (spec/15 R448). log 18. -/
opaque Config.peatSize : BitVec 64

/-- The number of DRAM channels of a die: bonded, then LPDDR (spec/11 R341 gives no figure). FREE VALUE, log 19. -/
opaque Config.bondedChannels : Nat
/-- See `Config.bondedChannels`. -/
opaque Config.lpddrChannels : Nat
/-- The channel of its kind that serves a die-local offset (spec/11 R341 gives none). FREE VALUE, log 19. -/
opaque Config.channelOf : Nat → Nat

/-- A CRC-32 continued over bytes (spec/14 R410, spec/15 R435 name a CRC-32 and give no polynomial). FREE VALUE, log 20. -/
opaque Config.crc32 : BitVec 32 → List (BitVec 8) → BitVec 32

/-- A mailbox command word's meaning (spec/16 R466 gives the values a command sets, not its encoding): which value it sets
(0 none, 1 THOT, 2 DHOT, 3 TSTEP, 4 EBUD) and to what. FREE VALUE, log 21. -/
opaque Config.mailbox : BitVec 64 → Nat × Nat

/-- The address of the instruction of a restored commit-queue entry (spec/13 R398 does not save it). FREE VALUE, log 13. -/
opaque Config.restoredPc : Nat → BitVec 64

/-- A window register of a lane whose value a regroup has lost: its host ended before RJOIN, or it was not placed and the interval
was restored from an image (spec/06 R215, spec/13 R398 save no copy). Key register * 96 + lane. FREE VALUE, log 13. -/
opaque Config.lostWord : Nat → BitVec 32

/-- The scan-map identifier of a section of a peat image (spec/15 R442). FREE VALUE, log 18. -/
opaque Config.scanMapId : Nat → BitVec 64

/-- ISIZE, SECOFF and SECCNT of a peat image (spec/15 R442; fixed by the scan map of the revision). FREE VALUE, log 18. -/
opaque Config.peatShape : Nat → BitVec 64

/-- How the training and calibration of a bring-up phase ends (spec/16 R460): ERR and the die concerned. FREE VALUE, log 17. -/
opaque Config.training : Nat → BitVec 8 × BitVec 4

/-- The lease in core cycles that a home grants a switch slice (spec/14 R419 gives no length). FREE VALUE, log 14. -/
opaque Config.switchLease : Nat

/-- The module that homes a Fen region number which the own module does not hold (spec/09 R289 speaks of it, and no table entry or record
names it). FREE VALUE, log 61. -/
opaque Config.fenModule : Nat → Nat

/-- How many of a plane's oldest flits are known to have arrived when a packet waits for room in the replay buffer (spec/14 R412 names the full
buffer and no acknowledgement). FREE VALUE, log 59. -/
opaque Config.flitsAcked : Nat → Nat

end Sys2Proof
end

