-- ==== Sys2Proof/Machine/State.lean ====
section
/-! DEFINITION. The state of the machine as plain data, every piece that spec/ gives it (INVENTORY.md, "State"), and
`State.reset`. Groups are keyed by core * 32 + resident group index (R344), teams and sequencers by core * 4 + sequencer,
L2 slices by die * 48 + slice (R346). Times are PTIME ticks or core cycles as natural numbers. -/
namespace Sys2Proof.Machine

/-- A 64-entry scalar register file (R21). -/
abbrev SRegs := Vector W64 64
/-- A snapshot s16 to s31 (R32). -/
abbrev Snap := Vector W64 16

/-- Outstanding-operation counters (R36). -/
inductive Ctr where
  | ldc | stc | cpc | tlc
  deriving DecidableEq, Repr

/-- One operation counted in a counter (R36, R37). `lane`: issued by the lane stream; `rel`: it has left the commit queue or
never was in it; `done`: it has returned and waits for older operations of its counter; `early`: an early scalar load (R152). -/
structure Outst where
  id : Nat
  ctr : Ctr
  lane : Bool
  rel : Bool
  done : Bool
  pc : W64
  early : Bool
  deriving DecidableEq, Repr

/-- Why a scalar register is pending (R22, R154): a multiply or divide, a load, or the reply of a held instruction. -/
inductive PendWhy where
  | alu | load | reply
  deriving DecidableEq, Repr

/-- A pending scalar register, the operation that will write it, and that operation's instruction (R22, R453). -/
structure PendS where
  reg : BitVec 6
  id : Nat
  why : PendWhy
  pc : W64
  val : W64
  deriving DecidableEq, Repr

/-- A scalar checkpoint (R378): SPC, s1 to s60, the counters, the pending registers of that moment, and the program position
that separates released from unreleased held effects. -/
structure Ckpt where
  spc : W64
  s : SRegs
  ldc : Nat
  stc : Nat
  cpc : Nat
  tlc : Nat
  pend : List PendS
  pos : Nat
  deriving DecidableEq, Repr

/-- An entry of the commit queue (R149, R398): program position, word, address, bound physical address, the operands read
at issue, the outstanding operation it counts as, SKIP, and whether the head has acted and only waits (R148, R156). -/
structure CqEntry where
  pos : Nat
  word : W32
  pc : W64
  pa : Nat
  x : W64
  y : W64
  id : Nat
  skip : Bool
  acted : Bool
  paid : Bool
  val : Option W64
  deriving DecidableEq, Repr

/-- An entry of the lane queue (R20, R166). -/
structure LqEntry where
  entry : W64
  snap : Snap
  pos : Nat
  ck : Ckpt
  deriving DecidableEq, Repr

/-- The block the lane stream runs or last ran (R93, R378), with the counts of SUMMARY (R482). `starting`: its held effects
are still being released (R150); `running`: it has begun and not reached VEND; `id0`: no access of it has a lower number. -/
structure Blk where
  entry : W64
  snap : Snap
  pos : Nat
  ck : Ckpt
  starting : Bool
  running : Bool
  first : Option Nat
  ready : Nat
  instrs : Nat
  beats : Nat
  id0 : Nat
  deriving DecidableEq, Repr

/-- Kinds of reconvergence-stack entries (R48). -/
inductive RKind where
  | div | call | trap | regroup
  deriving DecidableEq, Repr

/-- A reconvergence-stack entry (R48). -/
structure RsEntry where
  kind : RKind
  resume : W64
  reconv : W64
  mask : Mask
  tspc : W64
  tsnap : Snap
  deriving DecidableEq, Repr

/-- Copy-batch states (R39), with the codes of CSTAT in this order (R279). -/
inductive BatchSt where
  | idle | opened | sealed | complete
  deriving DecidableEq, Repr

/-- A copy batch (R39, R278, R319). `live` counts its commands that have not ended. -/
structure Batch where
  st : BatchSt
  fault : Bool
  faults : Nat
  live : Nat
  gwct : Nat
  deriving DecidableEq, Repr

/-- Register-allotment states (R56), with the codes of ALLOT in this order (R51). -/
inductive AllotSt where
  | prologue | waiting | full
  deriving DecidableEq, Repr

/-- A lane result that is computed and not yet written (R190, R225, R226, R491): the lane words (key register * 96 + lane),
mask registers, flags, whether the SFU makes it, and the instruction. -/
structure LanePend where
  id : Nat
  sfu : Bool
  vw : List (Nat × W32)
  kw : List (Nat × Mask × Mask)
  flags : BitVec 8
  due : Nat
  pc : W64
  deriving DecidableEq, Repr

/-- A lane register or mask that an operation still has to write (R190); `lo` to `lo + n - 1`. -/
structure PendV where
  id : Nat
  mask : Bool
  lo : Nat
  n : Nat
  pc : W64
  deriving DecidableEq, Repr

/-- Why a group is parked (R372). -/
inductive Park where
  | barrier (n : BitVec 4)
  | fen
  | sal (dst : Nat)
  | watch
  | grant
  | regroup
  deriving DecidableEq, Repr

/-- A trap that has been recognised (R376): cause, faulting address, TRAPINFO, stream, the bits of its record, and for a deferred trap (R388)
the address of the failing instruction. -/
structure TrapRec where
  cause : BitVec 8
  va : W64
  info : W64
  lane : Bool
  write : Bool
  fetch : Bool
  badpte : Bool
  defer : Option W64
  deriving DecidableEq, Repr

/-- How far a group has been stopped: it runs; it is escalated (R386); a deferred trap stopped it (R388); a double fault or a
halt stopped it (R384); pre-emption stopped it (R392). -/
inductive GStop where
  | runs | escalated | deferred | halted | preempted
  deriving DecidableEq, Repr

/-- A group's part in a regroup (R215, R216): host or not, parked at RJOIN, the window, its masks and its own window registers kept
for RJOIN, and the placement map in the layout of R60. -/
structure Regroup where
  host : Bool
  parked : Bool
  base : Nat
  count : Nat
  keptK : Vector Mask 16
  kept : SMap 32
  map : List (BitVec 16)
  deriving DecidableEq, Repr

/-- An arrival at REGRP or RJOIN that waits for the others (R215, R216), with the key register of a REGRP. -/
structure RgArrive where
  join : Bool
  pc : W64
  key : Nat
  base : Nat
  count : Nat
  cycle : Nat
  deriving DecidableEq, Repr

/-- The watch of an SWAITA (R174, R344): line, when and whether it is recorded. -/
structure Watch where
  line : Nat
  slice : Nat
  armed : Option Nat
  until_ : Nat
  deriving DecidableEq, Repr

/-- A resident group. `fset`: a cycle, and the flags set in it (R30); `hid`, `hidSp`: what memory and scratchpad bytes written by lane stores of
the running block hold without those stores (R152, R162); `seen`: the operations of other agents whose masked bytes its loads took (R313). -/
structure Group where
  team : Nat
  ctx : Nat
  gid : BitVec 4
  age : Nat
  spc : W64
  lpc : W64
  s : SRegs
  exec : Mask
  v : SMap 32
  k : Vector Mask 16
  flags : BitVec 8
  ftrapen : BitVec 8
  fmode : BitVec 4
  lease : BitVec 17
  allot : Nat
  allotSt : AllotSt
  trapcause : W64
  trapva : W64
  trapinfo : W64
  trapspc : W64
  traplpc : W64
  trctl : W64
  outs : List Outst
  pendS : List PendS
  pendV : List PendV
  lres : List LanePend
  pos : Nat
  cq : List CqEntry
  lq : List LqEntry
  blk : Option Blk
  ck : Ckpt
  rs : List RsEntry
  batches : Vector Batch 16
  openB : Nat
  xtgtA : W64
  xtgtS : W64
  xtgtV : Bool
  arr : KMap (BitVec 32)
  gwctMax : Nat
  parked : Option Park
  drain : Bool
  drained : Bool
  barrierIds : List Nat
  fwdArr : List Nat
  acqT : Nat
  holdUntil : Nat
  waitS : Nat
  waitL : Nat
  rg : Option Regroup
  rgArr : Option RgArrive
  watch : Option Watch
  barTarget : Option (BitVec 32)
  baraw : Bool
  trap : Option TrapRec
  stop : GStop
  preReq : Bool
  lastDrain : Nat
  lsent : Mask
  lsentV : Bool
  found : Option (W32 × Nat)
  fenOps : List Nat
  rel : Option Nat
  relCnt : Nat × Nat
  fset : Nat × BitVec 8
  hid : KMap Byte
  hidSp : KMap Byte
  seen : List Nat
  deriving DecidableEq, Repr

/-- States of a sequencer (R246, R247, R64). -/
inductive SeqSt where
  | runs | barrierWait | exited | idle | trapped
  deriving DecidableEq, Repr

/-- A pending w register (R245). -/
structure PendW where
  reg : BitVec 5
  val : W64
  id : Nat
  deriving DecidableEq, Repr

/-- Flags of an engine operation waiting for the phase that reports it (R147). -/
structure FlagWait where
  n : BitVec 4
  team : Nat
  flags : BitVec 8
  deriving DecidableEq, Repr

/-- A resident team with its sequencer; `lastIssue` is one more than the cycle of its last issue (R245); `fwdArr`: its TBARA waits for the home
core to count the arrival (R47). -/
structure Team where
  core : Nat
  sq : Nat
  ctx : Nat
  tid : W64
  clpos : W64
  groups : Nat
  fullAllot : Nat
  accs : Nat
  nbar : Nat
  spBase : Nat
  spSize : Nat
  tiles : List Nat
  home : Nat
  handler : Option (W64 × BitVec 32)
  members : List Nat
  ended : List Nat
  sp : SMap 8
  acc : SMap 32
  tpc : W64
  w : Vector W64 32
  pendW : List PendW
  seqSt : SeqSt
  arr : KMap (BitVec 32)
  tcause : W64
  tva : W64
  tinfo : W64
  barTarget : Option (BitVec 32)
  flagWait : List FlagWait
  lastAcq : Nat
  regMove : Option Nat
  joinMove : Bool
  remote : List (Nat × Nat)
  fwdArr : Bool
  poison : List Nat
  lastIssue : Nat
  deriving DecidableEq, Repr

/-- Who makes a memory access (R304). -/
inductive Agent where
  | scalar (g : Nat)
  | lane (g : Nat)
  | seq (t : Nat)
  | tile (core : Nat)
  | copier (core : Nat)
  | xfer (core : Nat)
  | drainer (core : Nat)
  | host
  | peer (mdl : Nat)
  deriving DecidableEq, Repr

/-- What a memory operation does. -/
inductive OpKind where
  | load | store | atomic | cas | fetchOnly | spLoad
  deriving DecidableEq, Repr

/-- Atomic functions at the home (R163, R206, R298). -/
inductive AtomFn where
  | int (op : AtomOp)
  | f32 (op : AtomOp)
  | fadd64
  | fadd32
  deriving DecidableEq, Repr

/-- One access to one 64-byte sector (R317): lane, byte offset within the lane's data, physical address, length, the bytes it
writes or has read, its GWCT, whether it has bound, for an atomic the operands, whether its page is not cached (R334), and for a store whether
its bytes have entered the write masks (R307). -/
structure Part where
  lane : Nat
  off : Nat
  pa : Nat
  len : Nat
  data : List Byte
  x : W64
  y : W64
  gwct : Option Nat
  bound : Bool
  fill : Option (List Byte × Nat × Nat)
  unc : Bool
  ent : Bool
  deriving DecidableEq, Repr

/-- Where a loaded value or a reply goes. -/
inductive Dest where
  | sreg (d : BitVec 6)
  | lanes (vd : Nat) (sz : MSize) (sext : Bool)
  | none
  deriving DecidableEq, Repr

/-- A memory operation in flight. `waits`: an early load held by load barriers (R153); `t0`: PTIME of issue; `leaseLen`: the
lease its fills take; `minFill`: copies filled before this PTIME may not be hit (R314). -/
structure MemOp where
  kind : OpKind
  agent : Agent
  core : Nat
  dest : Dest
  order : MOrder
  scope : Scope
  fn : AtomFn
  asize : Nat
  parts : List Part
  pc : W64
  waits : List Nat
  performed : Bool
  leaseLen : Nat
  minFill : Nat
  t0 : Nat
  out : Nat
  pos : Nat
  deriving DecidableEq, Repr

/-- A write accepted at its home and not yet performed (R306), of a core of the module; `lane`: the group whose lane stream made it. `add`: an add-on-store (R267), FP32 or not. -/
structure PWrite where
  pa : Nat
  data : List (Option Byte)
  gwct : Nat
  op : Nat
  part : Nat
  add : Option Bool
  core : Nat
  lane : Option Nat
  deriving DecidableEq, Repr

/-- The home's record of a line (R305, R267): latest lease expiry, MDRAINA reservations, delegated words (R420), whether a switch slice watches
it (R344). -/
structure HomeLine where
  lease : Nat
  resv : List Nat
  deleg : List Nat
  watch : Bool
  deriving DecidableEq, Repr

/-- A cache line (R337, R338): which sectors are valid, their lease expiries and fill times, its bytes by offset, dirty
bytes (L2), the poisoned 8-byte words of the copy (R342). -/
structure CLine where
  line : Nat
  valid : BitVec 4
  exp : Vector Nat 4
  fillT : Vector Nat 4
  data : SMap 8
  dirty : BitVec 256
  bad : BitVec 32
  deriving DecidableEq, Repr

/-- A cache set: its ways and its tree bits (R338). -/
structure CSet where
  ways : KMap CLine
  plru : BitVec 15
  deriving DecidableEq, Repr

/-- A byte of a core's write masks (R307): its value, the operation and the agent that wrote it, its GWCT and the number of its acceptance once
its home has accepted it. The bytes of a line stand in coherence order, the latest first. -/
structure MaskB where
  off : Nat
  byte : Byte
  id : Nat
  agent : Agent
  acc : Option (Nat × Nat)
  deriving DecidableEq, Repr

/-- A TLB entry (R335): its index, the cycle of its last use, ASN, page base and size, the leaf. -/
structure TlbE where
  idx : Nat
  used : Nat
  asn : Nat
  base : Nat
  size : Nat
  leaf : W64
  deriving DecidableEq, Repr

/-- A page walk in flight (R333, R335): its page's 64 KiB base, whether the last-level TLB answers it, whether an
invalidation has made it stale (R352). -/
structure Walk where
  core : Nat
  asn : Nat
  root : Nat
  va : W64
  priv : Bool
  stale : Bool
  deriving DecidableEq, Repr

/-- A walk that faulted, kept until the access that caused it is made again. -/
structure WalkFault where
  core : Nat
  asn : Nat
  page : Nat
  priv : Bool
  badpte : Bool
  deriving DecidableEq, Repr

/-- Kinds of engine operations (R256). -/
inductive EngKind where
  | mma | mzero | mdrain | mdraina | mload
  deriving DecidableEq, Repr

/-- A fault met by an engine operation (R269). -/
structure EngFault where
  cause : BitVec 8
  va : W64
  badpte : Bool
  deriving DecidableEq, Repr

/-- A fetched operand line (R259, R260): virtual line, physical line, whether it is a copy read through the RDC (its bytes then are
kept here, `got` saying which sectors have arrived), the last block group that uses it. -/
structure TLine where
  vline : Nat
  pline : Nat
  copied : Bool
  got : BitVec 4
  bytes : List Byte
  last : Nat
  deriving DecidableEq, Repr

/-- How far a leave request has come (R261). -/
inductive Leave where
  | none | asked | granted
  deriving DecidableEq, Repr

/-- An engine operation (R256 to R269): what was read at issue, and its progress. `table`: cycles left of the product table;
`steps`: compute cycles done; `doneG`, `fetG`: block groups computed and groups whose lines are all fetched; `doneL`: lines written;
`fetching`: a line is on its way; `bufA`, `bufB`: the codes and scales the
current group's steps have taken; `upd`: addresses and addends of an add-on-store. -/
structure EngOp where
  id : Nat
  kind : EngKind
  team : Nat
  tile : Nat
  n : BitVec 4
  word : W64
  regs : List W64
  fa : List Byte
  fb : List Byte
  t0 : Nat
  leave : Leave
  began : Option Nat
  table : Nat
  steps : Nat
  doneG : Nat
  doneL : Nat
  fetG : Nat
  fetching : Bool
  fetched : List TLine
  bufA : List (List Nat)
  bufB : List (List Nat)
  upd : List (Nat × List Byte)
  flags : BitVec 8
  writes : Nat
  gmax : Nat
  fault : Option EngFault
  cancelled : Bool
  finish : Option Nat
  reports : List (Nat × Nat)
  commitT : Option Nat
  deriving DecidableEq, Repr

/-- Forms of copy commands (R275). -/
inductive CopyForm where
  | c1d | c2d | ct
  deriving DecidableEq, Repr

/-- A copy command in a core's copy queue (R277); `pos`, `key`: its place among the accesses of its group (R311). -/
structure CopyCmd where
  id : Nat
  g : Nat
  team : Nat
  form : CopyForm
  desc : List Byte
  doff : Nat
  batch : Nat
  next : Nat
  pieces : Nat
  busy : Bool
  skipBits : Bool
  recs : List (Nat × BitVec 8)
  ended : Bool
  pos : Nat
  key : Nat
  deriving DecidableEq, Repr

/-- A bulk transfer (R284). -/
structure Xfer where
  id : Nat
  g : Nat
  src : W64
  dst : W64
  left : Nat
  done : Nat
  sel : W64
  sc : Scope
  reply : BitVec 6
  inFlight : Nat
  code : Nat
  cause : BitVec 8
  stopped : Bool
  paid : Bool
  deriving DecidableEq, Repr

/-- A bulk packet on its way (R284, R286). `code`: how its counting ended, once it has. -/
structure BulkPkt where
  core : Nat
  xfer : Nat
  dst : Nat
  data : List Byte
  sel : W64
  gwct : Option Nat
  code : Option Nat
  fromPeer : Option Packet
  deriving DecidableEq, Repr

/-- A register move of REGRP or RJOIN on a core (R374). -/
structure RegMove where
  team : Nat
  join : Bool
  arrived : Nat
  cycles : Nat
  until_ : Option Nat
  deriving DecidableEq, Repr

/-- A core's trace buffer (R449 to R453, R482). `stamps`: in which cycle how many of the bytes were written. `now`: the packets of the current cycle, kind and payload, not yet in order. -/
structure Trace where
  buf : List Byte
  stamps : List (Nat × Nat)
  prev : Nat
  sel : Option Nat
  dropping : Bool
  dropP : Nat
  dropB : Nat
  samples : Nat
  now : List (Nat × List Byte)
  deriving DecidableEq, Repr

/-- A core. -/
structure Core where
  l1 : KMap CSet
  masks : KMap (List MaskB)
  icache : KMap CLine
  tlb : List TlbE
  eng : List EngOp
  leave : Option Nat
  bal : Int
  lrate : Nat
  lrateNext : Option Nat
  copyQ : List CopyCmd
  xferQ : List Xfer
  hot : Bool
  hi : Nat
  lo : Nat
  moves : List RegMove
  pipe : Vector Nat 4
  ctxG : KMap Nat
  freed : Nat × Nat
  decided : Nat
  trace : Trace
  deriving DecidableEq, Repr

/-- A Fen tuple in a store or ring, or a parked deposit's (R288, R294). -/
structure Tuple where
  sq : Nat
  words : List W32
  deriving DecidableEq, Repr

/-- Kinds of Fen requests (R294). -/
inductive FenKind where
  | deposit | take | copy
  deriving DecidableEq, Repr

/-- A Fen request (R291, R293, R294): requester, region, home slice, tuple or pattern, masks, selectors. -/
structure FenReq where
  g : Nat
  op : Nat
  lane : Nat
  kind : FenKind
  blk : Bool
  sc : Scope
  region : Nat
  dstMod : Nat
  slice : Nat
  handle : Nat
  words : List W32
  masks : List W32
  sel : BitVec 14
  code : Option Nat
  copies : Nat
  reply : List W32
  sent : Bool
  withdrawn : Bool
  fromPeer : Option Packet
  deriving DecidableEq, Repr

/-- A Fen instruction or function whose requests are outstanding (R291, R293). -/
structure FenOp where
  g : Nat
  kind : FenKind
  scalar : Bool
  blk : Bool
  sc : Scope
  vd : Nat
  vs : Nat
  sd : BitVec 6
  area : Nat
  left : Nat
  pc : W64
  fullHandle : Option (Nat × Nat)
  rid : Nat
  deriving DecidableEq, Repr

/-- A region as the module holds it (R301, R345, R346). -/
structure Region where
  fbase : W64
  onchip : Nat
  ring : Nat
  policyTrap : Bool
  ringPa : Nat
  seqPa : Nat
  deriving DecidableEq, Repr

/-- A region's part at one slice (R294, R346): on-chip tuples, ring head and tail, the requests that wait for a search of the ring, the one that
searches first (R347), counters in the order of R301. -/
structure FenPart where
  onchip : List Tuple
  head : Nat
  tail : Nat
  queue : List Nat
  counts : Vector (BitVec 32) 6
  deriving DecidableEq, Repr

/-- A monitor entry (R344). -/
structure Mon where
  line : Nat
  gident : Nat
  arm : Nat
  deriving DecidableEq, Repr

/-- An L2 slice: its cache, monitor table, Fen stores and parked-request table (R330, R338, R344, R345, R294). -/
structure Slice where
  l2 : KMap CSet
  carve : Nat
  mons : List Mon
  fen : KMap FenPart
  parked : List Nat
  nextSeq : Nat
  deriving DecidableEq, Repr

/-- A watchpoint (R300, R445). -/
structure Watchpoint where
  en : Bool
  pa : Nat
  size : Nat
  val : W64
  msk : W64
  differ : Bool
  deriving DecidableEq, Repr

/-- A group waiting for allowance (R373), since a cycle. -/
structure SalWait where
  dst : Nat
  g : Nat
  need : Nat
  since : Nat
  deriving DecidableEq, Repr

/-- A request to a peer that has no response (R414). -/
structure PeerReq where
  dst : Nat
  eseq : Nat
  pkt : Packet
  sent : Nat
  tries : Nat
  op : Nat
  part : Nat
  deriving DecidableEq, Repr

/-- A fault record held or to be written (R349). -/
structure FaultRec where
  va : W64
  ptime : Nat
  causew : BitVec 16
  core : Nat
  agent : BitVec 16
  asn : Nat
  detail : W64
  deriving DecidableEq, Repr

/-- A die. -/
structure Die where
  rdc : KMap CSet
  tlb : List TlbE
  sal : SMap 20
  salOff : List Nat
  salWait : List SalWait
  eseq : SMap 32
  reqs : List PeerReq
  fqbase : W64
  fqctl : W64
  fqhead : BitVec 32
  fqtail : BitVec 32
  fqwerr : Bool
  fqheld : List FaultRec
  fqnow : List FaultRec
  wps : Vector Watchpoint 4
  trbase : W64
  trctl : W64
  trhead : BitVec 32
  trtail : BitVec 32
  trsel : Vector W64 3
  refresh : List (Nat × Bool)
  deriving DecidableEq, Repr

/-- A pre-emption in progress (R391, R395). -/
structure Preempt where
  reason : Nat
  t0 : Nat
  stopped : List Nat
  acked : List Nat
  reports : List Nat
  escCore : Nat
  escAgent : Nat
  escCause : Nat
  done : Bool
  imgG : Nat
  deriving DecidableEq, Repr

/-- A team placed and not yet started (R363 to R365), or one of a checkpoint image that waits to be placed (R400). -/
structure Placement where
  ctx : Nat
  core : Nat
  sq : Nat
  start : Nat
  team : Team
  grps : List (Nat × Group)
  engs : List EngOp
  copies : List CopyCmd
  xfers : List Xfer
  deriving DecidableEq, Repr

/-- An active context (R354). -/
structure Ctx where
  id : Nat
  ctxid : Nat
  queue : Nat
  cookie : W64
  image : Nat
  save : Nat
  asn : Nat
  root : Nat
  priv : Bool
  tslice : Nat
  placedAt : Nat
  kdesc : List Byte
  args : W64
  gx : Nat
  gy : Nat
  gz : Nat
  nextCl : Nat
  restore : List Placement
  live : List Nat
  pre : Option Preempt
  halted : Bool
  gmax : Nat
  freed : Bool
  deriving DecidableEq, Repr

/-- A host command taken and not completed (R406, R407): AFTER and QFENCE look at these. -/
structure Cmd where
  id : Nat
  queue : Nat
  opc : Nat
  ctxid : Nat
  cookie : W64
  reports : List Nat
  deriving DecidableEq, Repr

/-- A completion entry waiting for room (R406). -/
structure Completion where
  id : Nat
  queue : Nat
  cookie : W64
  ctxid : Nat
  opc : Nat
  status : Nat
  deriving DecidableEq, Repr

/-- A command queue (R405). -/
structure HQueue where
  qbase : W64
  qctl : W64
  qtail : BitVec 32
  qhead : BitVec 32
  cqbase : W64
  cqtail : BitVec 32
  cqhead : BitVec 32
  waiting : List Completion
  deriving DecidableEq, Repr

/-- A trap table (R381). -/
structure TrapTable where
  asn : Nat
  hentry : W64
  hmask : BitVec 32
  deriving DecidableEq, Repr

/-- A barrier update or wait that crosses a cluster (R47), held with the context and CLID of its team; `pkt` of a byte addition is one more than the bulk packet's key, 0 for the
copy engine, `t` the team for which it acts; `so`: SOURCE * 256 + op8 of an engine's operation (R269, R349). -/
inductive BarMsg where
  | groupArrive (home n g : Nat)
  | groupWait (home n g : Nat) (target : Option (BitVec 32))
  | seqArrive (home n t : Nat)
  | seqWait (home n t : Nat) (target : Option (BitVec 32))
  | engArrive (home n t : Nat) (flags : BitVec 8) (so : Nat)
  | bytes (home n count pkt t : Nat)
  | errPhase (home n t : Nat) (cause : BitVec 8) (va : W64) (so : Nat)
  deriving DecidableEq, Repr

/-- An item of the agenda: an event to execute; the pick; a unit that has been picked to issue (R371, R245); the end of the barrier updates that
units make; the end of the units of the cycle (R66); a trap recognised in the cycle; the fault records of the cycle (R348). -/
inductive Item where
  | run (i : Instr) (args : List Nat)
  | picks
  | scalar (g : Nat)
  | lane (g : Nat)
  | seq (t : Nat)
  | late
  | close
  | trap (g : Nat) (t : TrapRec)
  | records
  deriving DecidableEq, Repr

/-- An event with the cycle it is due and its rank among the events of that cycle (log 5); `pt`: the PTIME for which it stands, where it is
one, so that a change of step moves it (R429). -/
structure Timed where
  due : Nat
  rank : Nat
  i : Instr
  args : List Nat
  pt : Option Nat
  deriving DecidableEq, Repr

/-- The stream whose instruction is executing. -/
inductive Cur where
  | none
  | scalar (g : Nat)
  | lane (g : Nat)
  | seq (t : Nat)
  deriving DecidableEq, Repr

/-- Causes of a freeze (R447), as bits. -/
abbrev FCause := BitVec 6

/-- What has left the module (R403, R405, R401, R458): for the host and the peers to see. -/
inductive Sent where
  | hostWrite (addr : Nat) (data : List Byte)
  | hostRead (tag addr len : Nat)
  | hostAtomic (tag addr : Nat) (op : PcieAtomic) (wide : Bool) (x y : W64)
  | completion (tag : Nat) (status : Nat) (data : List Byte)
  | msix (vec : Nat)
  | packet (port : Nat) (p : Packet)
  | nak (port plane : Nat) (lseq : BitVec 12)
  | flit (port plane : Nat) (f : Flit)
  | hold (port : Nat)
  | spdm (code : BitVec 8) (data : List Byte)
  | config (off : Nat) (data : BitVec 32)
  | debugReport (code : BitVec 13) (mask : Mask)
  deriving DecidableEq, Repr

/-- One plane of a Poale port (R412): next LSEQ out and in, flits kept for replay, flits received of an incomplete packet, whether a NAK
is outstanding. -/
structure Plane where
  outSeq : BitVec 12
  inSeq : BitVec 12
  buf : List Flit
  rx : List Flit
  naked : Bool
  deriving DecidableEq, Repr

/-- A Poale port (R415, R413): status, planes, the CSEQ counter, CSEQs taken of which the other copy is still to come, the latest timing
exchange and its PTIME (R431), when a HOLD of a module last came (R440), packets that wait for room in a replay buffer (R412). -/
structure Port where
  up : Bool
  pl0 : Bool
  pl1 : Bool
  unreach : Bool
  lastd : BitVec 8
  crcerr : BitVec 32
  planes : Vector Plane 2
  cseq : BitVec 16
  taken : List (BitVec 16)
  timex : Option (W64 × W64 × W64 × W64 × Nat)
  holds : KMap Nat
  wait : List Packet
  deriving DecidableEq, Repr

/-- Allowance units owed to a peer's dies (R417): module, die, units, since when. -/
structure Owed where
  src : Nat
  die : Nat
  units : Nat
  since : Nat
  deriving DecidableEq, Repr

/-- A hot-word entry of the switch (R420). -/
structure HotWord where
  addr : Nat
  val : W64
  deriving DecidableEq, Repr

/-- A request that has been applied, and its response once there is one (R414): whose (`src`, a source die), ESEQ. -/
structure Served where
  src : Nat
  eseq : Nat
  resp : Option Packet
  deriving DecidableEq, Repr

/-- A device read of host memory, or an AtomicOp, that waits for its completion (R403, R404): operation, part, length, what has come. -/
structure HostReq where
  op : Nat
  part : Nat
  len : Nat
  got : List (Nat × List Byte)
  deriving DecidableEq, Repr

/-- Peer memory as the switch slices hold it (R418 to R420): bytes, hot words most recent first, monitor
tables by slice. Addresses are bits 49:0 of the peer physical address. -/
structure Pod where
  mem : SMap 8
  hot : List HotWord
  mons : KMap (List Mon)
  seen : List Served
  deriving DecidableEq, Repr

/-- Work of Alder that is waiting (R354, R407, R464, R466). -/
structure Alder where
  ctxs : List Ctx
  cmds : List Cmd
  tables : List TrapTable
  regions : KMap Region
  placements : KMap Placement
  passDue : Bool
  thot : Nat
  dhot : Nat
  tstep : Nat
  ebud : Nat
  pendThot : Option Nat
  pendDhot : Option Nat
  pendTstep : Option Nat
  pendEbud : Option Nat
  e : Nat
  good : Nat
  lrate : Nat
  fastest : BitVec 2
  trips : KMap Nat
  idle : Nat
  gateen : Bool
  deriving DecidableEq, Repr

/-- The deterministic domain (R423), together with the model's own agenda. `stopHit`: STOPAT has frozen the package since it was written;
`stopFrom`: the first cycle that may freeze for it (R439); `prevPtime`: PTIME of the cycle before this one. -/
structure Domain where
  ccount : Nat
  ptime : Nat
  step : BitVec 2
  stepReq : BitVec 2
  reqAt : Option Nat
  pbase : Nat
  wbase : Nat
  rate : Nat
  stopat : Nat
  stopHit : Bool
  stopFrom : Nat
  prevPtime : Nat
  stretchHold : Nat
  groups : KMap Group
  teams : KMap Team
  cores : KMap Core
  dies : Vector Die 4
  slices : KMap Slice
  ops : KMap MemOp
  writes : KMap PWrite
  lines : KMap HomeLine
  walks : KMap Walk
  walkFaults : List WalkFault
  fenReqs : KMap FenReq
  fenOps : KMap FenOp
  pkts : KMap BulkPkt
  barMsgs : KMap (Nat × Nat × BarMsg)
  queues : Vector HQueue 16
  alder : Alder
  pod : Pod
  pendingHost : KMap HostReq
  posted : List (Nat × Nat)
  owed : List Owed
  ports : Vector Port 16
  full : Bool
  reduced : Bool
  salcfg : BitVec 17
  modNum : BitVec 8
  cur : Cur
  args : List Nat
  agenda : List Item
  timed : List Timed
  nextId : Nat
  draws : Nat
  deriving DecidableEq, Repr

/-- Gate modes (R435). -/
inductive GMode where
  | strict | lossy | replay
  deriving DecidableEq, Repr

/-- A stamping gate (R435, R436): registers, arrivals that wait outside, records lost. -/
structure Gate where
  gbase : W64
  gctl : W64
  ghead : BitVec 32
  gtail : BitVec 32
  grlim : BitVec 32
  lossBit : Bool
  diverge : Bool
  outsig : BitVec 32
  outcnt : BitVec 32
  waiting : List Arrival
  lost : Nat
  lostFirst : Nat
  headDelay : Bool
  deriving DecidableEq, Repr

/-- A peat image (R442): its header values and the domain it holds. -/
structure Peat where
  ptime : Nat
  ccount : Nat
  step : BitVec 2
  pstep : Option (BitVec 2)
  fcause : FCause
  strcnt : BitVec 32
  nextseq : List (BitVec 32)
  dom : Domain
  deriving DecidableEq, Repr

/-- A wake-latch entry (R408). -/
structure LatchE where
  off : Nat
  data : W64
  ben : BitVec 8
  stamp : Nat
  deriving DecidableEq, Repr

/-- An instruction breakpoint (R444, R448). -/
structure Ibp where
  addr : W64
  ctl : W64
  deriving DecidableEq, Repr

/-- The whole machine: the domain, and what R423 leaves outside it. -/
structure State extends Domain where
  mem : List Host.Cell
  poison : List Nat
  hostMem : SMap 8
  frozen : Bool
  attach : Bool
  fcause : FCause
  dumped : Bool
  scanning : Bool
  freport : BitVec 256
  bpSkip : List Cur
  ibps : Vector Ibp 8
  strcnt : BitVec 32
  peatbase : W64
  peatsize : W64
  peat : Option Peat
  gates : Vector Gate 18
  latch : List LatchE
  gated : Bool
  wakeAt : Option Nat
  flash : List (List Byte)
  phase : BitVec 4
  bootErr : BitVec 8
  errDie : BitVec 4
  bootNext : Nat
  mboxin : W64
  mboxout : W64
  mr : Vector (BitVec 512) 4
  alderKey : BitVec 512
  softErrs : Nat
  linkWidth : Nat
  linkRate : Nat
  hostAtomics : Bool
  fcLimits : KMap Nat
  sent : List Sent
  inbox : List (Nat × Arrival)
  deriving DecidableEq, Repr

/-- Why the machine stops with a fault. None of the spec's behaviours does: every trap, error phase, status or record of the
spec is a next state. -/
inductive Fault where
  /-- An access outside the 52-bit physical address space. No meaning raises it: every physical address the machine forms is
  cut to 52 bits (R328). Safe: it only stops. -/
  | outsideAddressSpace (addr : Nat)
  deriving DecidableEq, Repr

/-- Why the machine refuses an instruction. -/
inductive Refusal where
  /-- Raised by an arm of `exec` that has no meaning yet, with the table's mnemonic. Safe: it only stops. -/
  | notModelled (mnemonic : String)
  deriving DecidableEq, Repr

/-! ## Reset -/

/-- A scalar checkpoint of zeros. -/
def Ckpt.zero : Ckpt := ⟨0, Vector.replicate 64 0, 0, 0, 0, 0, [], 0⟩

/-- An empty trace buffer. -/
def Trace.empty : Trace := ⟨[], [], 0, none, false, 0, 0, 0, []⟩

/-- A core at reset: caches and queues empty, B 65,536, LRATE 4, cool (R335, R338, R367, R463, R465; log 3). -/
def Core.reset : Core :=
  ⟨[], [], [], [], [], none, 65536, 4, none, [], [], false, 0, 0, [], Vector.replicate 4 0, [], (0, 0), 0, Trace.empty⟩

/-- A slice at reset (R338, R344, R345). -/
def Slice.reset : Slice := ⟨[], 0, [], [], [], 0⟩

/-- A watchpoint at reset: disabled (log 3). -/
def Watchpoint.reset : Watchpoint := ⟨false, 0, 4, 0, 0, false⟩

/-- A die at reset (R350, R416, R449; log 3). -/
def Die.reset : Die :=
  ⟨[], [], [], [], [], [], [], 0, 0, 0, 0, false, [], [], Vector.replicate 4 Watchpoint.reset, 0, 0, 0, 0,
    Vector.replicate 3 0, []⟩

/-- A command queue at reset (R405). -/
def HQueue.reset : HQueue := ⟨0, 0, 0, 0, 0, 0, 0, []⟩

/-- Alder at reset: no context; the defaults of R466 (temperatures in units of 0.125 degrees as R366); LRATE 4 (R465). -/
def Alder.reset : Alder :=
  ⟨[], [], [], [], [], false, 760, 60, 800, 2147483648, none, none, none, none, 0, 0, 4, 3, [], 0, false⟩

/-- A port at reset: down (R415; log 3). -/
def Port.reset : Port :=
  ⟨false, false, false, false, 0, 0, Vector.replicate 2 ⟨0, 0, [], [], false⟩, 0, [], none, [], []⟩

/-- A gate at reset (R435). -/
def Gate.reset : Gate := ⟨0, 0, 0, 0, 0, false, false, 0, 0, [], 0, 0, false⟩

/-- The deterministic domain at reset (R425, R430, R439, R448, R485). -/
def Domain.reset : Domain where
  ccount := 0
  ptime := 0
  step := 3
  stepReq := 3
  reqAt := none
  pbase := 0
  wbase := 0
  rate := 0x0AAAAAAA
  stopat := 0
  stopHit := false
  stopFrom := 0
  prevPtime := 0
  stretchHold := 0
  groups := []
  teams := []
  cores := []
  dies := Vector.replicate 4 Die.reset
  slices := []
  ops := []
  writes := []
  lines := []
  walks := []
  walkFaults := []
  fenReqs := []
  fenOps := []
  pkts := []
  barMsgs := []
  queues := Vector.replicate 16 HQueue.reset
  alder := Alder.reset
  pod := ⟨[], [], [], []⟩
  pendingHost := []
  posted := []
  owed := []
  ports := Vector.replicate 16 Port.reset
  full := false
  reduced := false
  salcfg := 0x100
  modNum := 0
  cur := .none
  args := []
  agenda := []
  timed := []
  nextId := 0
  draws := 0

/-- The machine right after reset. -/
def State.reset : State where
  toDomain := Domain.reset
  mem := []
  poison := []
  hostMem := []
  frozen := false
  attach := false
  fcause := 0
  dumped := false
  scanning := false
  freport := 0
  bpSkip := []
  ibps := Vector.replicate 8 ⟨0, 0⟩
  strcnt := 0
  peatbase := 0
  peatsize := 0
  peat := none
  gates := Vector.replicate 18 Gate.reset
  latch := []
  gated := false
  wakeAt := none
  flash := []
  phase := 0
  bootErr := 0
  errDie := 0
  bootNext := 1
  mboxin := 0
  mboxout := 0
  mr := Vector.replicate 4 0
  alderKey := 0
  softErrs := 0
  linkWidth := 0
  linkRate := 0
  hostAtomics := false
  fcLimits := []
  sent := []
  inbox := []

end Sys2Proof.Machine
end

