-- ==== Sys2Proof/Machine/Ops.lean ====
section
/-! DEFINITION. The named operations over the state: access to the records, time and scheduled events, scratchpad and
physical memory bytes, counters and checkpoints, parking, fault records, and taking a trap and returning from one
(spec/13_traps_preemption.md), each written once and shared by the meanings. -/
namespace Sys2Proof.Machine

/-- The outcome of a meaning. -/
abbrev Out := Host.Outcome State Fault Refusal

/-! ## Records -/

/-- The core of a group's key. -/
def coreOfG (g : Nat) : Nat := g / 32
/-- The issue slot of a group's key: resident group index 8 * slot + k (R363). -/
def slotOfG (g : Nat) : Nat := g % 32 / 8
/-- The core of a team's key. -/
def coreOfT (t : Nat) : Nat := t / 4
/-- The die of a core (R5). -/
def dieOf (core : Nat) : Nat := core / 80
/-- The grove of a core, and so its Willow (R6). -/
def willowOf (core : Nat) : Nat := dieOf core * 8 + core % 80 / 8 / 5 * 4 + core % 8 / 2
/-- The row and column of a core in its die (R5). -/
def rowCol (core : Nat) : Nat × Nat := (core % 80 / 8, core % 8)

def State.grp? (s : State) (g : Nat) : Option Group := kget s.groups g
def State.team? (s : State) (t : Nat) : Option Team := kget s.teams t
def State.op? (s : State) (o : Nat) : Option MemOp := kget s.ops o
def State.setGrp (s : State) (g : Nat) (r : Group) : State := { s with groups := kset s.groups g r }
def State.modGrp (s : State) (g : Nat) (f : Group → Group) : State := { s with groups := kmod s.groups g f }
def State.setTeam (s : State) (t : Nat) (r : Team) : State := { s with teams := kset s.teams t r }
def State.modTeam (s : State) (t : Nat) (f : Team → Team) : State := { s with teams := kmod s.teams t f }
def State.core (s : State) (c : Nat) : Core := kgetD s.cores c Core.reset
def State.modCore (s : State) (c : Nat) (f : Core → Core) : State := { s with cores := kset s.cores c (f (s.core c)) }
def State.slice (s : State) (x : Nat) : Slice := kgetD s.slices x Slice.reset
def State.modSlice (s : State) (x : Nat) (f : Slice → Slice) : State := { s with slices := kset s.slices x (f (s.slice x)) }
def State.die (s : State) (d : Nat) : Die := s.dies.getD d Die.reset
def State.modDie (s : State) (d : Nat) (f : Die → Die) : State :=
  { s with dies := s.dies.setIfInBounds d (f (s.die d)) }
def State.setOp (s : State) (o : Nat) (m : MemOp) : State := { s with ops := kset s.ops o m }
def State.modOp (s : State) (o : Nat) (f : MemOp → MemOp) : State := { s with ops := kmod s.ops o f }
def State.delOp (s : State) (o : Nat) : State := { s with ops := kdel s.ops o }
def State.ctx? (s : State) (c : Nat) : Option Ctx := s.alder.ctxs.find? (·.id == c)
def State.modCtx (s : State) (c : Nat) (f : Ctx → Ctx) : State :=
  { s with alder := { s.alder with ctxs := s.alder.ctxs.map fun x => if x.id == c then f x else x } }

/-- The team of a group. -/
def State.teamOf (s : State) (r : Group) : Option Team := kget s.teams r.team
/-- The ASN of a context, 0 for none. -/
def State.asnOf (s : State) (c : Nat) : Nat := ((s.ctx? c).map (·.asn)).getD 0
/-- Whether a context is privileged (R358). -/
def State.privOf (s : State) (c : Nat) : Bool := ((s.ctx? c).map (·.priv)).getD false

/-- A fresh identifier. -/
def State.fresh (s : State) : Nat × State := (s.nextId, { s with nextId := s.nextId + 1 })

/-- The next time of a memory path, at least 1 cycle (R490; FREE VALUE, log 2). -/
def State.draw (s : State) : Nat × State := (Config.pathLatency s.draws + 1, { s with draws := s.draws + 1 })

/-! ## Time (R425, R429, R430) -/

/-- PTIME ticks of a core cycle at a step: 120 divided by the multiplier (R425). -/
def ticksOf (step : BitVec 2) : Nat :=
  match step.toNat with
  | 0 => 10
  | 1 => 12
  | 2 => 15
  | _ => 20

/-- Ticks of a core cycle now. -/
def State.tpc (s : State) : Nat := ticksOf s.step

/-- Cycles until the first cycle whose PTIME is at least t, at the step in force. -/
def State.cyclesTo (s : State) (t : Nat) : Nat := (t - s.ptime + s.tpc - 1) / s.tpc

/-- A write of STOPAT (R439): when the first cycle whose PTIME is at least the value has passed, the freeze follows the next cycle. (DEDUCED, log 49.) -/
def State.setStopat (s : State) (v : W64) : State :=
  { s with
    stopat := v.toNat, stopHit := false
    stopFrom := if v.toNat ≤ (if s.frozen then s.ptime else s.prevPtime) then s.ccount + 1 else s.ccount }

/-- WTIME (R430). -/
def State.wtime (s : State) : Nat := s.wbase + (s.ptime - s.pbase) * s.rate / 4294967296

/-- Requester order of R308 within a module: core, slot, resident group index, lane (scalar 96, engine 97); the host and the device's own writes
last. (DESIGN CHOICE, log 5.) -/
def agentKey (a : Agent) (core lane : Nat) : Nat :=
  match a with
  | .peer _ => core * 8192 + lane
  | .host => 16777215
  | .scalar g => core * 8192 + slotOfG g * 2048 + (g % 8) * 128 + 96
  | .lane g => core * 8192 + slotOfG g * 2048 + (g % 8) * 128 + lane
  | _ => core * 8192 + 4 * 2048 - 128 + 97

/-- Requester order of R308: the module, then the order within it. -/
def State.agentRank (s : State) (a : Agent) (core lane : Nat) : Nat :=
  (match a with
    | .peer m => m
    | _ => s.modNum.toNat) * 16777216 + agentKey a core lane

/-- The key of an operation's part. -/
def State.partKey (s : State) (o p : Nat) : Nat :=
  match s.op? o with
  | some m => s.agentRank m.agent m.core ((m.parts[p]?.map (·.lane)).getD 0)
  | none => 0

/-- The place of a Fen request among those that reach a slice in one cycle (R294): module, core, issue slot, resident group index, lane,
scalar forms as lane 96. -/
def State.fenKey (s : State) (q : Nat) : Nat :=
  match kget s.fenReqs q with
  | none => 0
  | some r =>
    match r.fromPeer with
    | some p => (p.src.toNat * 512 + p.score.toNat % 512) * 16384
    | none => (((s.modNum.toNat * 512 + coreOfG r.g) * 4 + slotOfG r.g) * 32 + r.g % 32) * 128 + r.lane

/-- The place of an add-on-store's operation among those applied at one PTIME (R267): core, then sequencer. -/
def State.engKey (s : State) (core id : Nat) : Nat :=
  core * 65536 + (((s.core core).eng.find? (·.id == id)).map fun e => e.team % 4).getD 0 * 8192

/-- The place of a bulk packet's event: an acceptance in requester order (R308), a byte addition by arriving port and sequence (R46). -/
def State.bulkRank (s : State) (k : Nat) : Nat :=
  match kget s.pkts k with
  | none => 22 * 4294967296
  | some p =>
    if p.gwct.isNone then
      11 * 4294967296 + (match p.fromPeer with
        | some q => q.src.toNat * 16777216 + q.score.toNat % 512 * 8192 + 4 * 2048 - 128 + 97
        | none => s.agentRank (.xfer p.core) p.core 0)
    else 22 * 4294967296 + (match p.fromPeer with
        | some q => (1 + q.src.toNat) * 1048576 + k % 1048576
        | none => k % 1048576)

/-- The forwarding core of a barrier message (R46, R47). -/
def BarMsg.core : BarMsg → Nat
  | .groupArrive _ _ g | .groupWait _ _ g _ => coreOfG g
  | .seqArrive _ _ t | .seqWait _ _ t _ | .engArrive _ _ t _ _ | .errPhase _ _ t _ _ _ => coreOfT t
  | .bytes _ _ _ _ t => coreOfT t

/-- The place of a barrier message among those of its cycle: by forwarding core, then in the order sent (R46, R47). -/
def State.barKey (s : State) (m : Nat) : Nat := ((kget s.barMsgs m).map fun x => x.2.2.core).getD 0 * 1048576 + m % 1048576

/-- The rank of an event among those of one cycle: the orders of R46, R65, R302, R324, R352, R390, R422, R439 and R454 (log 5).
An event with a lower rank is executed first. -/
def State.rankOf (s : State) (i : Instr) (args : List Nat) : Nat :=
  let big := 4294967296
  let a := args.getD 0 0
  let b := args.getD 1 0
  match i with
  | .leaseExpiry .. => 1 * big
  | .fqheadWrite .. | .gheadWrite .. | .trrheadWrite .. => 2 * big
  | .traceInterval => 0
  | .traceResync => 1
  | .arrivalCrossing gate _ => 3 * big + gate
  | .registerWrite .. | .qtailDoorbell .. | .cqheadWrite .. | .mboxinWrite .. | .stepreqWrite .. | .wake .. => 3 * big + 500
  | .gateAdmit gate _ => 4 * big + gate
  | .stepBoundary => 5 * big
  | .replayInject => 5 * big + 1 + a
  | .creditReturn => 6 * big + a
  | .willowTinv => 7 * big + a
  | .pageWalk => 8 * big + a
  | .dramRefresh d c _ => 9 * big + d * 65536 + c
  | .monitorArm => 10 * big + a
  | .writeAccept | .atomicAtHome => 11 * big + s.partKey a b
  | .peerWrite p | .peerAtomic p => 11 * big + p.src.toNat * 16777216 + p.score.toNat % 512 * 8192
  | .bar2Write .. | .bar2Atomicop .. | .zeroLengthWrite .. => 11 * big + s.agentRank .host 0 0
  | .writePerform => 12 * big + a
  | .mdrainaApply => 13 * big + s.engKey a b
  | .homeRead => 14 * big + s.partKey a b
  | .peerRead _ | .bar2Read => 14 * big + big / 2
  | .fillReturn => 15 * big + s.partKey a b
  | .scalarLoadReturn | .laneLoadReturn | .wResultWrite => 16 * big + a
  | .mma .. => 16 * big + 2147483648 + a
  | .blockStart => 17 * big + a
  | .drain => 18 * big + a
  | .commitHeadResume => (if b = 0 then 19 else if b = 3 then 41 else 74 + b) * big + a
  | .laneResultWrite | .sfuResultWrite => 20 * big + a
  | .errorPhaseDelivery => 21 * big + a
  | .bulkWrite => s.bulkRank a
  | .copyPieceDone => 23 * big + a * 65536 + b
  | .fenDeposit | .fenTake | .fenCopy | .fenWithdrawal => 30 * big + s.fenKey a
  | .fenRefill => 33 * big
  | .fenParkedDepositStore => 34 * big
  | .placementPass => 60 * big
  | .willowPlace => 61 * big + a
  | .teamStart => 62 * big + a
  | .barrierArrival => 70 * big + ((s.grp? a).map fun r => r.team * 16 + r.gid.toNat).getD 0
  | .tbara .. => 71 * big + a
  | .mmaCompletion | .mloadCompletion | .mzeroCompletion | .drainCompletion => 72 * big + a
  | .remoteBarrierUpdate => 73 * big + s.barKey a
  | .willowStop => 90 * big + a
  | .stopatReached => 99 * big
  | _ => 40 * big

/-- From this rank on an event belongs to the barrier updates that follow the arrivals of the units of its cycle (R46). -/
def lateRank : Nat := 70 * 4294967296
/-- From this rank on an event comes after everything that its cycle does. -/
def endRank : Nat := 90 * 4294967296

/-- Inserts an event behind the events of its cycle and rank. (DESIGN CHOICE, log 5.) -/
def insertTimed (e : Timed) : List Timed → List Timed
  | [] => [e]
  | x :: r => if x.due < e.due ∨ (x.due = e.due ∧ x.rank ≤ e.rank) then x :: insertTimed e r else e :: x :: r

/-- Schedules an event a number of cycles from now, with a rank. -/
def State.schedR (s : State) (cycles rank : Nat) (i : Instr) (args : List Nat) : State :=
  { s with timed := insertTimed ⟨s.ccount + cycles, rank, i, args, none⟩ s.timed }

/-- Schedules an event a number of cycles from now; `args` says what it acts on. -/
def State.sched (s : State) (cycles : Nat) (i : Instr) (args : List Nat := []) : State :=
  s.schedR cycles (s.rankOf i args) i args

/-- Schedules an event after the next memory-path time. (DESIGN CHOICE, log 2.) -/
def State.schedPath (s : State) (i : Instr) (args : List Nat := []) : State := let (n, s') := s.draw; s'.sched n i args

/-- Schedules an event for the first cycle whose PTIME is at least t. -/
def State.schedAt (s : State) (t : Nat) (i : Instr) (args : List Nat := []) : State :=
  { s with timed := insertTimed ⟨s.ccount + s.cyclesTo t, s.rankOf i args, i, args, some t⟩ s.timed }

/-- Events that stand for a PTIME are moved to the cycle that reaches it at the step now in force (R429, R430). -/
def State.retime (s : State) : State :=
  let move := fun (e : Timed) => match e.pt with
    | some t => { e with due := s.ccount + s.cyclesTo t }
    | none => e
  { s with timed := s.timed.foldl (fun l e => insertTimed (move e) l) [] }

/-- Schedules an event once: not again while the same event already stands. -/
def State.schedOnce (s : State) (cycles : Nat) (i : Instr) (args : List Nat := []) : State :=
  if s.timed.any (fun e => e.i == i && e.args == args) then s else s.sched cycles i args

/-- What the executing event acts on: its first, second and third number. -/
def State.a0 (s : State) : Nat := s.args.getD 0 0
def State.a1 (s : State) : Nat := s.args.getD 1 0
def State.a2 (s : State) : Nat := s.args.getD 2 0

/-- Lease length in ticks of a LEASE value (R305). -/
def State.leaseTicks (s : State) (l : Nat) : Nat := l * s.tpc

/-! ## Module memory bytes (R328, R329, R424; log 1) -/

/-- The class of a physical address: module, host, peer, reserved (R328). -/
def paClass (pa : Nat) : Nat := pa / 1125899906842624 % 4
/-- Bits 49:0 of a physical address. -/
def paLow (pa : Nat) : Nat := pa % 1125899906842624
/-- Bonded DRAM, by offset (R329). -/
def isBonded (o : Nat) : Bool := decide (o < 0x4000000000)
/-- LPDDR, by offset. -/
def isLpddr (o : Nat) : Bool := decide (0x10000000000 ≤ o ∧ o < 0x30000000000)
/-- The device register blocks. -/
def isRegBlock (o : Nat) : Bool := decide (0x38000000000 ≤ o ∧ o < 0x39000000000)

/-- Whether a module-space offset is memory now: bonded DRAM counts as unbacked in reduced service (R460). -/
def State.backed (s : State) (o : Nat) : Bool := (isBonded o && !s.reduced) || isLpddr o

/-- Home die and die-local offset of a module-space offset (R329). -/
def homeDie (o : Nat) : Nat := if isBonded o then o / 0x1000000000 else (o - 0x10000000000) / 0x8000000000 % 4
def dieLocal (o : Nat) : Nat :=
  if isBonded o then o % 0x1000000000 else (o - 0x10000000000) % 0x8000000000
/-- The home L2 slice, die * 48 + slice (R330). -/
def homeSlice (o : Nat) : Nat := homeDie o * 48 + dieLocal o / 4096 % 48

/-- Removes the bytes of a list of cells at the keys of a range, and inserts: the memory of the module in its canonical form,
an unlisted byte reading 0 (log 1). -/
def State.dram (s : State) (o : Nat) : Byte := sget (w := 8) s.mem o
def State.setDram (s : State) (o : Nat) (b : Byte) : State := { s with mem := sset (w := 8) s.mem o b }
def State.setDramL (s : State) (o : Nat) (bs : List Byte) : State := { s with mem := ssetL (w := 8) s.mem o bs }

/-! ## Scratchpad (R41, R343) -/

def Team.spGet (t : Team) (off n : Nat) : List Byte := sgetL t.sp off n
def Team.spNat (t : Team) (off n : Nat) : Nat := bytesNat (t.spGet off n)
def Team.spSet (t : Team) (off : Nat) (bs : List Byte) : Team := { t with sp := ssetL t.sp off bs }
/-- Plain stores of whole aligned 8-byte words away from the barrier words: they clear the words' poison (R342). -/
def Team.spStoreAt (t : Team) (off : Nat) (bs : List Byte) : Team :=
  { t.spSet off bs with poison := t.poison.filter fun p => decide (p < off ∨ off + bs.length < p + 8) }
/-- The bound check of every scratchpad access (R343), on the offset as an unsigned number. -/
def Team.spIn (t : Team) (off size : Nat) : Bool := decide (off + size ≤ t.spSize)

/-! ## Registers of a group (R21, R26) -/

/-- The value of a scalar register: s0 reads 0; s61 to s63 read EXEC (R21, R26). -/
def Group.sread (r : Group) (n : BitVec 6) : W64 :=
  match n.toNat with
  | 0 => 0
  | 61 => (r.exec.extractLsb' 0 32).setWidth 64
  | 62 => (r.exec.extractLsb' 32 32).setWidth 64
  | 63 => (r.exec.extractLsb' 64 32).setWidth 64
  | k => r.s.getD k 0

/-- EXEC with the part that a scalar register names replaced by bits 31:0 of a value (R26). -/
def execSet (e : Mask) (n : BitVec 6) (v : W64) : Mask :=
  let p := (n.toNat - 61) * 32
  (e &&& ~~~((0xFFFFFFFF : Mask) <<< p)) ||| ((v.setWidth 32).setWidth 96 <<< p)

/-- Writes a general scalar register: a write to s0 is discarded (R21). EXEC is written by a held effect only (R148). -/
def Group.swrite (r : Group) (n : BitVec 6) (v : W64) : Group :=
  if n.toNat = 0 ∨ 61 ≤ n.toNat then r else { r with s := r.s.setIfInBounds n.toNat v }

/-- Whether a register number names EXEC. -/
def isExecReg (n : BitVec 6) : Bool := decide (61 ≤ n.toNat)

/-- A register of a snapshot s16 to s31 (R32). -/
def snapOf (s : SRegs) : Snap := Vector.ofFn fun i => s.getD (16 + i.val) 0

/-- Flags that are set in a cycle are ORed into FLAGS, and remembered for a released write of FLAGS in that cycle (R30, R65). -/
def Group.setFlags (r : Group) (now : Nat) (f : BitVec 8) : Group :=
  { r with flags := r.flags ||| f, fset := (now, (if r.fset.1 = now then r.fset.2 else 0) ||| f) }

/-- A released write of FLAGS: the flags set in its cycle are ORed into the written value (R30). -/
def Group.writeFlags (r : Group) (now : Nat) (v : BitVec 8) : Group :=
  { r with flags := v ||| (if r.fset.1 = now then r.fset.2 else 0) }

/-- One lane word of a lane register (R23). -/
def Group.vget (r : Group) (reg lane : Nat) : W32 := sget r.v (reg * 96 + lane)
def Group.vset (r : Group) (reg lane : Nat) (x : W32) : Group := { r with v := sset r.v (reg * 96 + lane) x }
/-- Whether a lane register is written: within a regroup, only the window's (R59). -/
def Group.writable (r : Group) (reg : Nat) : Bool :=
  match r.rg with
  | some w => decide (w.base ≤ reg ∧ reg < w.base + w.count)
  | none => true

/-- Writes consecutive registers of a lane. -/
def Group.vput (r : Group) (reg lane : Nat) : List W32 → Group
  | [] => r
  | x :: rest => (if r.writable reg then r.vset reg lane x else r).vput (reg + 1) lane rest

/-- A mask register (R25). -/
def Group.kreg (r : Group) (n : Nat) : Mask := r.k.getD n 0
def Group.kset' (r : Group) (n : Nat) (m : Mask) : Group := { r with k := r.k.setIfInBounds n m }

/-! ## Outstanding operations (R36, R37) -/

/-- A counter: the operations of its kind that have not left in issue order. -/
def Group.ctr (r : Group) (c : Ctr) : Nat := (r.outs.filter (·.ctr == c)).length

/-- Adds an outstanding operation. -/
def Group.addOut (r : Group) (o : Outst) : Group := { r with outs := r.outs ++ [o] }

/-- Marks an operation returned, and drops the returned operations that no older one of the counter precedes (R37). -/
def dropDone (c : Ctr) : List Outst → List Outst
  | [] => []
  | o :: r => if o.ctr == c then (if o.done then dropDone c r else o :: r) else o :: dropDone c r
def Group.outDone (r : Group) (id : Nat) : Group :=
  let outs := r.outs.map fun o => if o.id == id then { o with done := true } else o
  match outs.find? (·.id == id) with
  | some o => { r with outs := dropDone o.ctr outs }
  | none => r

/-- Whether an operation is still outstanding. -/
def Group.outLive (r : Group) (id : Nat) : Bool := r.outs.any fun o => o.id == id && !o.done

/-! ## Scoreboard of scalar registers (R22) -/

def Group.pend? (r : Group) (n : BitVec 6) : Option PendS := r.pendS.find? (·.reg == n)

/-- Writes a returned value into a checkpoint that holds its register as pending (R379). -/
def Ckpt.land (c : Ckpt) (id : Nat) (v : W64) : Ckpt :=
  match c.pend.find? (·.id == id) with
  | some p => { c with
      s := if p.reg.toNat = 0 then c.s else c.s.setIfInBounds p.reg.toNat v, pend := c.pend.filter (·.id != id) }
  | none => c

/-- A value returns to the scalar register that waits for it, or to the held write of EXEC that waits for it (R22, R148). -/
def Group.landS (r : Group) (id : Nat) (v : W64) : Group :=
  let r := match r.pendS.find? (·.id == id) with
    | some p => { r.swrite p.reg v with pendS := r.pendS.filter (·.id != id) }
    | none => r
  { r with
    cq := r.cq.map fun e => if e.id == id && e.val.isNone then { e with val := some v } else e
    ck := r.ck.land id v
    blk := r.blk.map fun b => { b with ck := b.ck.land id v }
    lq := r.lq.map fun e => { e with ck := e.ck.land id v } }

/-! ## Checkpoints (R378) -/

/-- The scalar checkpoint of this moment, with the SPC given. -/
def Group.checkpoint (r : Group) (spc : W64) : Ckpt :=
  ⟨spc, r.s, r.ctr .ldc, r.ctr .stc, r.ctr .cpc, r.ctr .tlc, r.pendS, r.pos⟩

/-! ## Parking and waking (R372) -/

/-- Mesh steps between two cores of one die, along columns and then rows. -/
def meshSteps (a b : Nat) : Nat :=
  let (ra, ca) := rowCol a
  let (rb, cb) := rowCol b
  (ra - rb) + (rb - ra) + (ca - cb) + (cb - ca)

/-- Bridges between two dies (R4): the dies form a square, so opposite dies are two bridges apart (R455). -/
def bridges (a b : Nat) : Nat :=
  (if a % 2 = b % 2 then 0 else 1) + (if a / 2 % 2 = b / 2 % 2 then 0 else 1)

/-- Wake message latency (R372). -/
def wakeLatency (a b : Nat) : Nat := 4 + 2 * meshSteps (a % 80) (b % 80) + 24 * bridges (dieOf a) (dieOf b)

/-- Parks a group: its wait counts are 0. -/
def Group.park (r : Group) (p : Park) : Group := { r with parked := some p, waitS := 0, waitL := 0 }

/-- Whether a group stands in a step of a regroup, or waits for its RJOIN: its lane stream is parked, its scalar stream runs (R218). (DEDUCED, log 72.) -/
def Group.atStep (r : Group) : Bool := r.rgArr.isSome || (match r.rg with | some w => w.parked | none => false)

/-- What parked a group for another reason than a regroup is over. -/
def Group.unpark (r : Group) : Group := { r with parked := if r.atStep then some .regroup else none }

/-- A group arrives at a step of a regroup; where its scalar stream is parked already, that stands. -/
def Group.parkStep (r : Group) : Group := if r.parked.isSome then r else r.park .regroup

/-- A regroup's step parks a group no longer. -/
def Group.leaveRegroup (r : Group) : Group := { r with parked := if r.parked == some .regroup then none else r.parked }

/-- Whether a group's scalar stream is parked (R372): not by a regroup (R218). -/
def Group.scalarParked (r : Group) : Bool := r.parked.isSome && r.parked != some .regroup

/-- Both streams may run: resident, not parked, not stopped. -/
def Group.live (r : Group) : Bool := r.parked.isNone && r.stop == .runs && r.trap.isNone

/-! ## Fault records (R348 to R351) -/

/-- The 32 bytes of a fault record (R349). -/
def FaultRec.bytes (f : FaultRec) : List Byte :=
  wBytes 8 f.va ++ natBytes 8 f.ptime ++ wBytes 2 f.causew ++ natBytes 2 f.core ++ wBytes 2 f.agent ++ natBytes 2 f.asn ++
    wBytes 8 f.detail

/-- Whether the queue of a die takes records: enabled, size in range, not full (R350). -/
def Die.fqOpen (d : Die) : Bool :=
  let sz := d.fqctl.extractLsb' 0 5
  d.fqctl.getLsbD 8 && decide (7 ≤ sz.toNat ∧ sz.toNat ≤ 20) && decide ((d.fqtail - d.fqhead).toNat < 2 ^ sz.toNat)

/-- Whether a gate's SIZE is in range (R435). -/
def Gate.sized (g : Gate) : Bool := decide (2 ≤ (g.gctl.extractLsb' 0 5).toNat ∧ (g.gctl.extractLsb' 0 5).toNat ≤ 20)
/-- Whether a gate writes or reads records: EN set and SIZE in range (R435, R436). -/
def Gate.on (g : Gate) : Bool := g.gctl.getLsbD 8 && g.sized
/-- The mode of a gate (R435): 3 is strict. -/
def Gate.mode (g : Gate) : GMode :=
  match (g.gctl.extractLsb' 5 2).toNat with
  | 1 => .lossy
  | 2 => .replay
  | _ => .strict
/-- TAIL minus HEAD equals 2^SIZE. -/
def Gate.isFull (g : Gate) : Bool := decide (2 ^ (g.gctl.extractLsb' 0 5).toNat ≤ (g.gtail - g.ghead).toNat)
/-- The header of a TLP as the model writes it, 16 bytes (log 20): type, BAR or operand width, tag, length, address or offset. -/
def tlpHead (ty bar tag len off : Nat) : List Byte :=
  natBytes 1 ty ++ natBytes 1 bar ++ natBytes 2 tag ++ natBytes 4 len ++ natBytes 8 off

/-- The code of a PCIe AtomicOp in a TLP header (log 20). -/
def tlpType : PcieAtomic → Nat
  | .fetchAdd => 2
  | .swap => 3
  | .cas => 4

/-- A packet as its flits' contents: header and data (R410). -/
def packetBytes (p : Packet) : List Byte :=
  wBytes 1 p.kind ++ natBytes 1 ((if p.crit then 1 else 0) + if p.resend then 2 else 0) ++ wBytes 1 p.dst ++ wBytes 1 p.src ++
    wBytes 2 p.score ++ natBytes 1 ((p.data.length + 63) / 64) ++ [0] ++ wBytes 4 p.eseq ++ wBytes 4 p.cred ++ wBytes 8 p.addr ++
    wBytes 8 p.time ++ wBytes 32 p.ben ++ p.data

/-- The gate whose link something leaves by, and its bytes; what is no TLP or packet leaves by none. (DESIGN CHOICE, log 20.) (DEDUCED, log 50.) -/
def Sent.link : Sent → Option (Nat × List Byte)
  | .hostWrite addr data => some (0, tlpHead 1 0 0 data.length addr ++ data)
  | .hostRead tag addr len => some (0, tlpHead 0 0 tag len addr)
  | .hostAtomic tag addr op wide x y => some (0, tlpHead (tlpType op) (if wide then 8 else 4) tag 16 addr ++ wBytes 8 x ++ wBytes 8 y)
  | .completion tag status data => some (0, tlpHead 5 status tag data.length 0 ++ data)
  | .msix vec => some (0, tlpHead 7 0 vec 0 0)
  | .packet port p => some (1 + port, packetBytes p)
  | _ => none

/-- Sends something out of the module. A TLP or packet is counted in OUTSIG and OUTCNT of its gate (R435); a gate in replay mode
transmits nothing that the domain sends (R437). (DEDUCED, log 50.) -/
def State.send (s : State) (x : Sent) : State :=
  match x.link with
  | none => { s with sent := s.sent ++ [x] }
  | some (g, bs) =>
    let y := s.gates.getD g Gate.reset
    let z := { y with outsig := Config.crc32 y.outsig bs, outcnt := y.outcnt + 1 }
    { s with gates := s.gates.setIfInBounds g z, sent := if y.on && y.mode == .replay then s.sent else s.sent ++ [x] }

/-- Posts bytes to host memory: what the host sees (R403), counted at gate 0 (R435). (DESIGN CHOICE, log 15.) -/
def State.postHost (s : State) (addr : Nat) (bs : List Byte) : State :=
  { s with hostMem := ssetL s.hostMem addr bs }.send (.hostWrite addr bs)

/-- Writes bytes where the device writes its own rings, at a 32-byte aligned address: module memory through its home, or host memory. A
write outside both faults, and the record is dropped (R350). (DEDUCED, log 62.) -/
def State.ringWrite (s : State) (pa : Nat) (bs : List Byte) : Option State :=
  if paClass pa = 1 then some (s.postHost (paLow pa) bs)
  else if paClass pa = 0 ∧ s.backed (paLow pa) then
    let (k, s1) := s.fresh
    let n := (bs.length + 63) / 64
    let parts : List Part := (List.range n).map fun i =>
      let b := (bs.drop (64 * i)).take 64
      ⟨0, 64 * i, pa + 64 * i, b.length, b, 0, 0, none, false, none, true, false⟩
    let m : MemOp := { kind := .store, agent := .host, core := 0, dest := .none, order := .relaxed, scope := .grp, fn := .int .add
                       asize := 0, parts := parts, pc := 0, waits := [], performed := true, leaseLen := 0, minFill := 0
                       t0 := s.ptime, out := 0, pos := 0 }
    some ((List.range n).foldl (fun s i => s.sched 0 .writeAccept [k, i]) (s1.setOp k m))
  else none

/-- Writes records of a die for which there is room, in order, and holds the others (R350, R351). An interrupt is sent when FQTAIL moves. -/
def flushRecs (d : Nat) : List FaultRec → State → State
  | [], s => s.modDie d fun x => { x with fqheld := [] }
  | f :: r, s =>
    let x := s.die d
    if x.fqOpen then
      let slot := x.fqtail.toNat % 2 ^ (x.fqctl.extractLsb' 0 5).toNat
      flushRecs d r (match s.ringWrite ((x.fqbase.extractLsb' 12 40).toNat * 4096 + 32 * slot) f.bytes with
        | some s' =>
          let s1 := s'.modDie d fun y => { y with fqtail := y.fqtail + 1 }
          if x.fqctl.getLsbD 9 then s1.send (.msix (16 + d)) else s1
        | none => s.modDie d fun y => { y with fqwerr := true })
    else s.modDie d fun y => { y with fqheld := f :: r }

/-- The records that a die can still take in this cycle: the room of its queue where nothing is held, and 8 held ones (R351). -/
def Die.fqRoom (d : Die) : Nat :=
  let sz := d.fqctl.extractLsb' 0 5
  (if d.fqOpen && d.fqheld.isEmpty then 2 ^ sz.toNat - (d.fqtail - d.fqhead).toNat else 0) + 8 - d.fqheld.length - d.fqnow.length

/-- Whether an agent of a die with n further records must wait (R351). -/
def State.fqWaits (s : State) (d : Nat) (n : Nat := 1) : Bool := decide ((s.die d).fqRoom < n)

/-- A fault record is detected at a die: it is written at the end of the cycle, in the order of R348. -/
def State.faultRec (s : State) (d : Nat) (f : FaultRec) : State := s.modDie d fun x => { x with fqnow := x.fqnow ++ [f] }

/-- The order of the records of one cycle (R348): core number, then the source code. -/
def FaultRec.key (f : FaultRec) : Nat := f.core * 16 + (f.causew.extractLsb' 8 4).toNat

/-- The records detected in this cycle are written, or held behind those that wait for room (R348, R351). -/
def State.closeRecords (s : State) : State :=
  (List.range 4).foldl (fun s d =>
    let x := s.die d
    if x.fqnow.isEmpty then s else
    let new := sortBy (fun (a b : FaultRec) => decide (a.key ≤ b.key)) x.fqnow
    let s1 := s.modDie d fun y => { y with fqnow := [] }
    if x.fqheld.isEmpty then flushRecs d new s1 else s1.modDie d fun y => { y with fqheld := y.fqheld ++ new }) s

/-- CAUSEW of R349. -/
def causew (cause : BitVec 8) (src : Nat) (write fetch badpte : Bool) : BitVec 16 :=
  cause.setWidth 16 ||| BitVec.ofNat 16 (src * 256) ||| (if write then 0x1000 else 0) ||| (if fetch then 0x2000 else 0) |||
    (if badpte then 0x4000 else 0)

/-! ## Causes (R376) -/

def cPAGE : BitVec 8 := 0x01
def cPROT : BitVec 8 := 0x02
def cALIGN : BitVec 8 := 0x03
def cSPBOUND : BitVec 8 := 0x04
def cREGION : BitVec 8 := 0x05
def cILLEGAL : BitVec 8 := 0x06
def cPRIV : BitVec 8 := 0x07
def cBUDGET : BitVec 8 := 0x08
def cRSTACK : BitVec 8 := 0x09
def cARITH : BitVec 8 := 0x0A
def cBRK : BitVec 8 := 0x0B
def cXFUNC : BitVec 8 := 0x0D
def cECC : BitVec 8 := 0x0E
def cFENFULL : BitVec 8 := 0x10
def cMATRIX : BitVec 8 := 0x11

/-- What a failed check reports: cause, faulting address, TRAPINFO, and the WRITE, FETCH and BADPTE bits of its record. -/
structure Bad where
  cause : BitVec 8
  va : W64
  info : W64
  write : Bool
  fetch : Bool
  badpte : Bool
  deriving DecidableEq, Repr

/-- A failure without an access. -/
def bad (cause : BitVec 8) (va info : W64) : Bad := ⟨cause, va, info, false, false, false⟩
/-- ILLEGAL with a subcode; the field of the register or counter concerned is zero (R51, R95; for the subcodes of R188 the DESIGN CHOICE of log 74). -/
def illegal (sub : Nat) : Bad := bad cILLEGAL 0 (BitVec.ofNat 64 sub)
/-- What a word that does not decode raises (R95, R75): XFUNC with the func7 value, or ILLEGAL with its subcode. -/
def badOf : DecErr → Bad
  | .illegal sub => bad cILLEGAL 0 (sub.setWidth 64)
  | .xfunc f => bad cXFUNC 0 (f.setWidth 64)

/-! ## Run-ahead undo (R379) -/

/-- Run-ahead undo of a group: the commit queue, the lane queue and the early loads issued after the current checkpoint
are discarded; SPC and s1 to s60 are those of the checkpoint; a counter keeps the operations issued by the lane stream or
released; a register pending at the checkpoint for an operation that has not returned stays pending. -/
def Group.undo (r : Group) : Group :=
  let c := r.ck
  let keep := r.outs.filter fun o => o.lane || (o.rel && (!o.early || c.pend.any (·.id == o.id)))
  { r with
    cq := [], lq := [], spc := c.spc, s := c.s, outs := keep, pendS := c.pend, pos := c.pos
    drain := false, drained := false, holdUntil := 0, barTarget := none, baraw := false, fwdArr := [], rel := none
    barrierIds := r.barrierIds.filter fun i => keep.any (·.id == i) }

/-- The early scalar loads issued after the current checkpoint that have been performed and have not returned (R379). -/
def State.earlyOut (s : State) (g : Nat) (r : Group) : Bool :=
  s.ops.any fun p => p.2.agent == .scalar g && p.2.kind == .load && p.2.performed && !r.ck.pend.any (·.id == p.1)

/-- The undo of a group in the machine: an early load that a load barrier still holds is not performed any more. (DEDUCED, log 29.) -/
def State.undo (s : State) (g : Nat) : State :=
  match s.grp? g with
  | none => s
  | some r =>
    let c := r.ck
    let gone : Nat × MemOp → Bool := fun p =>
      p.2.agent == .scalar g && (p.2.kind == .load || p.2.kind == .spLoad) && !c.pend.any (·.id == p.1)
    { s.setGrp g r.undo with ops := s.ops.filter fun p => !gone p }

/-! ## Pre-emption requests (R390, R391) -/

/-- Requests the pre-emption of a context. REASON keeps the lowest code: 1 escalation, 2 time slice, 3 driver request (R390);
the ESC fields keep the lower core, then the lower agent. (DEDUCED, log 46.) -/
def State.requestPreempt (s : State) (c reason escCore escAgent escCause : Nat) : State :=
  s.modCtx c fun x =>
    match x.pre with
    | none => { x with pre := some ⟨reason, s.ccount, [], [], [], escCore, escAgent, escCause, false, 0⟩ }
    | some p =>
      let lower := decide (reason = 1 ∧ (p.reason ≠ 1 ∨ escCore < p.escCore ∨ (escCore = p.escCore ∧ escAgent < p.escAgent)))
      { x with pre := some { p with
          reason := min p.reason reason
          escCore := if lower then escCore else p.escCore
          escAgent := if lower then escAgent else p.escAgent
          escCause := if lower then escCause else p.escCause } }

/-- Sends STOP to all 32 Willows in the cycle of recognition (R395); delivery times of R455. -/
def willowDelay (w : Nat) : Nat := 32 + 24 * bridges 0 (w / 8)
def State.sendStops (s : State) (c : Nat) : State :=
  (List.range 32).foldl (fun s w => s.sched (willowDelay w) .willowStop [w, c]) s

/-- A pre-emption request: the first one sends the STOPs. -/
def State.preemptCtx (s : State) (c reason escCore escAgent escCause : Nat) : State :=
  let new := ((s.ctx? c).map (·.pre.isNone)).getD false
  let s := s.requestPreempt c reason escCore escAgent escCause
  if new then s.sendStops c else s

/-- Halts a context: no image will be written, and its RESUME completes with status 3 (R384, R342, R467). -/
def State.haltCtx (s : State) (c : Nat) : State :=
  let s := s.modCtx c fun x => { x with halted := true }
  s.preemptCtx c 3 0 0 0

/-! ## Trap entry (R382), double fault (R384), escalation (R386), deferred traps (R388), return (R385) -/

/-- The handler of a group for a cause: its trap table has the cause's HMASK bit set (R381, R382). -/
def State.handlerFor (s : State) (r : Group) (cause : BitVec 8) : Option W64 :=
  match s.team? r.team with
  | some x => match x.handler with
    | some (h, m) => if m.getLsbD cause.toNat then some h else none
    | none => none
  | none => none

/-- The trap registers written as one update (R52, R382). -/
def Group.trapRegs (r : Group) (cause : BitVec 8) (lane : Bool) (va info spc lpc : W64) : Group :=
  { r with
    trapcause := cause.setWidth 64 ||| (if lane then 0x100 else 0)
    trapva := va, trapinfo := info, trapspc := spc, traplpc := lpc }

/-- Whether a cause has a fault record (R348). -/
def recorded (cause : BitVec 8) : Bool := decide ((1 ≤ cause.toNat ∧ cause.toNat ≤ 5) ∨ cause.toNat = 14)

/-- The fault record of a group's trap. -/
def State.trapRecord (s : State) (g : Nat) (r : Group) (lane : Bool) (b : Bad) : State :=
  s.faultRec (dieOf (coreOfG g))
    ⟨b.va, s.ptime, causew b.cause (if lane then 1 else 0) b.write b.fetch b.badpte, coreOfG g,
      BitVec.ofNat 16 (g % 32), s.asnOf r.ctx, 0⟩

/-- Escalation of a group's trap (R386): no TRAP entry; a lane trap keeps one lane-queue entry at the trapping instruction. -/
def State.escalate (s : State) (g : Nat) (cause : BitVec 8) : State :=
  match s.grp? g with
  | none => s
  | some r => (s.setGrp g { r with stop := .escalated }).preemptCtx r.ctx 1 (coreOfG g) (g % 32) cause.toNat

/-- A double fault (R384): the group is halted, a further record written, the context stopped with status 3. (DEDUCED, log 64.) -/
def State.doubleFault (s : State) (g : Nat) (lane : Bool) (b : Bad) : State :=
  match s.grp? g with
  | none => s
  | some r => ((s.setGrp g { r with stop := .halted }).trapRecord g r lane b).haltCtx r.ctx

/-- The trap frame's offset (R382, R383). -/
def frameOff (t : Team) (gid n : Nat) : Nat := t.spSize - 1024 * (t.groups - gid) + 512 * n

/-- The 512 bytes of a trap frame: s0 to s63 with s0 as 0 (R382). -/
def frameBytes (r : Group) : List Byte := (List.range 64).flatMap fun k => wBytes 8 (r.sread (BitVec.ofNat 6 k))

/-- The snapshot of the block that the lane stream runs or last ran. -/
def Group.blkSnap (r : Group) : Snap := match r.blk with | some b => b.snap | none => Vector.replicate 16 0

/-- TRAP entry for a deliverable trap: push the entry, write the frame, go to the handler (R382). -/
def State.deliver (s : State) (g : Nat) (lane : Bool) (b : Bad) (h : W64) : State :=
  match s.grp? g with
  | none => s
  | some r =>
    let n := (r.rs.filter (·.kind == .trap)).length
    match s.team? r.team with
    | none => s
    | some t =>
      if n = 2 ∨ r.rs.length = 32 ∨ t.spSize < 256 + 1024 * t.groups then s.doubleFault g lane b else
      let e : RsEntry := ⟨.trap, if lane then r.traplpc else 0, 0, r.exec, r.trapspc,
        if lane then r.blkSnap else Vector.replicate 16 0⟩
      let f := frameOff t r.gid.toNat n
      let s := s.modTeam r.team fun t => t.spStoreAt f (frameBytes r)
      s.setGrp g { r with
        rs := r.rs ++ [e], s := r.s.setIfInBounds 60 (BitVec.ofNat 64 f), spc := h, trap := none
        blk := if lane then none else r.blk, drain := false, drained := false }

/-- Adds a trace packet to those of a core's current cycle (R451); they enter the buffer in the order of R482 at its end. -/
def State.tracePut (s : State) (core kind : Nat) (payload : List Byte) : State :=
  if (s.die (dieOf core)).trctl.getLsbD 8 then
    s.modCore core fun c => { c with trace := { c.trace with now := c.trace.now ++ [(kind, payload)] } }
  else s

/-- A detail packet: only the selected group writes one (R450). -/
def State.traceDetail (s : State) (g kind : Nat) (payload : List Byte) : State :=
  if (s.core (coreOfG g)).trace.sel = some (g % 32) then
    s.tracePut (coreOfG g) kind (BitVec.ofNat 8 (g % 32) :: payload) else s

/-- TAKING A TRAP, once the FP and SFU results are written (R382): undo for a lane trap, the trap registers as one update,
the fault record, then the handler, a double fault or escalation. -/
def State.enterTrap (s : State) (g : Nat) (lane : Bool) (b : Bad) : State :=
  match s.grp? g with
  | none => s
  | some r0 =>
    let pc := if lane then r0.lpc else r0.spc
    let s1 := if lane then s.undo g else s
    match s1.grp? g with
    | none => s1
    | some r1 =>
      let r2 := r1.trapRegs b.cause lane b.va b.info r1.spc (if lane then pc else 0)
      let r3 := { r2 with
        trap := none, drain := false, drained := false, barTarget := none
        lq := if lane then [⟨pc, r2.blkSnap, r2.pos, r2.ck⟩] else r2.lq
        blk := if lane then r2.blk.map fun k => { k with running := false, starting := false } else r2.blk }
      let s2 := s1.setGrp g r3
      let s3 := if recorded b.cause then s2.trapRecord g r3 lane b else s2
      let s4 := s3.traceDetail g 6 (wBytes 1 b.cause ++ wBytes 8 (if lane then pc else 0) ++ wBytes 8 r3.spc)
      match s4.handlerFor r3 b.cause with
      | none => s4.escalate g b.cause
      | some h => (s4.modGrp g fun r => { r with lq := [] }).deliver g lane b h

/-- Results that must be written before a trap is entered (R227, R382). -/
def Group.resultsPending (r : Group) : Bool := !r.lres.isEmpty

/-- A deferred trap (R388): the registers describe the failure, the group stops with its commit queue at the failing entry, and
it escalates. -/
def State.enterDeferred (s : State) (g : Nat) (b : Bad) (pc : W64) : State :=
  match s.grp? g with
  | none => s
  | some r =>
    let r1 := { r.trapRegs b.cause false b.va b.info pc 0 with stop := .deferred, rel := none, trap := none }
    let s1 := s.setGrp g r1
    let s2 := if recorded b.cause then s1.trapRecord g r1 false b else s1
    s2.preemptCtx r.ctx 1 (coreOfG g) (g % 32) b.cause.toNat

/-- What failed, of a recognised trap. -/
def TrapRec.bad (t : TrapRec) : Bad := ⟨t.cause, t.va, t.info, t.write, t.fetch, t.badpte⟩

/-- The record of a trap that waits. -/
def Bad.trapRec (b : Bad) (lane : Bool) (defer : Option W64) : TrapRec :=
  ⟨b.cause, b.va, b.info, lane, b.write, b.fetch, b.badpte, defer⟩

/-- The fault records that a trap of a group writes (R348): its own, and that of a double fault (R384). -/
def State.trapRecords (s : State) (r : Group) (t : TrapRec) : Nat :=
  let double := t.defer.isNone && (s.handlerFor r t.cause).isSome && (match s.team? r.team with
    | some m => (r.rs.filter (·.kind == .trap)).length == 2 || r.rs.length == 32 || decide (m.spSize < 256 + 1024 * m.groups)
    | none => false)
  (if recorded t.cause then 1 else 0) + (if double then 1 else 0)

/-- Whether a recognised trap waits: for the FP and SFU results (R227, R382), for a lane trap for the early loads that it discards (R379), for a step of a
regroup (R217), for
room for its fault records (R351). (DEDUCED, log 65.) -/
def State.trapWaits (s : State) (g : Nat) (r : Group) (t : TrapRec) : Bool :=
  (t.defer.isNone && (r.resultsPending || (t.lane && s.earlyOut g r))) || (s.core (coreOfG g)).moves.any (·.team == r.team) || s.fqWaits (dieOf (coreOfG g)) (s.trapRecords r t)

/-- A trap is taken now, or by TRAP_ENTRY once what it waits for has come. -/
def State.takeTrap (s : State) (g : Nat) (t : TrapRec) : State :=
  match s.grp? g with
  | none => s
  | some r =>
    if s.trapWaits g r t then (s.setGrp g { r with trap := some t }).sched 1 .trapEntry [g]
    else match t.defer with
      | some pc => s.enterDeferred g t.bad pc
      | none => s.enterTrap g t.lane t.bad

/-- A trap is recognised (R66): while units of the cycle are still to issue it waits for them, and is taken behind them. -/
def State.recognise (s : State) (g : Nat) (t : TrapRec) : State :=
  if s.agenda.contains .close then
    (if s.agenda.any (fun i => match i with
      | .trap h u => h == g && u.defer.isSome && t.defer.isSome
      | _ => false) then s else { s with agenda := s.agenda ++ [.trap g t] })
  else s.takeTrap g t

/-- A trap of a group at its instruction. -/
def State.raise (s : State) (g : Nat) (lane : Bool) (b : Bad) : State := s.recognise g (b.trapRec lane none)

/-- A deferred trap of a group (R388), with the address of the failing instruction. -/
def State.deferTrap (s : State) (g : Nat) (b : Bad) (pc : W64) : State := s.recognise g (b.trapRec false (some pc))

/-- RETURN FROM A TRAP (R385, R187): EXEC, SPC and the lane queue from the TRAP entry; no block when RESUME is 0. The block
restarts at the trapping instruction under its own snapshot, with the checkpoint that the entry names; the current checkpoint stays that of
the SPOP's own drain (R378). -/
def Group.trapReturn (r : Group) (e : RsEntry) : Group :=
  let r1 := { r with exec := e.mask, spc := e.tspc }
  { r1 with lq := if e.resume = 0 then r1.lq else ⟨e.resume, e.tsnap, r1.pos, r1.checkpoint e.tspc⟩ :: r1.lq }

end Sys2Proof.Machine
end

