-- ==== Sys2Proof/Machine/Float.lean ====
section
/-! DEFINITION. Number formats and rounding (spec/04 R125 to R135): values are held exactly as dyadic numbers and rounded once. The
special functions of spec/07 R235 are computed in fixed point with 320 fraction bits and rounded to nearest even (log 7). -/
namespace Sys2Proof.Machine

/-! ## Flags (R53) -/

def fIVD : BitVec 8 := 0x01
def fDZ : BitVec 8 := 0x02
def fOVF : BitVec 8 := 0x04
def fUNF : BitVec 8 := 0x08
def fINX : BitVec 8 := 0x10
def fIOVF : BitVec 8 := 0x20
def fRNG : BitVec 8 := 0x40
def fSCL : BitVec 8 := 0x80

/-! ## Formats (R125 to R128) -/

/-- The families of special codes: IEEE, E4M3 without infinities, E2M1 all finite. -/
inductive FKind where
  | ieee | e4m3 | e2m1
  deriving DecidableEq, Repr

/-- A format: exponent bits, mantissa bits, bias, special codes. -/
structure Fmt where
  eb : Nat
  mb : Nat
  bias : Nat
  kind : FKind
  deriving DecidableEq, Repr

def fmtE2M1 : Fmt := ⟨2, 1, 1, .e2m1⟩
def fmtE4M3 : Fmt := ⟨4, 3, 7, .e4m3⟩
def fmtE5M2 : Fmt := ⟨5, 2, 15, .ieee⟩
def fmtF16 : Fmt := ⟨5, 10, 15, .ieee⟩
def fmtBF16 : Fmt := ⟨8, 7, 127, .ieee⟩
def fmtF32 : Fmt := ⟨8, 23, 127, .ieee⟩
def fmtF64 : Fmt := ⟨11, 52, 1023, .ieee⟩

/-- Width of a format in bits. -/
def Fmt.width (f : Fmt) : Nat := 1 + f.eb + f.mb
/-- The least normal exponent. -/
def Fmt.emin (f : Fmt) : Int := 1 - (f.bias : Int)
/-- The code of the largest finite value, without sign. -/
def Fmt.maxCode (f : Fmt) : Nat :=
  match f.kind with
  | .ieee => (2 ^ f.eb - 1) * 2 ^ f.mb - 1
  | .e4m3 => 2 ^ (f.eb + f.mb) - 2
  | .e2m1 => 2 ^ (f.eb + f.mb) - 1
/-- The code of infinity (IEEE formats). -/
def Fmt.infCode (f : Fmt) : Nat := (2 ^ f.eb - 1) * 2 ^ f.mb
/-- The default NaN (R126, R127). -/
def Fmt.nanCode (f : Fmt) : Nat :=
  match f.kind with
  | .ieee => f.infCode + 2 ^ (f.mb - 1)
  | .e4m3 => 2 ^ (f.eb + f.mb) - 1
  | .e2m1 => 0
/-- The sign bit. -/
def Fmt.signBit (f : Fmt) (neg : Bool) : Nat := if neg then 2 ^ (f.eb + f.mb) else 0

/-- A value: NaN (signalling or not), infinity, or the exact (-1)^neg * m * 2^e. -/
inductive FVal where
  | nan (sig : Bool)
  | inf (neg : Bool)
  | fin (neg : Bool) (m : Nat) (e : Int)
  deriving DecidableEq, Repr

/-- Decodes a code (R125 to R128). -/
def Fmt.dec (f : Fmt) (x : Nat) : FVal :=
  let neg := decide (x / 2 ^ (f.eb + f.mb) % 2 = 1)
  let e := x / 2 ^ f.mb % 2 ^ f.eb
  let m := x % 2 ^ f.mb
  let plain := if e = 0 then FVal.fin neg m (f.emin - f.mb) else FVal.fin neg (2 ^ f.mb + m) ((e : Int) - f.bias - f.mb)
  match f.kind with
  | .e2m1 => plain
  | .e4m3 => if e = 2 ^ f.eb - 1 ∧ m = 2 ^ f.mb - 1 then .nan false else plain
  | .ieee => if e = 2 ^ f.eb - 1 then (if m = 0 then .inf neg else .nan (decide (m < 2 ^ (f.mb - 1)))) else plain

/-- A subnormal code. -/
def Fmt.isSub (f : Fmt) (x : Nat) : Bool := decide (x / 2 ^ f.mb % 2 ^ f.eb = 0 ∧ x % 2 ^ f.mb ≠ 0)

/-- Decodes an operand, a subnormal one as zero under DAZ (R131). -/
def Fmt.decD (f : Fmt) (daz : Bool) (x : Nat) : FVal :=
  if daz && f.isSub x then .fin (decide (x / 2 ^ (f.eb + f.mb) % 2 = 1)) 0 0 else f.dec x

def FVal.isNan : FVal → Bool
  | .nan _ => true
  | _ => false
def FVal.isSnan : FVal → Bool
  | .nan true => true
  | _ => false
def FVal.isZero : FVal → Bool
  | .fin _ 0 _ => true
  | _ => false
def FVal.isInf : FVal → Bool
  | .inf _ => true
  | _ => false
def FVal.neg? : FVal → Bool
  | .nan _ => false
  | .inf n => n
  | .fin n _ _ => n
def FVal.flip : FVal → FVal
  | .nan s => .nan s
  | .inf n => .inf (!n)
  | .fin n m e => .fin (!n) m e
def FVal.abs : FVal → FVal
  | .nan s => .nan s
  | .inf _ => .inf false
  | .fin _ m e => .fin false m e

/-! ## Rounding (R132, R133) -/

/-- Rounding modes. -/
inductive Mode where
  | rn | rz | rd | ru
  deriving DecidableEq, Repr

/-- FMODE bits 1:0 (R51). -/
def Mode.ofRM (n : Nat) : Mode :=
  match n % 4 with
  | 0 => .rn
  | 1 => .rz
  | 2 => .rd
  | _ => .ru

/-- Divides m by 2^sh and rounds: the quotient and whether anything was lost. -/
def roundShift (mode : Mode) (neg : Bool) (m sh : Nat) : Nat × Bool :=
  let n := m / 2 ^ sh
  let r := m % 2 ^ sh
  let up := match mode with
    | .rn => decide (2 ^ sh < 2 * r ∨ (2 * r = 2 ^ sh ∧ n % 2 = 1 ∧ sh ≠ 0))
    | .rz => false
    | .rd => neg && decide (r ≠ 0)
    | .ru => !neg && decide (r ≠ 0)
  (if up then n + 1 else n, decide (r ≠ 0))

/-- The code of n * 2^q in a format, n at most 2^(mb+1), q the exponent of the last place, not overflowing. -/
def Fmt.enc (f : Fmt) (n : Nat) (q : Int) : Nat :=
  if n < 2 ^ f.mb then n
  else
    let (n, q) := if 2 ^ (f.mb + 1) ≤ n then (n / 2, q + 1) else (n, q)
    (q + f.mb + f.bias).toNat * 2 ^ f.mb + (n - 2 ^ f.mb)

/-- A code and the flags raised. -/
abbrev FRes := Nat × BitVec 8

/-- The default NaN with flags. -/
def Fmt.nan (f : Fmt) (fl : BitVec 8) : FRes := (f.nanCode, fl)
/-- Infinity of a sign. -/
def Fmt.inf (f : Fmt) (neg : Bool) (fl : BitVec 8) : FRes := (f.signBit neg + f.infCode, fl)
/-- Zero of a sign. -/
def Fmt.zero (f : Fmt) (neg : Bool) (fl : BitVec 8) : FRes := (f.signBit neg, fl)

/-- The result on overflow (R133). -/
def Fmt.overflow (f : Fmt) (mode : Mode) (neg : Bool) : Nat × Bool :=
  let toInf := match mode with
    | .rn => true
    | .rz => false
    | .rd => neg
    | .ru => !neg
  (f.signBit neg + (if toInf then f.infCode else f.maxCode), toInf)

/-- Rounds the exact non-zero value (-1)^neg * m * 2^e into a format: code, flags and whether the result is an infinity by
overflow. Tininess is detected after rounding (R130); FTZ replaces a subnormal result (R131). -/
def Fmt.round (f : Fmt) (mode : Mode) (ftz neg : Bool) (m : Nat) (e : Int) : Nat × BitVec 8 × Bool :=
  if m = 0 then (f.signBit neg, 0, false) else
  let lead : Int := e + Nat.log2 m
  let at' := fun (q : Int) => if q ≤ e then (m * 2 ^ (e - q).toNat, false) else roundShift mode neg m (q - e).toNat
  let q := max lead f.emin - f.mb
  let (n, inx) := at' q
  let maxN := 2 ^ (f.mb + 1) - (match f.kind with | .e4m3 => 2 | _ => 1)
  let maxQ : Int := (f.maxCode / 2 ^ f.mb : Nat) - (f.bias : Int) - f.mb
  -- n * 2^q against the largest finite value maxN * 2^maxQ
  let beyond := if maxQ ≤ q then decide (maxN < n * 2 ^ (q - maxQ).toNat) else decide (maxN * 2 ^ (maxQ - q).toNat < n)
  if beyond then let (c, i) := f.overflow mode neg; (c, fOVF ||| fINX, i)
  else
    -- tiny: rounded with unbounded exponent, below the least normal value
    let (nu, _) := at' (lead - f.mb)
    let tiny := if f.emin ≤ lead then false else decide ((nu : Nat) < 2 ^ ((f.emin - (lead - f.mb)).toNat))
    let code := f.enc n q
    if ftz && decide (code < 2 ^ f.mb) then (f.signBit neg, fUNF ||| fINX, false)
    else (f.signBit neg + code, (if inx then fINX else 0) ||| (if inx && tiny then fUNF else 0), false)

/-- Rounds an exact value, zero included, of an IEEE format. -/
def Fmt.rnd (f : Fmt) (mode : Mode) (ftz neg : Bool) (m : Nat) (e : Int) : FRes :=
  let (c, fl, _) := f.round mode ftz neg m e
  (c, fl)

/-! ## Exact arithmetic -/

/-- The exact sum of two finite values as a signed number at the smaller exponent. -/
def exactAdd (n1 : Bool) (m1 : Nat) (e1 : Int) (n2 : Bool) (m2 : Nat) (e2 : Int) : Int × Int :=
  let e := min e1 e2
  let a : Int := (m1 * 2 ^ (e1 - e).toNat : Nat)
  let b : Int := (m2 * 2 ^ (e2 - e).toNat : Nat)
  ((if n1 then -a else a) + (if n2 then -b else b), e)

/-- NaN operands: the default NaN, IVD for a signalling one (R130). -/
def nanFlags (xs : List FVal) : BitVec 8 := if xs.any (·.isSnan) then fIVD else 0

/-- a + b, rounded once (R228). -/
def Fmt.add (f : Fmt) (mode : Mode) (ftz : Bool) (a b : FVal) : FRes :=
  if a.isNan || b.isNan then f.nan (nanFlags [a, b]) else
  match a, b with
  | .inf x, .inf y => if x == y then f.inf x 0 else f.nan fIVD
  | .inf x, _ => f.inf x 0
  | _, .inf y => f.inf y 0
  | .fin n1 m1 e1, .fin n2 m2 e2 =>
    let (v, e) := exactAdd n1 m1 e1 n2 m2 e2
    if v = 0 then f.zero (if m1 = 0 ∧ m2 = 0 ∧ n1 = n2 then n1 else mode == .rd) 0
    else f.rnd mode ftz (decide (v < 0)) v.natAbs e
  | _, _ => f.nan 0

/-- a × b, rounded once. -/
def Fmt.mul (f : Fmt) (mode : Mode) (ftz : Bool) (a b : FVal) : FRes :=
  if a.isNan || b.isNan then f.nan (nanFlags [a, b]) else
  let neg := a.neg? != b.neg?
  match a, b with
  | .fin _ m1 e1, .fin _ m2 e2 => if m1 * m2 = 0 then f.zero neg 0 else f.rnd mode ftz neg (m1 * m2) (e1 + e2)
  | _, _ => if a.isZero || b.isZero then f.nan fIVD else f.inf neg 0

/-- a × b + c, rounded once (R228): 0 × ∞ sets IVD even when c is a quiet NaN. -/
def Fmt.fma (f : Fmt) (mode : Mode) (ftz : Bool) (a b c : FVal) : FRes :=
  let badProd := (a.isInf && b.isZero) || (a.isZero && b.isInf)
  if a.isNan || b.isNan || c.isNan || badProd then f.nan (nanFlags [a, b, c] ||| (if badProd then fIVD else 0)) else
  let pn := a.neg? != b.neg?
  if a.isInf || b.isInf then (if c.isInf && c.neg? != pn then f.nan fIVD else f.inf pn 0)
  else
    match a, b, c with
    | _, _, .inf n => f.inf n 0
    | .fin _ m1 e1, .fin _ m2 e2, .fin n3 m3 e3 =>
      let (v, e) := exactAdd pn (m1 * m2) (e1 + e2) n3 m3 e3
      if v = 0 then f.zero (if m1 * m2 = 0 ∧ m3 = 0 ∧ pn = n3 then pn else mode == .rd) 0
      else f.rnd mode ftz (decide (v < 0)) v.natAbs e
    | _, _, _ => f.nan 0

/-- m with a sticky last bit. -/
def sticky (m : Nat) (lost : Bool) : Nat := 2 * m + if lost then 1 else 0

/-- a ÷ b (R229). -/
def Fmt.div (f : Fmt) (mode : Mode) (ftz : Bool) (a b : FVal) : FRes :=
  if a.isNan || b.isNan then f.nan (nanFlags [a, b]) else
  let neg := a.neg? != b.neg?
  match a, b with
  | .inf _, .inf _ => f.nan fIVD
  | .inf _, _ => f.inf neg 0
  | _, .inf _ => f.zero neg 0
  | .fin _ m1 e1, .fin _ m2 e2 =>
    if m2 = 0 then (if m1 = 0 then f.nan fIVD else f.inf neg fDZ)
    else if m1 = 0 then f.zero neg 0
    else
      let s : Nat := 130
      let q := m1 * 2 ^ s / m2
      f.rnd mode ftz neg (sticky q (decide (m1 * 2 ^ s % m2 ≠ 0))) (e1 - e2 - (s : Int) - 1)
  | _, _ => f.nan 0

/-- Integer square root by bits, from bit k - 1 down. -/
def isqrtGo (x : Nat) : Nat → Nat → Nat
  | 0, r => r
  | k + 1, r => let t := r + 2 ^ k; isqrtGo x k (if t * t ≤ x then t else r)
def isqrt (x : Nat) : Nat := isqrtGo x (Nat.log2 x / 2 + 1) 0

/-- √a (R229). -/
def Fmt.sqrt (f : Fmt) (mode : Mode) (ftz : Bool) (a : FVal) : FRes :=
  match a with
  | .nan s => f.nan (if s then fIVD else 0)
  | .inf n => if n then f.nan fIVD else f.inf false 0
  | .fin n m e =>
    if m = 0 then f.zero n 0
    else if n then f.nan fIVD
    else
      -- m * 2^e = (m * 2^s) * 2^(e - s) with e - s even and s at least 140
      let s : Nat := if e % 2 = 0 then 140 else 141
      let x := m * 2 ^ s
      let r := isqrt x
      f.rnd mode ftz false (sticky r (decide (r * r ≠ x))) ((e - s) / 2 - 1)

/-! ## Order (R230, R231) -/

/-- a < b for values that are no NaN; −0 equals +0 here. -/
def FVal.lt (a b : FVal) : Bool :=
  match a, b with
  | .inf x, .inf y => x && !y
  | .inf x, _ => x
  | _, .inf y => !y
  | .fin n1 m1 e1, .fin n2 m2 e2 => decide ((exactAdd n1 m1 e1 (!n2) m2 e2).1 < 0)
  | _, _ => false

/-- a equals b as numbers. -/
def FVal.eqv (a b : FVal) : Bool := !a.isNan && !b.isNan && !a.lt b && !b.lt a

/-- A code after DAZ: a subnormal becomes the zero of its sign (R53). -/
def Fmt.daz (f : Fmt) (daz : Bool) (x : Nat) : Nat := if daz && f.isSub x then x / 2 ^ (f.eb + f.mb) * 2 ^ (f.eb + f.mb) else x

/-- The minimum or maximum of two codes (R230): −0 below +0, a NaN gives way to a number unless `prop`. -/
def Fmt.minMax (f : Fmt) (max prop daz : Bool) (x y : Nat) : FRes :=
  let a := f.decD daz x
  let b := f.decD daz y
  let fl := nanFlags [a, b]
  let less := fun (p q : FVal) => p.lt q || (p.isZero && q.isZero && p.neg? && !q.neg?)
  if a.isNan && b.isNan || prop && (a.isNan || b.isNan) then f.nan fl
  else if a.isNan then (f.daz daz y, fl)
  else if b.isNan then (f.daz daz x, fl)
  else if max then (if less a b then f.daz daz y else f.daz daz x, fl)
  else (if less b a then f.daz daz y else f.daz daz x, fl)

/-! ## Integers -/

/-- A float rounded to an integer: value and whether anything was lost. -/
def roundInt (mode : Mode) (neg : Bool) (m : Nat) (e : Int) : Int × Bool :=
  let (n, lost) := if 0 ≤ e then (m * 2 ^ e.toNat, false) else roundShift mode neg m (-e).toNat
  (if neg then -(n : Int) else n, lost)

/-- An integer as an exact value rounded into a format (R238). -/
def Fmt.ofInt (f : Fmt) (mode : Mode) (v : Int) : FRes :=
  if v = 0 then (0, 0) else f.rnd mode false (decide (v < 0)) v.natAbs 0

/-! ## Special functions (R235, R236) -/

/-- Fraction bits of the fixed point. -/
def fxP : Nat := 320
/-- π × 2^320 and ln 2 × 2^320, rounded down. -/
def fxPi : Int := 6710401180212168915155840974220003240804194089427148950727106424351713218671805380099500388914039
def fxLn2 : Int := 1480553391661173448385607439722553250922680800745876974795605978609098082859138712941075737848984

/-- Fixed-point product. -/
def fxMul (a b : Int) : Int := a * b / 2 ^ fxP

/-- Sum of x^k / k! from the term given on, n terms: term * x / k each. -/
def fxExpGo (x : Int) : Nat → Nat → Int → Int → Int
  | 0, _, _, acc => acc
  | n + 1, k, term, acc => let t := fxMul term x / (k : Int); fxExpGo x n (k + 1) t (acc + t)
/-- e^x for a small x. -/
def fxExp (x : Int) : Int := fxExpGo x 90 1 (2 ^ fxP) (2 ^ fxP)

/-- Alternating series of sine or cosine: each term is the last times -x² / (k (k + 1)). -/
def fxTrigGo (x2 : Int) : Nat → Nat → Int → Int → Int
  | 0, _, _, acc => acc
  | n + 1, k, term, acc => let t := -(fxMul term x2) / ((k * (k + 1) : Nat) : Int); fxTrigGo x2 n (k + 2) t (acc + t)
def fxSin (x : Int) : Int := fxTrigGo (fxMul x x) 45 2 x x
def fxCos (x : Int) : Int := fxTrigGo (fxMul x x) 45 1 (2 ^ fxP) (2 ^ fxP)

/-- Sum of t^(2k+1) / (2k+1). -/
def fxAtanhGo (t2 : Int) : Nat → Nat → Int → Int → Int
  | 0, _, _, acc => acc
  | n + 1, k, p, acc => let p' := fxMul p t2; fxAtanhGo t2 n (k + 2) p' (acc + p' / (k : Int))
/-- atanh t for |t| at most 1/3. -/
def fxAtanh (t : Int) : Int := fxAtanhGo (fxMul t t) 105 3 t t

/-- A finite value as fixed point. -/
def fxOf (neg : Bool) (m : Nat) (e : Int) : Int :=
  let s : Int := e + fxP
  let v : Int := if 0 ≤ s then (m * 2 ^ s.toNat : Nat) else (m / 2 ^ (-s).toNat : Nat)
  if neg then -v else v

/-- Rounds an inexact fixed-point value to FP32, nearest even, with a sticky bit. -/
def fxRound (ftz : Bool) (v : Int) : FRes := fmtF32.rnd .rn ftz (decide (v < 0)) (sticky v.natAbs true) (-(fxP : Int) - 1)

/-- sin or cos of a finite non-zero x with |x| at most 2^20: the quadrant and the remainder modulo π/2. (DEDUCED, log 7.) -/
def fxSinCos (cosine : Bool) (x : Int) : Int :=
  let half := fxPi / 2
  let k := (2 * x + half) / (2 * half)
  let r := x - (k * fxPi) / 2
  match ((k + if cosine then 1 else 0) % 4).toNat with
  | 0 => fxSin r
  | 1 => fxCos r
  | 2 => -(fxSin r)
  | _ => -(fxCos r)

/-- VRCP of an operand after DAZ. -/
def sfuRcp (ftz : Bool) (a : FVal) : FRes := fmtF32.div .rn ftz (.fin false 1 0) a

/-- VRSQ: √(2^s / m) with a sticky bit. -/
def sfuRsq (ftz : Bool) (a : FVal) : FRes :=
  match a with
  | .nan s => fmtF32.nan (if s then fIVD else 0)
  | .inf n => if n then fmtF32.nan fIVD else fmtF32.zero false 0
  | .fin n m e =>
    if m = 0 then fmtF32.inf n fDZ
    else if n then fmtF32.nan fIVD
    else
      let s : Nat := if e % 2 = 0 then 200 else 201
      let y := 2 ^ s / m
      let r := isqrt y
      fmtF32.rnd .rn ftz false (sticky r (decide (r * r * m ≠ 2 ^ s))) ((-e - s) / 2 - 1)

/-- VSIN and VCOS (R235, R236). -/
def sfuTrig (cosine ftz : Bool) (a : FVal) : FRes :=
  match a with
  | .nan s => fmtF32.nan (if s then fIVD else 0)
  | .inf _ => fmtF32.nan fIVD
  | .fin n m e =>
    if m = 0 then (if cosine then (0x3F800000, 0) else fmtF32.zero n 0)
    else if (exactAdd false m e true 1 20).1 > 0 then fmtF32.nan fRNG
    else fxRound ftz (fxSinCos cosine (fxOf n m e))

/-- VEXP2 (R235, R236). -/
def sfuExp2 (ftz : Bool) (a : FVal) : FRes :=
  match a with
  | .nan s => fmtF32.nan (if s then fIVD else 0)
  | .inf n => if n then fmtF32.zero false 0 else fmtF32.inf false 0
  | .fin n m e =>
    if m = 0 then (0x3F800000, 0)
    else if !n && (exactAdd false m e true 128 0).1 ≥ 0 then fmtF32.inf false (fOVF ||| fINX)
    else if n && (exactAdd false m e true 150 0).1 > 0 then fmtF32.zero false (fUNF ||| fINX)
    else
      let x := fxOf n m e
      let k := x / 2 ^ fxP
      let fr := x - k * 2 ^ fxP
      if fr = 0 ∧ (0 ≤ e ∨ m % 2 ^ (-e).toNat = 0) then fmtF32.rnd .rn ftz false 1 k
      else fmtF32.rnd .rn ftz false (sticky (fxExp (fxMul fr fxLn2)).natAbs true) (k - fxP - 1)

/-- VLOG2 (R235, R236): the exponent plus ln of the significand over ln 2. -/
def sfuLog2 (ftz : Bool) (a : FVal) : FRes :=
  match a with
  | .nan s => fmtF32.nan (if s then fIVD else 0)
  | .inf n => if n then fmtF32.nan fIVD else fmtF32.inf false 0
  | .fin n m e =>
    if m = 0 then fmtF32.inf true fDZ
    else if n then fmtF32.nan fIVD
    else
      let l := Nat.log2 m
      if m = 2 ^ l then fmtF32.ofInt .rn (e + l)
      else
        -- the significand as 2^(l + b) times c, c in [3/4, 3/2)
        let b : Nat := if 2 * m < 3 * 2 ^ l then 0 else 1
        let k := e + l + b
        let num : Int := (m : Int) - 2 ^ (l + b)
        let den : Int := (m : Int) + 2 ^ (l + b)
        let t := num * 2 ^ fxP / den
        fxRound ftz (k * 2 ^ fxP + 2 * fxAtanh t * 2 ^ fxP / fxLn2)

/-- VTANH (R235, R236). -/
def sfuTanh (ftz : Bool) (a : FVal) : FRes :=
  match a with
  | .nan s => fmtF32.nan (if s then fIVD else 0)
  | .inf n => (if n then 0xBF800000 else 0x3F800000, 0)
  | .fin n m e =>
    if m = 0 then fmtF32.zero n 0
    else if (exactAdd false m e true 32 0).1 ≥ 0 then
      fmtF32.rnd .rn ftz n (2 ^ 80 - 1) (-80)
    else
      -- (1 - y) / (1 + y) with y = e^(-2|x|) = 2^(-j) e^(-r)
      let z := 2 * fxOf false m e
      let j := z / fxLn2
      let y := fxExp (-(z - j * fxLn2)) / 2 ^ j.toNat
      let v := (2 ^ fxP - y) * 2 ^ fxP / (2 ^ fxP + y)
      let v := if z.natAbs < 2 ^ 200 then z / 2 - fxMul (fxMul (z / 2) (z / 2)) (z / 2) / 3 else v
      fxRound ftz (if n then -v else v)

/-! ## Stochastic rounding (R134) -/

/-- The hash of a seed and an element position. -/
def stochHash (seed : BitVec 32) (e : Nat) : Nat :=
  let h := seed ^^^ (BitVec.ofNat 32 e * 0x01000193)
  let h := h ^^^ (h >>> 16)
  let h := h * 0x045D9F3B
  let h := h ^^^ (h >>> 16)
  h.toNat % 65536

/-- Rounds an exact non-zero value stochastically: code, flags, infinity by overflow. -/
def Fmt.stoch (f : Fmt) (ftz neg : Bool) (m : Nat) (e : Int) (seed : BitVec 32) (el : Nat) : Nat × BitVec 8 × Bool :=
  if m = 0 then (f.signBit neg, 0, false) else
  let big := match f.dec f.maxCode with
    | .fin _ mm ee => decide ((exactAdd false m e true mm ee).1 > 0)
    | _ => false
  if big then f.round .rn ftz neg m e else
  let lead : Int := e + Nat.log2 m
  let q := max lead f.emin - f.mb
  if q ≤ e then f.round .rn ftz neg m e
  else
    let sh := (q - e).toNat
    let lo := m / 2 ^ sh
    let r := m % 2 ^ sh
    if r = 0 then f.round .rn ftz neg m e else
    let fr := 65536 * r / 2 ^ sh
    let y := if 65536 ≤ fr + stochHash seed el then lo + 1 else lo
    let code := f.enc y q
    let small := decide (code < 2 ^ f.mb)
    if ftz && small && decide (code ≠ 0) then (f.signBit neg, fUNF ||| fINX, false)
    else (f.signBit neg + code, fINX ||| (if small then fUNF else 0), false)

/-! ## Narrowing (R133, R239) -/

/-- Converts a value into a format with the substitutions of R133: `sat` saturation, `seed` for stochastic rounding. (DEDUCED, log 12.) -/
def Fmt.narrow (f : Fmt) (mode : Mode) (ftz sat : Bool) (seed : Option (BitVec 32 × Nat)) (x : FVal) : FRes :=
  match x with
  | .nan s => match f.kind with
    | .e2m1 => (0, fIVD)
    | _ => f.nan (if s then fIVD else 0)
  | .inf n => match f.kind with
    | .ieee => f.inf n 0
    | .e4m3 => if sat then (f.signBit n + f.maxCode, fIVD) else (f.nanCode, fIVD)
    | .e2m1 => (f.signBit n + f.maxCode, fOVF ||| fINX)
  | .fin n m e =>
    if m = 0 then f.zero n 0 else
    let (c, fl, isInf) := match seed with
      | some (sd, el) => f.stoch ftz n m e sd el
      | none => f.round mode ftz n m e
    if isInf then match f.kind with
      | .ieee => if sat then (f.signBit n + f.maxCode, fl) else (c, fl)
      | .e4m3 => if sat then (f.signBit n + f.maxCode, fl) else (f.nanCode, fl)
      | .e2m1 => (f.signBit n + f.maxCode, fl)
    else (c, fl)

/-- The E8M0 code of R135 for amax, with SCL. -/
def scaleCode (amax : FVal) (emaxD : Int) : Nat × BitVec 8 :=
  match amax with
  | .nan _ => (255, 0)
  | .inf _ => (255, 0)
  | .fin _ m e =>
    if m = 0 then (127, 0) else
    let x := e + Nat.log2 m - emaxD
    if x < -127 then (0, fSCL) else ((x + 127).toNat, 0)

end Sys2Proof.Machine
end

