-- ==== Sys2Proof/Machine/Barrier.lean ====
section
/-! DEFINITION. Numbered barriers: the barrier word, its updates in R42 to R47, wakes of R372 and the flag merge of R147
(spec/01_machine_state.md). -/
namespace Sys2Proof.Machine

/-- The fields of a barrier word (R42). -/
structure BarW where
  pend : Nat
  btarg : Nat
  arrived : Nat
  expect : Nat
  scope : Nat
  err : Bool
  armed : Bool
  errcode : Nat
  phase : Nat
  deriving DecidableEq, Repr

/-- Reads a barrier word from its 16 bytes. -/
def barOf (bs : List Byte) : BarW :=
  let f := fieldN bs 10 1
  ⟨fieldN bs 0 4, fieldN bs 4 4, fieldN bs 8 1, fieldN bs 9 1, f % 4, decide (f / 4 % 2 = 1), decide (f / 8 % 2 = 1),
    fieldN bs 11 1, fieldN bs 12 4⟩

/-- The 16 bytes of a barrier word; bits 87:84 are 0. -/
def BarW.bytes (w : BarW) : List Byte :=
  natBytes 4 w.pend ++ natBytes 4 w.btarg ++ natBytes 1 w.arrived ++ natBytes 1 w.expect ++
    natBytes 1 (w.scope + (if w.err then 4 else 0) + (if w.armed then 8 else 0)) ++ natBytes 1 w.errcode ++ natBytes 4 w.phase

def Team.bar (t : Team) (n : BitVec 4) : BarW := barOf (t.spGet (16 * n.toNat) 16)
def Team.setBar (t : Team) (n : BitVec 4) (w : BarW) : Team := t.spSet (16 * n.toNat) w.bytes

/-- Whether the phase completes (R44). -/
def BarW.completes (w : BarW) : Bool :=
  w.armed && !w.err && (w.expect != 0 || w.btarg != 0) && decide (w.expect ≤ w.arrived) && decide (w.btarg ≤ w.pend)

/-- Normal completion (R44). -/
def BarW.finish (w : BarW) : BarW :=
  { w with arrived := w.arrived - w.expect, pend := w.pend - w.btarg, phase := (w.phase + 1) % 4294967296 }

/-- One arrival: discarded in an error phase (R45), held at 255 (R44). -/
def BarW.arrive (w : BarW) : BarW := if w.err then w else { w with arrived := min 255 (w.arrived + 1) }

/-- A byte addition: discarded in an error phase (R45), saturating (R42). -/
def BarW.addBytes (w : BarW) (n : Nat) : BarW := if w.err then w else { w with pend := min 0xFFFFFFFF (w.pend + n) }

/-- BARINIT (R43, R175). -/
def BarW.init (w : BarW) (expect scope btarg : Nat) : BarW :=
  ⟨0, btarg, 0, expect, scope, false, true, 0, w.phase⟩

/-- Error-phase delivery (R45). -/
def BarW.errPhase (w : BarW) (cause : BitVec 8) (va : W64) : BarW :=
  { w with err := true, errcode := cause.toNat, pend := va.toNat % 4294967296, btarg := va.toNat / 4294967296,
           arrived := 0, phase := (w.phase + 1) % 4294967296 }

/-- The wake key of a sequencer among the groups: 10240 + t. -/
def seqKey (t : Nat) : Nat := 10240 + t
/-- The core of a waiter. -/
def waiterCore (k : Nat) : Nat := if k < 10240 then coreOfG k else coreOfT (k - 10240)

/-- Wakes every waiter of a word: groups of the team and the sequencer parked on it, ready in the next cycle, and remote
waiters after the message of R372. -/
def State.wakeBar (s : State) (t : Nat) (n : BitVec 4) : State :=
  match s.team? t with
  | none => s
  | some m =>
    let own := m.members.filter fun g =>
      match s.grp? g with | some r => r.parked == some (.barrier n) | none => false
    let s := own.foldl (fun s g => s.sched 1 (.groupWake g (.barrier n))) s
    let s := if m.seqSt == .barrierWait && !m.fwdArr then s.sched 1 (.groupWake (seqKey t) (.barrier n)) else s
    let (now, later) := m.remote.partition (·.1 == n.toNat)
    let s := now.foldl (fun s p =>
      s.sched (1 + wakeLatency (coreOfT t) (waiterCore p.2)) (.groupWake p.2 (.barrier n))) s
    s.modTeam t fun m => { m with remote := later }

/-- ORs flags into the live FLAGS of every group of a team (R147, R30). -/
def State.orFlags (s : State) (t : Nat) (f : BitVec 8) : State :=
  match s.team? t with
  | none => s
  | some m => m.members.foldl (fun s g => s.modGrp g (·.setFlags s.ccount f)) s

/-- Merges, or in an error phase discards, the engine flags that wait for a phase of nb n (R147). -/
def State.mergeFlags (s : State) (t : Nat) (n : BitVec 4) (keep : Bool) : State :=
  match s.team? t with
  | none => s
  | some m =>
    let s := if keep then (m.flagWait.filter (·.n == n)).foldl (fun s f => s.orFlags f.team f.flags) s else s
    s.modTeam t fun m => { m with flagWait := m.flagWait.filter (·.n != n) }

/-- One indivisible update of a word with its completion evaluation (R44, R46). -/
def State.barUpdate (s : State) (t : Nat) (n : BitVec 4) (f : BarW → BarW) : State :=
  match s.team? t with
  | none => s
  | some m =>
    let w := f (m.bar n)
    if w.completes then ((s.modTeam t fun m => m.setBar n w.finish).mergeFlags t n true).wakeBar t n
    else s.modTeam t fun m => m.setBar n w

/-- An error phase at a counting word (R45); at a word that is in one already it is discarded (R269). -/
def State.barError (s : State) (t : Nat) (n : BitVec 4) (cause : BitVec 8) (va : W64) : State :=
  match s.team? t with
  | none => s
  | some m =>
    if (m.bar n).err then s else ((s.modTeam t fun x => x.setBar n ((m.bar n).errPhase cause va)).mergeFlags t n false).wakeBar t n

/-- Whether the word of a team is a forwarding copy: armed with SCOPE 1 away from the home core (R47). -/
def Team.forwards (m : Team) (t : Nat) (n : BitVec 4) : Bool :=
  let w := m.bar n
  w.armed && w.scope == 1 && m.home != t

/-- CLID of a team (R54). -/
def Team.clid (t : Team) : Nat := (t.clpos.extractLsb' 16 32).toNat

/-- Sends a barrier message of a team to the home core of its cluster (R47). Its travel is a memory-path time in the core mesh (R490). -/
def State.barSend (s : State) (m : Team) (msg : BarMsg) : State :=
  let (id, s) := s.fresh
  { s with barMsgs := kset s.barMsgs id (m.ctx, m.clid, msg) }.schedPath .remoteBarrierUpdate [id]

/-- The word nb n of the home team of a cluster; none once that team has ended. -/
def State.homeWord (s : State) (ctx clid home : Nat) (n : BitVec 4) : Option BarW :=
  ((s.team? home).filter fun h => h.ctx == ctx && h.clid == clid).map (·.bar n)

/-- Arrival records of a group, and of a sequencer (R176, R248). -/
def Group.setArr (r : Group) (n : BitVec 4) (p : Nat) : Group := { r with arr := kset r.arr n.toNat (BitVec.ofNat 32 p) }

/-- Applies the arrival of group g at nb n of its team: counted with its record, or forwarded. `none` for an unarmed word. -/
def State.groupArrive (s : State) (g t : Nat) (n : BitVec 4) : Option State :=
  match s.team? t with
  | none => none
  | some m =>
    let w := m.bar n
    if !w.armed then none
    else if m.forwards t n then
      some ((s.modGrp g fun r => { r with fwdArr := n.toNat :: r.fwdArr }).barSend m (.groupArrive m.home n.toNat g))
    else some ((s.modGrp g fun r => r.setArr n w.phase).barUpdate t n (·.arrive))

/-- Applies the arrival of a sequencer; a forwarded one keeps it at its TBARA until the home core has counted it (R47, R247). -/
def State.seqArrive (s : State) (t : Nat) (n : BitVec 4) : Option State :=
  match s.team? t with
  | none => none
  | some m =>
    let w := m.bar n
    if !w.armed then none
    else if m.forwards t n then
      some ((s.modTeam t fun m => { m with fwdArr := true, seqSt := .barrierWait }).barSend m (.seqArrive m.home n.toNat t))
    else some ((s.modTeam t fun m => { m with arr := kset m.arr n.toNat (BitVec.ofNat 32 w.phase) }).barUpdate t n (·.arrive))

/-- The record of an engine arrival discarded at an unarmed word (R47, R269): SOURCE 3 or 4, cause ILLEGAL. -/
def State.engDiscard (s : State) (t : Nat) (n : BitVec 4) (src op8 : Nat) : State :=
  match s.team? t with
  | none => s
  | some m =>
    s.faultRec (dieOf m.core) ⟨0, s.ptime, causew cILLEGAL src false false false, m.core, BitVec.ofNat 16 (m.sq * 32),
      s.asnOf m.ctx, BitVec.ofNat 64 (n.toNat + 16 * (op8 % 8))⟩

/-- The completion arrival of an engine operation, with the flags its phase will merge (R147, R262, R269). -/
def State.engArrive (s : State) (t : Nat) (n : BitVec 4) (flags : BitVec 8) (src op8 : Nat) : State :=
  match s.team? t with
  | none => s
  | some m =>
    if !(m.bar n).armed then s.engDiscard t n src op8
    else if m.forwards t n then s.barSend m (.engArrive m.home n.toNat t flags (src * 256 + op8))
    else (s.modTeam t fun m => { m with flagWait := if (m.bar n).err then m.flagWait else m.flagWait ++ [⟨n, t, flags⟩] }).barUpdate
      t n (·.arrive)

/-- An error phase at the barrier of an engine operation (R45, R269). -/
def State.engError (s : State) (t : Nat) (n : BitVec 4) (cause : BitVec 8) (va : W64) (src op8 : Nat) : State :=
  match s.team? t with
  | none => s
  | some m =>
    if !(m.bar n).armed then s.engDiscard t n src op8
    else if m.forwards t n then s.barSend m (.errPhase m.home n.toNat t cause va (src * 256 + op8))
    else s.barError t n cause va

/-- How a byte addition goes (R286, R45, R47): applied, refused, or sent to the home core. -/
inductive AddRes where
  | applied (s : State)
  | refused
  | sent (s : State)

/-- Byte additions to nb n of a team: an unarmed word and one in an error phase refuse them. -/
def State.barBytes (s : State) (t : Nat) (n : BitVec 4) (count pkt : Nat) : AddRes :=
  match s.team? t with
  | none => .refused
  | some m =>
    if !(m.bar n).armed then .refused
    else if m.forwards t n then .sent (s.barSend m (.bytes m.home n.toNat count pkt t))
    else if (m.bar n).err then .refused
    else .applied (s.barUpdate t n (·.addBytes count))

/-- The counting of a bulk packet has ended with a code; its packet goes on (R286). -/
def State.counted (s : State) (pkt code : Nat) : State :=
  if pkt = 0 then s
  else { s with pkts := kmod s.pkts (pkt - 1) fun p => { p with code := some code } }.sched 0 .bulkWrite [pkt - 1]

/-- The word a wait of a team looks at: its own, or the home's behind a forwarding copy (R47); none once the home team has ended. (DEDUCED, log 33.) -/
def State.waitWord (s : State) (t : Nat) (m : Team) (n : BitVec 4) : Option BarW :=
  if m.forwards t n then s.homeWord m.ctx m.clid m.home n else some (m.bar n)

/-- Whether a wait on a recorded phase is over: the phase has completed, or the home team of its cluster has ended (log 33). -/
def waitOver (w : Option BarW) (target : BitVec 32) : Bool :=
  match w with
  | some x => x.err || x.phase != target.toNat
  | none => true

/-- The scratchpad bytes that an early load does not take from the running block of group `who`, after a store of it or of another unit
(R162): a first store of the block keeps the old byte, a store of another unit replaces it. Barrier words are read as they stand (R46). -/
def Group.hideSp (r : Group) (mine : Bool) (old : SMap 8) (l : List (Nat × Byte)) : Group :=
  { r with hidSp := l.foldl (fun h p =>
      if p.1 < 256 then h
      else if mine then (if (kget h p.1).isSome then h else kset h p.1 (sget old p.1))
      else if (kget h p.1).isSome then kset h p.1 p.2 else h) r.hidSp }

/-- One plain store to scratchpad bytes, given as offsets and bytes: the poison of each aligned 8 bytes that it writes whole is
cleared (R342), and over an armed barrier word it is one update with its completion evaluation (R46). `who`: the group whose lane stream
stores. -/
def State.spPut (s : State) (t : Nat) (l : List (Nat × Byte)) (who : Option Nat := none) : State :=
  let full := fun (p : Nat) => (List.range 8).all fun i => l.any (·.1 == p + i)
  let old := ((s.team? t).map (·.sp)).getD []
  let s0 := (((s.team? t).map (·.members)).getD []).foldl (fun s g => match s.grp? g with
    | some r => if who = some g ∨ !r.hidSp.isEmpty then s.setGrp g (r.hideSp (who == some g) old l) else s
    | none => s) s
  let s1 := s0.modTeam t fun m => { m with
    sp := l.foldl (fun sp p => sset sp p.1 p.2) m.sp
    poison := m.poison.filter fun p => !full p }
  let words := (List.range 16).filter fun k => l.any fun p => p.1 / 16 == k
  words.foldl (fun s k =>
    match s.team? t with
    | some m => if (m.bar (BitVec.ofNat 4 k)).armed then s.barUpdate t (BitVec.ofNat 4 k) id else s
    | none => s) s1

/-- A plain store of consecutive bytes. -/
def State.spStore (s : State) (t : Nat) (off : Nat) (bs : List Byte) : State := s.spPut t (bs.mapIdx fun i b => (off + i, b))

/-- Whether an earlier forwarded arrival of the same unit at the same word is still on its way: messages of one unit to one word keep
their order. -/
def State.arriveBehind (s : State) (m : Nat) (msg : BarMsg) : Bool :=
  s.barMsgs.any fun p => decide (p.1 < m) && (match msg, p.2.2.2 with
    | .groupWait h n g _, .groupArrive h2 n2 g2 => h == h2 && n == n2 && g == g2
    | .seqWait h n t _, .seqArrive h2 n2 t2 => h == h2 && n == n2 && t == t2
    | _, _ => false)

/-- A trap of a team sequencer (R247): TCAUSE, TTRAPVA and TTRAPINFO describe it, a record is written where its cause has one, the
sequencer stops and its context escalates; SOURCE 2 (R349). (DEDUCED, log 65.) -/
def State.seqStop (s : State) (t : Nat) (b : Bad) : State :=
  match s.team? t with
  | none => s
  | some m =>
    let s1 := s.setTeam t { m with
      seqSt := .trapped, tcause := b.cause.setWidth 64 ||| 0x200, tva := b.va, tinfo := b.info, barTarget := none, fwdArr := false }
    let s2 := if recorded b.cause then s1.faultRec (dieOf m.core)
        ⟨b.va, s.ptime, causew b.cause 2 b.write b.fetch b.badpte, m.core, BitVec.ofNat 16 (m.sq * 32), s.asnOf m.ctx, 0⟩
      else s1
    s2.preemptCtx m.ctx 1 m.core (128 + m.sq * 32) b.cause.toNat

/-- From the cycle in which a team's scratchpad has been saved, byte additions to its words are refused (R394). -/
def State.savedTeam (s : State) (m : Team) : Bool := (((s.ctx? m.ctx).bind (·.pre)).map (·.done)).getD false

/-- REMOTE_BARRIER_UPDATE (R47, step 5 of R46): a forwarded update or wait is applied at the home word, or refused. -/
def execRemoteBarrierUpdate (s : State) : Out :=
  let m := s.a0
  .next (match kget s.barMsgs m with
  | none => s
  | some (ctx, clid, msg) =>
    if s.arriveBehind m msg then s.sched 1 .remoteBarrierUpdate [m] else
    let refuse := s.schedPath .barrierRefusal [m]
    let done := { s with barMsgs := kdel s.barMsgs m }
    let word := fun home n => s.homeWord ctx clid home (BitVec.ofNat 4 n)
    let armed := fun home n => ((word home n).map (·.armed)).getD false
    let phase := fun home n => ((word home n).map (·.phase)).getD 0
    match msg with
    | .groupArrive home n g =>
      if armed home n then
        (done.modGrp g fun r => { r.setArr (BitVec.ofNat 4 n) (phase home n) with fwdArr := r.fwdArr.erase n }).barUpdate
          home (BitVec.ofNat 4 n) (·.arrive)
      else refuse
    | .groupWait home n g target =>
      let rec? := target.or ((done.grp? g).bind fun r => kget r.arr n)
      if armed home n || ((word home n).isNone && rec?.isSome) then
        let tg := rec?.getD (BitVec.ofNat 32 (phase home n))
        let s1 := done.modGrp g fun r => { r with barTarget := some tg }
        if waitOver (word home n) tg then
          s1.sched (1 + wakeLatency (coreOfT home) (coreOfG g)) (.groupWake g (.barrier (BitVec.ofNat 4 n)))
        else s1.modTeam home fun t => { t with remote := t.remote ++ [(n, g)] }
      else refuse
    | .seqArrive home n t =>
      if armed home n then
        (done.modTeam t fun x => { x with
          arr := kset x.arr n (BitVec.ofNat 32 (phase home n)), fwdArr := false, tpc := if x.fwdArr then x.tpc + 8 else x.tpc
          seqSt := if x.fwdArr && x.seqSt == .barrierWait then .runs else x.seqSt }).barUpdate
          home (BitVec.ofNat 4 n) (·.arrive)
      else refuse
    | .seqWait home n t target =>
      let rec? := target.or ((done.team? t).bind fun r => kget r.arr n)
      if armed home n || ((word home n).isNone && rec?.isSome) then
        let tg := rec?.getD (BitVec.ofNat 32 (phase home n))
        let s1 := done.modTeam t fun r => { r with barTarget := some tg }
        if waitOver (word home n) tg then
          s1.sched (1 + wakeLatency (coreOfT home) (coreOfT t)) (.groupWake (seqKey t) (.barrier (BitVec.ofNat 4 n)))
        else s1.modTeam home fun x => { x with remote := x.remote ++ [(n, seqKey t)] }
      else refuse
    | .engArrive home n t flags _ =>
      if armed home n then
        (done.modTeam home fun x => { x with
          flagWait := if (x.bar (BitVec.ofNat 4 n)).err then x.flagWait else x.flagWait ++ [⟨BitVec.ofNat 4 n, t, flags⟩] }).barUpdate
          home (BitVec.ofNat 4 n) (·.arrive)
      else refuse
    | .bytes home n count pkt _ =>
      if ((s.team? home).map s.savedTeam).getD false || !armed home n then refuse
      else if ((word home n).map (·.err)).getD false then done.counted pkt 4
      else (done.barUpdate home (BitVec.ofNat 4 n) (·.addBytes count)).counted pkt 0
    | .errPhase home n _ cause va _ =>
      if armed home n then done.barError home (BitVec.ofNat 4 n) cause va else refuse)

/-- BARRIER_REFUSAL (R47): what a refused update or wait does at the forwarding core. -/
def execBarrierRefusal (s : State) : Out :=
  let m := s.a0
  .next (match kget s.barMsgs m with
  | none => s
  | some (_, _, msg) =>
    let done := { s with barMsgs := kdel s.barMsgs m }
    match msg with
    | .groupArrive _ n g =>
      let s1 := done.modGrp g fun r => { r with fwdArr := r.fwdArr.erase n }
      s1.deferTrap g (illegal 0x0003) (((done.grp? g).bind fun r => r.cq.head?.map (·.pc)).getD 0)
    | .groupWait _ _ g _ => (done.modGrp g (·.unpark)).raise g false (illegal 0x0003)
    | .seqArrive _ _ t | .seqWait _ _ t _ => done.seqStop t (illegal 0x0003)
    | .engArrive _ n t _ so | .errPhase _ n t _ _ so =>
      if s.fqWaits (dieOf (coreOfT t)) then s.sched 1 .barrierRefusal [m] else done.engDiscard t (BitVec.ofNat 4 n) (so / 256) (so % 256)
    | .bytes _ _ _ pkt _ => done.counted pkt 4)

end Sys2Proof.Machine
end

