-- ==== Sys2Proof/Machine/Regs.lean ====
section
/-! DEFINITION. The device register blocks (spec/14 R402, R405, R415; spec/11 R350; spec/15 R435, R448, R449; spec/16 R459;
spec/19 R485): what a read of a register gives, and which event a write is. -/
namespace Sys2Proof.Machine

/-- A bit as a 64-bit word at a position. -/
def bitAt (b : Bool) (n : Nat) : W64 := if b then (1 : W64) <<< n else 0

/-- A number as a 64-bit word. -/
def w64 (n : Nat) : W64 := BitVec.ofNat 64 n

/-- BOOTSTAT (R459). -/
def State.bootstat (s : State) : W64 :=
  s.phase.setWidth 64 ||| bitAt s.reduced 4 ||| bitAt s.full 5 ||| (s.bootErr.setWidth 64 <<< 8) ||| (s.errDie.setWidth 64 <<< 16)

/-- GSTAT (R435). -/
def Gate.stat (g : Gate) : W64 :=
  bitAt g.isFull 0 ||| bitAt (g.on && g.mode == .strict && g.isFull && !g.waiting.isEmpty) 1 ||| bitAt g.lossBit 2 |||
    bitAt g.diverge 3 ||| bitAt (g.on && g.mode == .replay && g.gtail == g.grlim) 4

/-- DBGCTL (R448). -/
def State.dbgctl (s : State) : W64 :=
  bitAt s.attach 0 ||| bitAt s.frozen 5 ||| bitAt s.dumped 6 ||| (s.fcause.setWidth 64 <<< 16)

/-- PSTAT of a port (R415). -/
def Port.stat (p : Port) : W64 :=
  bitAt p.up 0 ||| bitAt p.pl0 1 ||| bitAt p.pl1 2 ||| bitAt p.unreach 3 ||| (p.lastd.setWidth 64 <<< 8) |||
    (p.crcerr.setWidth 64 <<< 16)

/-- FQSTAT (R350). -/
def Die.fqstat (d : Die) : W64 :=
  bitAt (decide (2 ^ (d.fqctl.extractLsb' 0 5).toNat = (d.fqtail - d.fqhead).toNat)) 0 ||| bitAt (!d.fqheld.isEmpty) 1 |||
    bitAt d.fqwerr 2

/-- The command queue and its register of an offset (R402, R405). -/
def queueReg (q : HQueue) (o : Nat) : W64 :=
  match o with
  | 0x00 => q.qbase
  | 0x08 => q.qctl
  | 0x10 => q.qtail.setWidth 64
  | 0x18 => q.qhead.setWidth 64
  | 0x20 => q.cqbase
  | 0x28 => q.cqtail.setWidth 64
  | 0x30 => q.cqhead.setWidth 64
  | _ => 0

/-- A register of a gate (R435). -/
def gateReg (g : Gate) (o : Nat) : W64 :=
  match o with
  | 0x00 => g.gbase
  | 0x08 => g.gctl
  | 0x10 => g.ghead.setWidth 64
  | 0x18 => g.gtail.setWidth 64
  | 0x20 => g.stat
  | 0x28 => g.outsig.setWidth 64 ||| (g.outcnt.setWidth 64 <<< 32)
  | 0x30 => g.grlim.setWidth 64
  | _ => 0

/-- A time or debug register (R448). -/
def State.debugReg (s : State) (o : Nat) : W64 :=
  match o with
  | 0x00 => w64 s.ptime
  | 0x08 => w64 s.ccount
  | 0x10 => s.step.setWidth 64 ||| (s.stepReq.setWidth 64 <<< 4)
  | 0x18 => s.strcnt.setWidth 64
  | 0x20 => w64 s.stopat
  | 0x28 => s.dbgctl
  | 0x30 => s.peatbase
  | 0x38 => s.peatsize
  | 0x40 => s.freport.extractLsb' 0 64
  | 0x48 => s.freport.extractLsb' 64 64
  | 0x50 => s.freport.extractLsb' 128 64
  | 0x58 => s.freport.extractLsb' 192 64
  | _ =>
    if 0x100 ≤ o ∧ o < 0x180 then
      let b := s.ibps.getD ((o - 0x100) / 16) ⟨0, 0⟩
      if o % 16 = 0 then b.addr else if o % 16 = 8 then b.ctl else 0
    else 0

/-- A trace register of a die (R449). -/
def traceReg (d : Die) (o : Nat) : W64 :=
  match o with
  | 0x00 => d.trbase
  | 0x08 => d.trctl
  | 0x10 => d.trhead.setWidth 64
  | 0x18 => d.trtail.setWidth 64
  | 0x20 => d.trsel.getD 0 0
  | 0x28 => d.trsel.getD 1 0
  | 0x30 => d.trsel.getD 2 0
  | _ => 0

/-- A fault-queue register of a die (R350). -/
def fqReg (d : Die) (o : Nat) : W64 :=
  match o with
  | 0x000 => d.fqbase
  | 0x008 => d.fqctl
  | 0x010 => d.fqhead.setWidth 64
  | 0x018 => d.fqtail.setWidth 64
  | 0x020 => d.fqstat
  | _ => 0

/-- The 8 bytes at an 8-byte aligned BAR0 offset (R402). -/
def State.reg8 (s : State) (o : Nat) : W64 :=
  if o < 0x1000 then
    match o with
    | 0x008 => s.bootstat
    | 0x010 => s.mboxin
    | 0x018 => s.mboxout
    | _ => 0
  else if o < 0x1400 then queueReg (s.queues.getD ((o - 0x1000) / 0x40) HQueue.reset) (o % 0x40)
  else if 0x100000 ≤ o ∧ o < 0x140000 then fqReg (s.die ((o - 0x100000) / 0x10000)) (o % 0x10000)
  else if 0x200000 ≤ o ∧ o < 0x201200 then gateReg (s.gates.getD ((o - 0x200000) / 0x100) Gate.reset) (o % 0x100)
  else if 0x204000 ≤ o ∧ o < 0x205000 then s.debugReg (o - 0x204000)
  else if 0x205000 ≤ o ∧ o < 0x205400 then traceReg (s.die ((o - 0x205000) / 0x100)) (o % 0x100)
  else if 0x300000 ≤ o ∧ o < 0x301000 then
    (if o % 0x100 = 0 then (s.ports.getD ((o - 0x300000) / 0x100) Port.reset).stat else 0)
  else 0

/-- A read of a register block: 4 or 8 bytes, aligned; any other size reads as zero (R402). -/
def State.regRead (s : State) (o n : Nat) : List Byte :=
  if n = 8 ∧ o % 8 = 0 then wBytes 8 (s.reg8 o)
  else if n = 4 ∧ o % 4 = 0 then ((wBytes 8 (s.reg8 (o / 8 * 8))).drop (o % 8)).take 4
  else List.replicate n 0

/-- Whether a register access is served outside the domain: the gate registers, and those of R448 other than STEPR (R433). -/
def outsideDomain (o : Nat) : Bool :=
  decide (0x200000 ≤ o ∧ o < 0x201200) || (decide (0x204000 ≤ o ∧ o < 0x205000) && decide (o / 8 * 8 ≠ 0x204010))

/-- Bytes written by data and byte enables over an old value. -/
def mergeBen (old data : W64) (ben : BitVec 8) : W64 :=
  let m : W64 := (List.range 8).foldl (fun a i => if ben.getLsbD i then a ||| ((0xFF : W64) <<< (8 * i)) else a) 0
  (old &&& ~~~m) ||| (data &&& m)

/-- A write is the row of its register (R405, R406, R351, R436, R426, R439, R482, R459, R485, R440 to R442), or a plain
register write. `o` is the 8-byte aligned offset, the data placed in its lanes. -/
def regEvent (s : State) (o : Nat) (data : W64) (ben : BitVec 8) : Instr :=
  let v := mergeBen (s.reg8 o) data ben
  let v32 := v.setWidth 32
  let lo := ben.extractLsb' 0 4 != 0
  if o = 0 then .wake data ben
  else if o = 0x010 ∧ ben ≠ 0 then .mboxinWrite v
  else if o = 0x020 ∧ data.getLsbD 0 ∧ ben.getLsbD 0 then .rstreqRst
  else if 0x1000 ≤ o ∧ o < 0x1400 ∧ o % 0x40 = 0x10 ∧ lo then .qtailDoorbell ((o - 0x1000) / 0x40) v32
  else if 0x1000 ≤ o ∧ o < 0x1400 ∧ o % 0x40 = 0x30 ∧ lo then .cqheadWrite ((o - 0x1000) / 0x40) v32
  else if 0x100000 ≤ o ∧ o < 0x140000 ∧ o % 0x10000 = 0x10 ∧ lo then .fqheadWrite ((o - 0x100000) / 0x10000) v32
  else if 0x200000 ≤ o ∧ o < 0x201200 ∧ o % 0x100 = 0x10 ∧ lo then .gheadWrite ((o - 0x200000) / 0x100) v32
  else if o = 0x204010 ∧ ben.getLsbD 0 then .stepreqWrite (data.extractLsb' 4 2)
  else if o = 0x204020 ∧ ben ≠ 0 then .stopatdWrite v
  else if 0x205000 ≤ o ∧ o < 0x205400 ∧ o % 0x100 = 0x10 ∧ lo then .trrheadWrite ((o - 0x205000) / 0x100) v32
  else .registerWrite o data ben

/-- The bytes of a write at a BAR0 offset as a 64-bit register's data and byte enables: 4 or 8 bytes, aligned; any other size is
discarded (R402). -/
def regLanes (o : Nat) (data : List (Option Byte)) : Option (Nat × W64 × BitVec 8) :=
  let n := data.length
  let v := (List.range n).foldl (fun (a : W64) i =>
    a ||| ((((data.getD i none).getD 0).setWidth 64) <<< (8 * (o % 8 + i)))) 0
  let ben := (List.range n).foldl (fun (a : BitVec 8) i =>
    if (data.getD i none).isSome then a ||| ((1 : BitVec 8) <<< (o % 8 + i)) else a) 0
  if (n = 8 ∧ o % 8 = 0) ∨ (n = 4 ∧ o % 4 = 0) then some (o / 8 * 8, v, ben) else none

/-- The events of a write of bytes at a BAR0 offset. -/
def State.regWrite (s : State) (o : Nat) (data : List (Option Byte)) : List Instr :=
  match regLanes o data with
  | some (a, v, ben) => [regEvent s a v ben]
  | none => []

/-- The port whose CRCERR count a read of n bytes at a BAR0 offset clears (R415). -/
def crcerrOf (o n : Nat) : Option Nat :=
  if 0x300000 ≤ o ∧ o < 0x301000 ∧ (o % 0x100 = 0 ∨ o % 0x100 = 4) ∧ ((n = 8 ∧ o % 8 = 0) ∨ n = 4) then some ((o - 0x300000) / 0x100)
  else none
def State.regReadSide (s : State) (o n : Nat) : State :=
  match crcerrOf o n with
  | some p => s.sched 0 .crcerrRead [p]
  | none => s

end Sys2Proof.Machine
end

