-- ==== Sys2Proof/Machine/Peer.lean ====
section
/-! DEFINITION. Requests to peer modules (spec/14 R411 to R417): ports, sequence numbers, allowance, packets. -/
namespace Sys2Proof.Machine

/-- The module of a peer physical address, and its module-space address (R328). -/
def peerModule (pa : Nat) : Nat := pa / 4398046511104 % 256
def peerAddr (pa : Nat) : Nat := pa % 4398046511104

/-- SAL of a destination as SAL and SBSAL read it (R185, R414): all ones for the own module, 0 outside the pod or unreachable. -/
def State.salRead (s : State) (die dst : Nat) : Nat :=
  if dst = s.modNum.toNat then 0xFFFFF
  else if (s.salcfg.extractLsb' 8 9).toNat ≤ dst then 0
  else if (s.die die).salOff.contains dst then 0
  else (sget (s.die die).sal dst).toNat

/-- Takes allowance units (R416). -/
def State.salTake (s : State) (die dst n : Nat) : State :=
  s.modDie die fun d => { d with sal := sset d.sal dst (sget d.sal dst - BitVec.ofNat 20 n) }

/-- The port by which a die sends to a module (R411). -/
def portFor (die dst : Nat) : Nat := 4 * die + (dst + die) % 4

/-- Whether a packet kind is critical (R413). -/
def isCritical (kind : Nat) : Bool := kind == 3 || kind == 4 || kind == 5 || kind == 8

/-- The allowance units owed to a module's dies, 8 bits for each die (R410), and the list without them. -/
def takeOwed (dst : Nat) (l : List Owed) : BitVec 32 × List Owed :=
  ((l.filter (·.src == dst)).foldl (fun (a : BitVec 32) o => a ||| (BitVec.ofNat 32 (o.units % 256) <<< (8 * (o.die % 4)))) 0,
    l.filter (·.src != dst))

/-- The 64-byte contents of a packet's flits (R410). -/
def flitContents (p : Packet) : List (List Byte) :=
  let bs := packetBytes p
  (List.range ((bs.length + 63) / 64)).map fun i => let c := (bs.drop (64 * i)).take 64; c ++ List.replicate (64 - c.length) 0

/-- The wrapper of a flit without its CRC: LSEQ, CSEQ, plane, zeros (R410). -/
def flitWrap (f : Flit) : List Byte :=
  wBytes 4 (f.lseq.setWidth 32 ||| (f.cseq.setWidth 32 <<< 12) ||| (if f.plane1 then (1 : W32) <<< 28 else 0))

/-- The CRC-32 over content and wrapper (R410). -/
def flitCrc (f : Flit) : W32 := Config.crc32 0 (f.content ++ flitWrap f)

/-- Whether a flit's CRC is good. -/
def flitGood (f : Flit) : Bool := f.crc == flitCrc f

/-- A plane with nothing sent or received. -/
def Plane.fresh : Plane := ⟨0, 0, [], [], false⟩

/-- Flits sent on a plane take its next LSEQs and are kept for replay (R412). -/
def Plane.put (pl : Plane) (plane1 : Bool) (cseq : BitVec 16) : List (List Byte) → Plane
  | [] => pl
  | c :: r =>
    let f : Flit := ⟨pl.outSeq, cseq, plane1, c, 0⟩
    ({ pl with outSeq := pl.outSeq + 1, buf := pl.buf ++ [{ f with crc := flitCrc f }] } : Plane).put plane1 cseq r

/-- Whether a packet travels on a plane: a critical one on both, another on plane ESEQ mod 2 (R411, R413). -/
def onPlane (p : Packet) (plane : Nat) : Bool := p.crit || p.eseq.toNat % 2 == plane

/-- Whether the replay buffers of a packet's planes hold its flits, 1,024 in all (R412). -/
def Port.room (x : Port) (p : Packet) : Bool :=
  (List.range 2).all fun i => !onPlane p i || decide ((x.planes.getD i Plane.fresh).buf.length + (flitContents p).length ≤ 1024)

/-- The port's planes after a packet: a critical one on both with one CSEQ (R413). -/
def Port.put (x : Port) (p : Packet) : Port :=
  let cseq := if p.crit then x.cseq else 0
  { x with
    cseq := if p.crit then x.cseq + 1 else x.cseq
    planes := Vector.ofFn fun (i : Fin 2) =>
      let pl := x.planes.getD i.val Plane.fresh
      if onPlane p i.val then pl.put (i.val == 1) cseq (flitContents p) else pl }

/-- Sends one packet out of a port, or lets it wait behind those that wait for room (R412). -/
def State.emit (s : State) (port : Nat) (p : Packet) : State :=
  let x := s.ports.getD port Port.reset
  if x.wait.isEmpty && x.room p then { s with ports := s.ports.setIfInBounds port (x.put p) }.send (.packet port p)
  else { s with ports := s.ports.setIfInBounds port { x with wait := x.wait ++ [p] } }

/-- A port on which packets wait: flits that have arrived leave the replay buffers, and the first packet is sent once it has room (R412).
(DESIGN CHOICE, log 59.) -/
def State.portCycle (s : State) (port : Nat) : State :=
  let x := s.ports.getD port Port.reset
  match x.wait with
  | [] => s
  | p :: r =>
    let y : Port := { x with planes := x.planes.map fun pl => { pl with buf := pl.buf.drop (Config.flitsAcked s.draws) } }
    let s1 := { s with draws := s.draws + 1 }
    if y.room p then { s1 with ports := s.ports.setIfInBounds port (Port.put { y with wait := r } p) }.send (.packet port p)
    else { s1 with ports := s.ports.setIfInBounds port y }

/-- The home switch and slice of a line, numbered through the 32 slices of 16 switches (R418). -/
def switchSlice (pa : Nat) : Nat := pa / 256 % 16 * 32 + pa / 4096 % 32

/-- A monitor packet about a line (R413, R344): bit 0 of BEN tells an arm or registration from a wake or notice. (DESIGN CHOICE, log 14.) -/
def State.monitorPacket (s : State) (dst : Nat) (addr : Nat) (arm : Bool) : Packet :=
  { kind := 8, crit := true, resend := false, dst := BitVec.ofNat 8 dst, src := s.modNum, score := 0xFFFF, eseq := 0, cred := 0, addr := w64 addr
    time := w64 s.ptime, ben := if arm then 1 else 0, data := [] }

/-- A write is performed on a line that a switch slice watches: its home sends the notice through the port of the line's home switch (R344,
R419). -/
def State.noticeLine (s : State) (line : Nat) : State :=
  match kget s.lines line with
  | none => s
  | some h =>
    if h.watch then
      { s with lines := kset s.lines line { h with watch := false } }.emit (line % 16) (s.monitorPacket s.modNum.toNat (line * 256) false)
    else s

/-- The event by which the pod answers a request packet: the home slice of the line's home switch serves it (R418, R419). -/
def answerOf (p : Packet) : Option Instr :=
  match p.kind.toNat with
  | 1 => some (.peerRead p)
  | 2 | 9 => some (.peerWrite p)
  | 3 => some (.peerAtomic p)
  | _ => none

/-- The source die of a request from a peer, as the receivers keep its ESEQs (R414): a module's die, or its switch. -/
def srcDie (p : Packet) : Nat := p.src.toNat * 8 + (if p.score = 0xFFFF then 4 else p.score.toNat / 80 % 4)

/-- Whether a request of a source is held in the window, and its response (R414). -/
def State.served? (s : State) (src : Nat) (p : Packet) : Option Served :=
  s.pod.seen.find? fun x => x.src == src && x.eseq == p.eseq.toNat

/-- Puts a request into the window of the last 8,192 of its source (R414). -/
def putSeen (x : Served) (l : List Served) : List Served :=
  let rest := l.filter fun y => y.src != x.src || y.eseq != x.eseq
  let mine := ((rest.filter (·.src == x.src)).drop 8191).map (·.eseq)
  x :: rest.filter fun y => y.src != x.src || !mine.contains y.eseq
def State.noteSeen (s : State) (src : Nat) (p : Packet) (resp : Option Packet) : State :=
  { s with pod := { s.pod with seen := putSeen ⟨src, p.eseq.toNat, resp⟩ s.pod.seen } }

/-- A request of a peer has its response, which is kept. -/
def State.answered (s : State) (p r : Packet) : State := s.noteSeen (srcDie p) p (some r)

/-- A request of a peer is accepted at its home: its unit is owed to the source die, once for each ESEQ (R417). -/
def State.owe (s : State) (p : Packet) : State :=
  { s with owed := s.owed ++ [(⟨p.src.toNat, p.score.toNat / 80 % 4, 1, s.ccount⟩ : Owed)] }

/-- The response to a request: kind 6, to its source, with a time (R410, R411). -/
def respond (own : BitVec 8) (p : Packet) (time : Nat) (ben : BitVec 256) (data : List Byte) : Packet :=
  { kind := 6, crit := p.crit, resend := false, dst := p.src, src := own, score := 0xFFFF, eseq := p.eseq, cred := 0, addr := p.addr
    time := w64 time, ben := ben, data := data }

/-- Sends a request to a peer: a fresh ESEQ, the request remembered until its response, its owed units carried along (R411,
R414, R417). `none` while 4,096 requests to the module are outstanding. -/
def State.sendPeer (s : State) (die dst kind core addr op part : Nat) (ben : BitVec 256) (data : List Byte) : Option State :=
  let d := s.die die
  if 4096 ≤ (d.reqs.filter (·.dst == dst)).length then none else
  let e := sget d.eseq dst
  let (cred, owed) := takeOwed dst s.owed
  let p : Packet := ⟨BitVec.ofNat 8 kind, isCritical kind, false, BitVec.ofNat 8 dst, s.modNum, BitVec.ofNat 16 core, e, cred,
    w64 addr, w64 s.ptime, ben, data⟩
  let s1 := ({ s with owed := owed }.modDie die fun d => { d with
    eseq := sset d.eseq dst (e + 1), reqs := d.reqs ++ [(⟨dst, e.toNat, p, s.ptime, 0, op, part⟩ : PeerReq)] }).emit (portFor die dst) p
  let s2 := s1.schedAt (s.ptime + 4800000) .endToEndResend [die, dst, e.toNat]
  match answerOf p with
  | some i => if (s.ports.getD (portFor die dst) Port.reset).up then some (s2.schedPath i) else some s2
  | none => some s2

/-- The outstanding request that a response answers (R411, R414). -/
def State.peerReq? (s : State) (src eseq : Nat) (addr : W64) : Option (Nat × PeerReq) :=
  (List.range 4).findSome? fun d =>
    ((s.die d).reqs.find? fun r => r.dst == src && r.eseq == eseq && r.pkt.addr == addr).map fun r => (d, r)

end Sys2Proof.Machine
end

