-- ==== Sys2Proof/Machine/Cache.lean ====
section
/-! DEFINITION. Caches, homes and the write rule: lines and sectors (spec/11 R337 to R340), leases and GWCTs (spec/10 R304 to R308),
pending writes, write masks, address monitors (R344), value watchpoints (R445). -/
namespace Sys2Proof.Machine

/-! ## Sets and replacement (R338) -/

/-- After an access to a way, every tree bit on its path points away from it. -/
def plruTouch (bits : BitVec 15) (way : Nat) : BitVec 15 :=
  let set := fun (b : BitVec 15) (n : Nat) (v : Bool) =>
    if v then b ||| ((1 : BitVec 15) <<< n) else b &&& ~~~((1 : BitVec 15) <<< n)
  let b3 := way / 8 % 2
  let b2 := way / 4 % 2
  let b1 := way / 2 % 2
  let b0 := way % 2
  let x := set bits 0 (b3 = 0)
  let x := set x (1 + b3) (b2 = 0)
  let x := set x (3 + 2 * b3 + b2) (b1 = 0)
  set x (7 + 4 * b3 + 2 * b2 + b1) (b0 = 0)

/-- The tree's choice among the ways admitted: at each node the side its bit names, unless no way of that side is admitted. -/
def plruVictim (bits : BitVec 15) (ok : Nat → Bool) : Option Nat :=
  let any := fun lo n => (List.range n).any fun i => ok (lo + i)
  if !any 0 16 then none else
  let pick := fun (node lo half : Nat) =>
    let right := bits.getLsbD node
    if right then any (lo + half) half else !any lo half
  let r3 := pick 0 0 8
  let lo3 := if r3 then 8 else 0
  let n2 := if r3 then 2 else 1
  let r2 := pick n2 lo3 4
  let lo2 := lo3 + if r2 then 4 else 0
  let n1 := 2 * n2 + 1 + if r2 then 1 else 0
  let r1 := pick n1 lo2 2
  let lo1 := lo2 + if r1 then 2 else 0
  let n0 := 2 * n1 + 1 + if r1 then 1 else 0
  let r0 := pick n0 lo1 1
  some (lo1 + if r0 then 1 else 0)

/-- The way that holds a line. -/
def CSet.way? (c : CSet) (line : Nat) : Option (Nat × CLine) := c.ways.find? (·.2.line == line)

/-- The way for a new line: the lowest whose line has no valid sector, then the tree's choice (R338). -/
def CSet.choose (c : CSet) (ways : Nat) (keep : CLine → Bool) : Option Nat :=
  let free := (List.range ways).find? fun i => match kget c.ways i with
    | none => true
    | some l => l.valid == 0 && !keep l
  match free with
  | some i => some i
  | none => plruVictim c.plru fun i => decide (i < ways) && (match kget c.ways i with | none => true | some l => !keep l)

/-- An empty line. -/
def CLine.new (line : Nat) : CLine := ⟨line, 0, Vector.replicate 4 0, Vector.replicate 4 0, [], 0, 0⟩

/-- Puts the 64 bytes of a sector into a line with its lease. -/
def CLine.putSector (l : CLine) (sec : Nat) (bs : List Byte) (exp t : Nat) : CLine :=
  { l with
    valid := l.valid ||| ((1 : BitVec 4) <<< sec), exp := l.exp.setIfInBounds sec exp, fillT := l.fillT.setIfInBounds sec t
    data := ssetL l.data (64 * sec) bs, bad := l.bad &&& ~~~((0xFF : BitVec 32) <<< (8 * sec)) }

/-- Fills a sector into a set; `none` when no way is free. Returns the evicted line too. -/
def CSet.fill (c : CSet) (ways line sec : Nat) (bs : List Byte) (exp t : Nat) (keep : CLine → Bool) :
    Option (CSet × Option CLine) :=
  match c.way? line with
  | some (i, l) => some (⟨kset c.ways i (l.putSector sec bs exp t), plruTouch c.plru i⟩, none)
  | none =>
    match c.choose ways keep with
    | none => none
    | some i => some (⟨kset c.ways i ((CLine.new line).putSector sec bs exp t), plruTouch c.plru i⟩, kget c.ways i)

/-- The empty set. -/
def CSet.empty : CSet := ⟨[], 0⟩

/-- The bytes of a sector that a set holds under a running lease, filled at or after a time (R305, R314). -/
def CSet.hit? (c : CSet) (line sec now minFill : Nat) : Option (List Byte × Nat × Nat) :=
  match c.way? line with
  | some (_, l) =>
    if l.valid.getLsbD sec && decide (now < l.exp.getD sec 0) && decide (minFill ≤ l.fillT.getD sec 0) then
      some (sgetL l.data (64 * sec) 64, l.exp.getD sec 0, l.fillT.getD sec 0)
    else none
  | none => none

/-- The set after a hit: the tree bits move. -/
def CSet.touch (c : CSet) (line : Nat) : CSet :=
  match c.way? line with
  | some (i, _) => { c with plru := plruTouch c.plru i }
  | none => c

/-- Invalidates a sector of a line. -/
def CSet.drop (c : CSet) (line sec : Nat) : CSet :=
  { c with ways := c.ways.map fun p => if p.2.line == line then
      (p.1, { p.2 with valid := p.2.valid &&& ~~~((1 : BitVec 4) <<< sec) }) else p }

/-- The set of a line in an L1, an RDC (bank PA 11:8, R338) and an L2 slice. (DESIGN CHOICE, log 25.) -/
def l1Set (line : Nat) : Nat := line % 256
def rdcSet (line : Nat) : Nat := line % 16 * 512 + line / 16 % 512
def l2Set (o : Nat) : Nat := (dieLocal o / 4096 / 48 * 16 + dieLocal o / 256 % 16) % 512

/-! ## The home's value -/

/-- The L2 line of a module-space offset. -/
def State.l2Line (s : State) (o : Nat) : Option CLine :=
  match kget (s.slice (homeSlice o)).l2 (l2Set o) with
  | none => none
  | some c => (c.way? (o / 256)).map (·.2)

/-- The physical address by which peers name a module-space offset of this module (R328). -/
def State.ownPa (s : State) (o : Nat) : Nat := 2 * 1125899906842624 + s.modNum.toNat * 4398046511104 + o

/-- The performed value of a byte of module memory: that of the switch where its word is delegated (R420), the L2 sector where it is
valid, DRAM otherwise (R339). (DEDUCED, log 60.) -/
def State.modByte (s : State) (o : Nat) : Byte :=
  match s.pod.hot.find? fun h => h.addr == s.ownPa (o / 8 * 8) with
  | some h => h.val.extractLsb' (8 * (o % 8)) 8
  | none =>
    match s.l2Line o with
    | some l => if l.valid.getLsbD (o % 256 / 64) then sget l.data (o % 256) else s.dram o
    | none => s.dram o

/-- The performed value of a byte at its home (R304). (DESIGN CHOICE, log 15.) -/
def State.homeByte (s : State) (pa : Nat) : Byte :=
  match paClass pa with
  | 0 => if isRegBlock (paLow pa) then (s.regRead (paLow pa - 0x38000000000) 1).getD 0 0 else s.modByte (paLow pa)
  | 1 => sget s.hostMem (paLow pa)
  | _ => sget s.pod.mem (paLow pa)

/-- n bytes at the home; a read of a register block reads the register (R358). -/
def State.homeBytes (s : State) (pa n : Nat) : List Byte :=
  if paClass pa = 0 ∧ isRegBlock (paLow pa) then s.regRead (paLow pa - 0x38000000000) n
  else (List.range n).map fun i => s.homeByte (pa + i)

/-- The lines that an operation holds pinned: those of an MLOAD are free in the cycle in which it completes (R260, R352). -/
def EngOp.pinned (e : EngOp) (now : Nat) : List TLine :=
  if e.kind == .mload && e.began.any (fun b => decide (b + 15 ≤ now)) then [] else e.fetched

/-- Whether a fetched operand line is pinned as the home copy in its L2 slice (R259, R260). -/
def State.pinnedL2 (s : State) (line : Nat) : Bool :=
  s.cores.any fun c => c.2.eng.any fun e => (e.pinned s.ccount).any fun t => !t.copied && t.pline == line
/-- The die whose RDC holds lines of a physical address for a core of a die: its own for lines homed on another die or on a peer, die[0]'s for
coherent host lines (R334). -/
def rdcDie (die pa : Nat) (coherentHost : Bool) : Option Nat :=
  match paClass pa with
  | 0 => if homeDie (paLow pa) != die then some die else none
  | 1 => if coherentHost then some 0 else none
  | 2 => some die
  | _ => none

/-- Whether it is pinned in the RDC of a die. -/
def State.pinnedRdc (s : State) (die line : Nat) : Bool :=
  s.cores.any fun c => c.2.eng.any fun e => (e.pinned s.ccount).any fun t => t.copied && t.pline == line && rdcDie (dieOf c.1) (line * 256) true == some die
/-- Whether it is pinned in some RDC: its lease lasts until the pin is released (R260). -/
def State.pinnedCopy (s : State) (line : Nat) : Bool :=
  s.cores.any fun c => c.2.eng.any fun e => (e.pinned s.ccount).any fun t => t.copied && t.pline == line

/-- Writes the dirty bytes of an evicted L2 line to DRAM (R339). -/
def State.writeBack (s : State) (l : CLine) : State :=
  (List.range 256).foldl (fun s i => if l.dirty.getLsbD i then s.setDram (l.line * 256 + i) (sget l.data i) else s) s

/-- Whether the DRAM channel of a module-space offset is refreshing and the access has to reach it (R341). (DESIGN CHOICE, log 19.) -/
def State.refreshing (s : State) (o : Nat) : Bool :=
  let held := match s.l2Line o with
    | some l => l.valid.getLsbD (o % 256 / 64)
    | none => false
  !held && (s.die (homeDie o)).refresh.contains (Config.channelOf o, isLpddr o)

/-- Whether an access to a physical address meets a refresh. -/
def State.meetsRefresh (s : State) (pa : Nat) : Bool := paClass pa == 0 && !isRegBlock (paLow pa) && s.refreshing (paLow pa)

/-- Whether a sector of module memory can be held by its L2 slice now: it is there, or a way can be chosen (R338). -/
def State.l2Room (s : State) (o : Nat) : Bool :=
  let c := kgetD (s.slice (homeSlice o)).l2 (l2Set o) CSet.empty
  (c.way? (o / 256)).isSome || (c.choose (16 - (s.slice (homeSlice o)).carve) fun l => s.pinnedL2 l.line).isSome

/-- Brings a sector of module memory into its L2 slice (R339). A read waits for a way first (R338); a write performed where every way is
pinned goes to DRAM. -/
def State.l2Fill (s : State) (o : Nat) : State :=
  let x := homeSlice o
  let k := l2Set o
  let sec := o % 256 / 64
  let c := kgetD (s.slice x).l2 k CSet.empty
  match c.way? (o / 256) with
  | some (_, l) =>
    if l.valid.getLsbD sec then s.modSlice x fun z => { z with l2 := kset z.l2 k (c.touch (o / 256)) }
    else
      let bs := sgetL (w := 8) s.mem (o / 64 * 64) 64
      match c.fill (16 - (s.slice x).carve) (o / 256) sec bs 0 0 (fun l => s.pinnedL2 l.line) with
      | some (c', _) => s.modSlice x fun z => { z with l2 := kset z.l2 k c' }
      | none => s
  | none =>
    let bs := sgetL (w := 8) s.mem (o / 64 * 64) 64
    match c.fill (16 - (s.slice x).carve) (o / 256) sec bs 0 0 (fun l => s.pinnedL2 l.line) with
    | some (c', old) =>
      let s1 := match old with | some l => s.writeBack l | none => s
      s1.modSlice x fun z => { z with l2 := kset z.l2 k c' }
    | none => s

/-- A 64-bit word with one byte replaced. -/
def setByte (w : W64) (i : Nat) (b : Byte) : W64 :=
  (w &&& ~~~((0xFF : W64) <<< (8 * i))) ||| (b.setWidth 64 <<< (8 * i))

/-- Writes one byte of module memory at its home: to the switch where its word is delegated (R420), into the L2 sector, dirty, or
DRAM (R339). (DEDUCED, log 60.) -/
def State.putMod (s : State) (o : Nat) (b : Byte) : State :=
  let key := s.ownPa (o / 8 * 8)
  if (s.pod.hot.any (fun h => h.addr == key)) = true then
    let upd : HotWord → HotWord := fun h => if h.addr = key then { h with val := setByte h.val (o % 8) b } else h
    { s with pod := { s.pod with hot := s.pod.hot.map upd } }
  else
  let x := homeSlice o
  let k := l2Set o
  match (kgetD (s.slice x).l2 k CSet.empty).way? (o / 256) with
  | some (i, l) =>
    if l.valid.getLsbD (o % 256 / 64) then
      let l' : CLine := { l with data := sset l.data (o % 256) b, dirty := l.dirty ||| ((1 : BitVec 256) <<< (o % 256)) }
      s.modSlice x fun z => { z with l2 := kmod z.l2 k fun c => { c with ways := kset c.ways i l' } }
    else s.setDram o b
  | none => s.setDram o b

/-- Writes enabled bytes into a map of bytes from an address. -/
def putBytes (m : SMap 8) (a : Nat) : List (Option Byte) → SMap 8
  | [] => m
  | some b :: r => putBytes (sset m a b) (a + 1) r
  | none :: r => putBytes m (a + 1) r

/-- Writes bytes under byte enables at their home (R306): module memory, host memory (posted, R323), peer memory. -/
def State.homeWrite (s : State) (pa : Nat) (data : List (Option Byte)) : State :=
  match paClass pa with
  | 0 =>
    if isRegBlock (paLow pa) then (s.regWrite (paLow pa - 0x38000000000) data).foldl (fun s i => s.sched 0 i) s
    else
      let s := s.l2Fill (paLow pa)
      (List.range data.length).foldl (fun s i => match data.getD i none with
        | some b => s.putMod (paLow pa + i) b
        | none => s) s
  | 1 => (List.range data.length).foldl (fun s i => match data.getD i none with
        | some b => s.postHost (paLow pa + i) [b]
        | none => s) s
  | _ => { s with pod := { s.pod with mem := putBytes s.pod.mem (paLow pa) data } }

/-! ## Leases and GWCTs (R305, R306) -/

def State.homeLine (s : State) (line : Nat) : HomeLine := kgetD s.lines line ⟨0, [], [], false⟩

/-- Pending writes of a line, in acceptance order. -/
def State.pendingOn (s : State) (line : Nat) : List (Nat × PWrite) :=
  s.writes.filter fun p => p.2.pa / 256 == line

/-- GWCT of a write accepted now (R306). -/
def State.gwctOf (s : State) (line : Nat) : Nat :=
  max s.ptime (max (s.homeLine line).lease ((s.pendingOn line).foldl (fun a p => max a p.2.gwct) 0))

/-- The lease of a fill served now: L × 120 ÷ m, ended by the smallest pending GWCT (R305, R306); a reserved or delegated
line's fill gets none (R321, R420). -/
def State.leaseEnd (s : State) (line len : Nat) : Nat :=
  let h := s.homeLine line
  if !h.resv.isEmpty || !h.deleg.isEmpty then s.ptime else
  (s.pendingOn line).foldl (fun a p => if s.ptime < p.2.gwct then min a p.2.gwct else a) (s.ptime + s.leaseTicks len)

/-- Records a lease at the home: the latest expiry of the line (R305). -/
def State.recordLease (s : State) (line exp : Nat) : State :=
  let h := s.homeLine line
  { s with lines := kset s.lines line { h with lease := max h.lease exp } }

/-- A word of an add-on-store (R267): an FP32 sum to nearest even with subnormals kept, or an INT32 sum. -/
def addWord (fp : Bool) (x y : W32) : W32 :=
  if fp then BitVec.ofNat 32 (fmtF32.add .rn false (fmtF32.dec x.toNat) (fmtF32.dec y.toNat)).1 else x + y

/-- The bytes of an aligned 4-byte word after a write: overwritten where the write has enabled bytes, or added to (R267). -/
def PWrite.onto (w : PWrite) (pa : Nat) (bs : List Byte) : List Byte :=
  let at_ := fun i => if w.pa ≤ pa + i then w.data.getD (pa + i - w.pa) none else none
  match w.add with
  | none => (List.range 4).map fun i => (at_ i).getD (bs.getD i 0)
  | some fp => if (at_ 0).isSome then
      wBytes 4 (addWord fp (bytesW 32 bs) (bytesW 32 ((List.range 4).map fun i => (at_ i).getD 0))) else bs

/-- The latest value of an aligned word in coherence order, writes not yet performed included (R308). -/
def State.latestWord (s : State) (pa : Nat) : List Byte :=
  let ws := (s.writes.filter fun p => decide (p.2.pa < pa + 4 ∧ pa < p.2.pa + p.2.data.length)).map (·.2)
  (sortBy (fun a b : PWrite => decide (a.gwct ≤ b.gwct)) ws).foldl (fun bs w => w.onto pa bs)
    ((List.range 4).map fun i => s.homeByte (pa + i))

/-- The latest value of a byte in coherence order (R308). -/
def State.latestByte (s : State) (pa : Nat) : Byte :=
  if s.writes.isEmpty then s.homeByte pa else (s.latestWord (pa / 4 * 4)).getD (pa % 4) 0

def State.latestBytes (s : State) (pa n : Nat) : List Byte := (List.range n).map fun i => s.latestByte (pa + i)

/-! ## Freezing (R440, R446) -/

/-- Freezes the package with a cause; FREPORT describes the lowest cause bit (R446). -/
def State.freeze (s : State) (bit : Nat) (report : BitVec 256) : State :=
  let c := (if s.frozen then s.fcause else 0) ||| ((1 : FCause) <<< bit)
  let lower := !s.frozen || decide (s.fcause.toNat % 2 ^ bit = 0)
  { s with frozen := true, fcause := c, dumped := if s.frozen then s.dumped else false,
           freport := if lower then report else s.freport }

/-- FREPORT of a watchpoint (R445): module, core, agent, address, GWCT. (DESIGN CHOICE, log 37.) -/
def watchReport (module : BitVec 8) (core : Nat) (agent : Nat) (pa gwct : Nat) : BitVec 256 :=
  module.setWidth 256 ||| (BitVec.ofNat 256 core <<< 8) ||| (BitVec.ofNat 256 agent <<< 24) ||| (BitVec.ofNat 256 pa <<< 64) |||
    (BitVec.ofNat 256 gwct <<< 128)

/-- Checks the watchpoints of the home die against a write that is being accepted (R445). -/
def State.checkWatch (s : State) (pa : Nat) (data : List (Option Byte)) (agent : Agent) (core gwct : Nat) : State :=
  if paClass pa ≠ 0 ∨ isRegBlock (paLow pa) then s else
  ((s.die (homeDie (paLow pa))).wps.toList).foldl (fun s w =>
    let touched := (List.range w.size).any fun i =>
      decide (pa ≤ w.pa + i ∧ w.pa + i < pa + data.length) && (data.getD (w.pa + i - pa) none).isSome
    if w.en && touched then
      let old := bytesNat (s.latestBytes w.pa w.size)
      let new := bytesNat ((List.range w.size).map fun i =>
        if pa ≤ w.pa + i ∧ w.pa + i < pa + data.length then ((data.getD (w.pa + i - pa) none).getD (s.latestByte (w.pa + i)))
        else s.latestByte (w.pa + i))
      let m : W64 := w.msk.extractLsb' 0 (8 * w.size) |>.setWidth 64
      let n : W64 := w64 new
      let fires := if w.differ then (n ^^^ w64 old) &&& m != 0 else (n ^^^ w.val) &&& m == 0
      if fires then s.freeze 3 (watchReport s.modNum core (match agent with
        | .scalar g | .lane g => g % 32 | .seq t => 32 + t % 4 | _ => 255) pa gwct) else s
    else s) s

/-! ## Write masks (R307) -/

/-- The masked bytes of a core at an address, the latest in coherence order first. -/
def State.masksAt (s : State) (core a : Nat) : List MaskB := (kgetD (s.core core).masks (a / 256) []).filter (·.off == a % 256)

/-- Overlays the masked bytes of a core over bytes read, but those that `skip` names. -/
def State.overlayMasks (s : State) (core pa : Nat) (bs : List Byte) (skip : MaskB → Bool := fun _ => false) : List Byte :=
  if (s.core core).masks.isEmpty then bs else
  (List.range bs.length).map fun i =>
    match (s.masksAt core (pa + i)).find? (!skip ·) with
    | some m => m.byte
    | none => bs.getD i 0

/-- Whether a masked byte stands before a newly masked one in coherence order: it is not accepted yet, or was accepted later. -/
def MaskB.laterThan (m : MaskB) (acc : Option (Nat × Nat)) : Bool :=
  match acc, m.acc with
  | some (_, w), some (_, v) => decide (w < v)
  | some _, none => true
  | none, _ => false

/-- Puts a masked byte into its place in coherence order. -/
def maskInsert (x : MaskB) : List MaskB → List MaskB
  | [] => [x]
  | m :: r => if m.laterThan x.acc then m :: maskInsert x r else x :: m :: r

/-- Enters enabled bytes from an address into write masks. -/
def maskPut (m : KMap (List MaskB)) (pa : Nat) (data : List (Option Byte)) (id : Nat) (agent : Agent) (acc : Option (Nat × Nat)) :
    KMap (List MaskB) :=
  match data with
  | [] => m
  | none :: r => maskPut m (pa + 1) r id agent acc
  | some b :: r =>
    maskPut (kset m (pa / 256) (maskInsert ⟨pa % 256, b, id, agent, acc⟩ (kgetD m (pa / 256) []))) (pa + 1) r id agent acc

/-- Enters bytes into a core's write masks (R307); whole aligned 8 bytes are poisoned in its copy no longer (R342). -/
def State.maskWrite (s : State) (core pa : Nat) (data : List (Option Byte)) (id : Nat) (agent : Agent) (acc : Option (Nat × Nat)) : State :=
  let whole := fun (i : Nat) => (List.range 8).all fun j => decide (pa ≤ pa / 256 * 256 + 8 * i + j) &&
    (data.getD (pa / 256 * 256 + 8 * i + j - pa) none).isSome
  let clean := fun (l : CLine) => { l with bad := (List.range 32).foldl (fun (b : BitVec 32) i =>
    if whole i then b &&& ~~~((1 : BitVec 32) <<< i) else b) l.bad }
  s.modCore core fun c => { c with
    masks := maskPut c.masks pa data id agent acc
    l1 := kmod c.l1 (l1Set (pa / 256)) fun k => { k with ways := k.ways.map fun (w : Nat × CLine) =>
      if w.2.line == pa / 256 ∧ w.2.bad ≠ 0 then (w.1, clean w.2) else w } }

/-- The home has accepted the write of masked bytes: they are held until PTIME reaches its GWCT. -/
def State.maskAccept (s : State) (core pa n id : Nat) (agent : Agent) (g w : Nat) : State :=
  if (kget (s.core core).masks (pa / 256)).isNone then s else
  (s.modCore core fun c => { c with masks := kmod c.masks (pa / 256) (·.map fun m =>
    if m.id == id && m.agent == agent && m.acc.isNone && decide (pa % 256 ≤ m.off ∧ m.off < pa % 256 + n) then { m with acc := some (g, w) }
    else m) }).schedAt g .writeMaskRelease [core, pa / 256]

/-- Drops masked bytes of a line. -/
def State.maskDrop (s : State) (core line : Nat) (gone : MaskB → Bool) : State :=
  match kget (s.core core).masks line with
  | none => s
  | some ms =>
    let keep := ms.filter fun m => !gone m
    s.modCore core fun c => { c with masks := if keep.isEmpty then kdel c.masks line else kset c.masks line keep }

/-- A home accepts a write: watchpoints, GWCT, the write held until PTIME reaches it (R306), and its masked bytes with it (R307). -/
def State.acceptWrite (s : State) (pa : Nat) (data : List (Option Byte)) (op part : Nat) (agent : Agent) (core : Nat) :
    Nat × State :=
  let g := s.gwctOf (pa / 256)
  let s1 := s.checkWatch pa data agent core g
  let (id, s2) := s1.fresh
  let lane := match agent with
    | .lane g => some g
    | _ => none
  let s3 := s2.maskAccept core pa data.length op agent g id
  (g, { s3 with writes := kset s3.writes id ⟨pa, data, g, op, part, none, core, lane⟩ }.schedAt g .writePerform [id])

/-! ## Monitors (R344) -/

/-- Sends the wake of a watch from its slice to the group's core, ready in the cycle after it arrives (R174, R372): from the first core of an L2
slice's die; a switch slice's message makes the Poale trip as well. (DESIGN CHOICE, log 70.) -/
def State.sendWake (s : State) (x g : Nat) : State :=
  if x < 192 then s.sched (1 + wakeLatency (x / 48 * 80) (coreOfG g)) (.groupWake g .watch)
  else
    let (n, s1) := s.draw
    s1.sched (1 + n + wakeLatency (dieOf (coreOfG g) * 80) (coreOfG g)) (.groupWake g .watch)

/-- Frees the entries of a line at its slice and sends their wakes (R344, R174). -/
def State.wakeLine (s : State) (slice line : Nat) : State :=
  let x := s.slice slice
  let (hit, rest) := x.mons.partition (·.line == line)
  let s1 := if hit.isEmpty then s else s.modSlice slice fun z => { z with mons := rest }
  hit.foldl (fun s m => s.sendWake slice m.gident) s1

/-- Frees the watches of a line at a switch slice, by home switch and slice (R418), and sends their wakes. -/
def State.wakePeerLine (s : State) (line : Nat) : State :=
  let k := switchSlice (line * 256)
  let ms := kgetD s.pod.mons k []
  let (hit, rest) := ms.partition (·.line == line)
  if hit.isEmpty then s else
    hit.foldl (fun s m => s.sendWake (192 + k) m.gident) { s with pod := { s.pod with mons := kset s.pod.mons k rest } }

/-- Clears the poison of every aligned 8-byte word that a write covers whole (R342). -/
def State.clearPoison (s : State) (pa : Nat) (data : List (Option Byte)) : State :=
  { s with poison := s.poison.filter fun p => !(decide (pa ≤ p ∧ p + 8 ≤ pa + data.length) &&
      (List.range 8).all fun i => (data.getD (p + i - pa) none).isSome) }

/-- Whether any byte of a range is poisoned; the lowest such aligned word (R342). (DEDUCED, log 35.) -/
def State.poisonIn (s : State) (pa n : Nat) : Option Nat :=
  (s.poison.filter fun p => decide (p < pa + n ∧ pa < p + 8)).foldl (fun a p => match a with
    | none => some p | some q => some (min p q)) none

/-- What bytes hold without the lane stores of a group's running block, after a performed write (R152): the first such store keeps the old
byte, a write of another agent replaces it. -/
def Group.hideMem (r : Group) (mine : Bool) (old : Nat → Byte) (pa : Nat) (data : List (Option Byte)) : Group :=
  { r with hid := (List.range data.length).foldl (fun h i => match data.getD i none with
      | none => h
      | some b =>
        let a := pa + i
        if mine then (if (kget h a).isSome then h else kset h a (old a))
        else if (kget h a).isSome then kset h a b else h) r.hid }

/-- Whether a block of the group runs in which an access of a number was made. -/
def Group.inBlock (r : Group) (id : Nat) : Bool := match r.blk with
  | some b => b.running && decide (b.id0 ≤ id)
  | none => false

/-- The groups whose early loads a performed write concerns note it (R152). -/
def State.noteHidden (s : State) (w : PWrite) : State :=
  let mine := fun (g : Nat) (r : Group) => w.lane == some g && r.inBlock w.op
  if s.groups.all (fun (p : Nat × Group) => p.2.hid.isEmpty && !mine p.1 p.2) then s else
  { s with groups := s.groups.map fun (p : Nat × Group) => (p.1, p.2.hideMem (mine p.1 p.2) s.homeByte w.pa w.data) }

/-- A home applies an accepted write (R306): its bytes, then the monitors of the line. Its masked bytes are those of the home from now on. -/
def State.performWrite (s : State) (id : Nat) (w : PWrite) : State :=
  let s0 := s.noteHidden w
  let s1 := (({ s0 with writes := kdel s0.writes id }.homeWrite w.pa w.data).clearPoison w.pa w.data).maskDrop w.core (w.pa / 256)
    fun (m : MaskB) => m.acc.any fun (q : Nat × Nat) => q.2 == id
  if !w.data.any (·.isSome) then s1 else
  match paClass w.pa with
  | 0 => if isRegBlock (paLow w.pa) then s1 else s1.noticeLine (w.pa / 256) |>.wakeLine (homeSlice (paLow w.pa)) (w.pa / 256)
  | _ => s1.wakePeerLine (w.pa / 256)

/-! ## Copies: L1 and RDC (R338, R339) -/

def State.l1Hit (s : State) (core pa minFill : Nat) : Option (List Byte × Nat × Nat) :=
  (kgetD (s.core core).l1 (l1Set (pa / 256)) CSet.empty).hit? (pa / 256) (pa % 256 / 64) s.ptime minFill
def State.rdcHit (s : State) (die pa minFill : Nat) : Option (List Byte × Nat × Nat) :=
  (kgetD (s.die die).rdc (rdcSet (pa / 256)) CSet.empty).hit? (pa / 256) (pa % 256 / 64) s.ptime minFill
/-- The lowest poisoned word of a copy's line in a range of addresses of it. -/
def CLine.poisonIn (l : CLine) (pa n : Nat) : Option Nat :=
  ((List.range 32).find? fun i => l.bad.getLsbD i && decide (l.line * 256 + 8 * i < pa + n ∧ pa < l.line * 256 + 8 * i + 8)).map
    fun i => l.line * 256 + 8 * i

/-- The poisoned words of a sector at its home, as bits of the line's 32 words: a copy of it is filled with them (R342). -/
def State.homeBad (s : State) (pa : Nat) : BitVec 32 :=
  if s.poison.isEmpty then 0 else
  (List.range 8).foldl (fun (a : BitVec 32) i =>
    if s.poison.contains (pa / 64 * 64 + 8 * i) then a ||| ((1 : BitVec 32) <<< (pa % 256 / 64 * 8 + i)) else a) 0

/-- Marks words of a line's copy in a set. -/
def CSet.spoil (c : CSet) (line : Nat) (bits : BitVec 32) : CSet :=
  if bits = 0 then c else { c with ways := c.ways.map fun (w : Nat × CLine) => if w.2.line == line then (w.1, { w.2 with bad := w.2.bad ||| bits }) else w }

/-- The lowest poisoned word that a load of a core reads (R342): of the copy in its L1 or in the RDC that would serve it, else of the home,
without the words that its core's masked bytes cover. -/
def State.poisonRead (s : State) (core pa n : Nat) : Option Nat :=
  let of := fun (c : CSet) => (c.way? (pa / 256)).bind fun w => w.2.poisonIn pa n
  let home := ((s.poison.filter fun p => decide (p < pa + n ∧ pa < p + 8) && !(List.range 8).all fun i => !(s.masksAt core (p + i)).isEmpty)).min?
  if (s.l1Hit core pa 0).isSome then of (kgetD (s.core core).l1 (l1Set (pa / 256)) CSet.empty)
  else match rdcDie (dieOf core) pa true with
    | some d => if (s.rdcHit d pa 0).isSome then of (kgetD (s.die d).rdc (rdcSet (pa / 256)) CSet.empty) else home
    | none => home

def State.l1Touch (s : State) (core pa : Nat) : State :=
  s.modCore core fun c => { c with l1 := kmod c.l1 (l1Set (pa / 256)) (·.touch (pa / 256)) }
def State.rdcTouch (s : State) (die pa : Nat) : State :=
  s.modDie die fun c => { c with rdc := kmod c.rdc (rdcSet (pa / 256)) (·.touch (pa / 256)) }

/-- Installs a sector in an L1: a line with write masks is not chosen (R339). -/
def State.l1Fill (s : State) (core pa : Nat) (bs : List Byte) (exp t : Nat) : Option State :=
  let c := s.core core
  let k := l1Set (pa / 256)
  let keep := fun (l : CLine) => (kget c.masks l.line).isSome
  match (kgetD c.l1 k CSet.empty).fill 16 (pa / 256) (pa % 256 / 64) bs exp t keep with
  | some (cs, _) => some ((s.modCore core fun c => { c with l1 := kset c.l1 k (cs.spoil (pa / 256) (s.homeBad pa)) }).schedAt exp
      (.leaseExpiry (.l1 core) (pa / 256) (pa % 256 / 64)))
  | none => none

/-- Installs a sector in an RDC; `none` while every way of the set is pinned (R338). -/
def State.rdcFill (s : State) (die pa : Nat) (bs : List Byte) (exp t : Nat) : Option State :=
  let k := rdcSet (pa / 256)
  match (kgetD (s.die die).rdc k CSet.empty).fill 16 (pa / 256) (pa % 256 / 64) bs exp t (fun l => s.pinnedRdc die l.line) with
  | some (cs, _) => some ((s.modDie die fun c => { c with rdc := kset c.rdc k (cs.spoil (pa / 256) (s.homeBad pa)) }).schedAt exp
      (.leaseExpiry (.rdc die) (pa / 256) (pa % 256 / 64)))
  | none => none

/-- Gives a line a way of its core's L1 before bytes of it are masked (R339): `none` while every way of the set holds masked bytes. -/
def State.l1Alloc (s : State) (core pa : Nat) : Option State :=
  let c := s.core core
  let k := l1Set (pa / 256)
  let cs := kgetD c.l1 k CSet.empty
  match cs.way? (pa / 256) with
  | some _ => some s
  | none => match cs.choose 16 fun l => (kget c.masks l.line).isSome with
    | some i => some (s.modCore core fun c => { c with l1 := kset c.l1 k ⟨kset cs.ways i (CLine.new (pa / 256)), plruTouch cs.plru i⟩ })
    | none => none

/-- A write by an agent of a die invalidates the sectors it touches in the RDC that may hold them (R339, R403). -/
def State.rdcInvalidate (s : State) (die pa n : Nat) : State :=
  let secs := (List.range 4).filter fun j => decide (pa < pa / 256 * 256 + 64 * j + 64 ∧ pa / 256 * 256 + 64 * j < pa + n)
  match rdcDie die pa true with
  | none => s
  | some d => s.modDie d fun c => { c with rdc := kmod c.rdc (rdcSet (pa / 256)) fun k => secs.foldl (fun k j => k.drop (pa / 256) j) k }

end Sys2Proof.Machine
end

