-- ==== Sys2Proof/Machine/Trans.lean ====
section
/-! DEFINITION. Translation (spec/11 R331 to R336): canonical addresses, table entries, TLBs, walks, and the checks of an access
after translation (R161, R201, R333, R358). -/
namespace Sys2Proof.Machine

/-- Bits 63:57 equal bit 56 (R19, R331). -/
def canonical (va : W64) : Bool := va == (va.setWidth 57).signExtend 64

/-! ## Table entries (R332, R333) -/

def leafV (e : W64) : Bool := e.getLsbD 0
def leafL (e : W64) : Bool := e.getLsbD 1
def leafRD (e : W64) : Bool := e.getLsbD 2
def leafWR (e : W64) : Bool := e.getLsbD 3
def leafEX (e : W64) : Bool := e.getLsbD 4
def leafClass (e : W64) : Nat := (e.extractLsb' 5 2).toNat
def leafCPY (e : W64) : Bool := e.getLsbD 7
def leafPA (e : W64) : Nat := (e.extractLsb' 16 36).toNat * 65536
def leafFreg (e : W64) : Nat := (e.extractLsb' 56 8).toNat
/-- A Fen page (R332). -/
def isFen (e : W64) : Bool := leafClass e == 1
/-- A page mapped coherent: host memory of CLASS 0 (R334). -/
def isCoherentHost (e : W64) : Bool := paClass (leafPA e) == 1 && leafClass e == 0

/-- Page size of a leaf at a level (R331); 0 where a leaf is not admitted. -/
def pageSize (level : Nat) : Nat :=
  match level with
  | 2 => 1073741824
  | 3 => 2097152
  | 4 => 65536
  | _ => 0

/-- The index of an address at a level (R331). -/
def vaIndex (va : W64) (level : Nat) : Nat :=
  match level with
  | 0 => (va.extractLsb' 48 9).toNat
  | 1 => (va.extractLsb' 39 9).toNat
  | 2 => (va.extractLsb' 30 9).toNat
  | 3 => (va.extractLsb' 21 9).toNat
  | _ => (va.extractLsb' 16 5).toNat

/-- What makes a leaf a BADPTE (R333): a page address with bits below the page size, reserved fields, CLASS 3, reserved or
unbacked space, the module's own number as a peer or a peer outside the pod (R421), a Fen leaf that is not a 64 KiB page at 0,
a register-block address in an unprivileged context. -/
def State.badLeaf (s : State) (e : W64) (level : Nat) (priv : Bool) : Bool :=
  let pa := leafPA e
  let fen := isFen e
  let mdl := pa / 4398046511104 % 256
  let low := pa % 4398046511104
  (e.extractLsb' 8 8 != 0) || (e.extractLsb' 52 4 != 0) || decide (pa % pageSize level ≠ 0) || leafClass e == 3 ||
  (!fen && e.extractLsb' 56 8 != 0) ||
  (if fen then level != 4 || pa != 0 else
    match paClass pa with
    | 0 => if isRegBlock (paLow pa) then !priv else !s.backed (paLow pa)
    | 1 => false
    | 2 => mdl == s.modNum.toNat || decide ((s.salcfg.extractLsb' 8 9).toNat ≤ mdl) || isRegBlock low ||
        !(isBonded low || isLpddr low)
    | _ => true)

/-- A table address must lie in backed module space (R333). -/
def State.badTable (s : State) (pa : Nat) : Bool := paClass pa != 0 || !s.backed (paLow pa)

/-- The result of a walk: a leaf with its page size, or a fault with BADPTE or not. -/
inductive WalkRes where
  | leaf (e : W64) (size : Nat)
  | bad (badpte : Bool)
  deriving DecidableEq, Repr

/-- Reads levels from `level` on, `n` of them left, each entry at its home (R333). -/
def State.walkFrom (s : State) (va : W64) (priv : Bool) : Nat → Nat → Nat → WalkRes
  | 0, _, _ => .bad true
  | n + 1, level, table =>
    if s.badTable table then .bad true else
    let e := bytesW 64 (s.homeBytes (table + 8 * vaIndex va level) 8)
    if !leafV e then .bad false
    else if leafL e then
      if pageSize level = 0 ∨ s.badLeaf e level priv then .bad true else .leaf e (pageSize level)
    else if level = 4 ∨ leafClass e = 3 then .bad true
    else if (level < 3 ∧ e.extractLsb' 8 8 ≠ 0) ∨ e.extractLsb' 52 4 ≠ 0 ∨ e.extractLsb' 56 8 ≠ 0 then .bad true
    else
      let next := leafPA e + (if level = 3 then (e.extractLsb' 8 8).toNat * 256 else 0)
      if level < 3 ∧ next % 4096 ≠ 0 then .bad true else s.walkFrom va priv n (level + 1) next

/-- The five-level walk under a root (R331). -/
def State.walk (s : State) (root : Nat) (va : W64) (priv : Bool) : WalkRes :=
  if root % 4096 ≠ 0 then .bad true else s.walkFrom va priv 5 0 root

/-- The addresses of the entries that a walk reads. -/
def State.walkReads (s : State) (va : W64) : Nat → Nat → Nat → List Nat
  | 0, _, _ => []
  | n + 1, level, table =>
    if s.badTable table then [] else
    let a := table + 8 * vaIndex va level
    let e := bytesW 64 (s.homeBytes a 8)
    if !leafV e || leafL e then [a]
    else a :: s.walkReads va n (level + 1) (leafPA e + (if level = 3 then (e.extractLsb' 8 8).toNat * 256 else 0))

/-! ## TLBs (R335) -/

def tlbFind (l : List TlbE) (asn va : Nat) : Option TlbE :=
  l.find? fun e => e.asn == asn && decide (e.base ≤ va ∧ va < e.base + e.size)
/-- The entries after a use of one. -/
def tlbUse (l : List TlbE) (e : TlbE) (now : Nat) : List TlbE := l.map fun x => if x.idx = e.idx then { x with used := now } else x

/-- The entries after an insertion: at the lowest free index, else in place of the least recently used entry, ties to the lowest index (R335). -/
def tlbInsert (l : List TlbE) (asn base size : Nat) (leaf : W64) (now cap : Nat) : List TlbE :=
  let free := if l.length < cap then (List.range cap).find? fun i => !l.any (·.idx == i) else none
  let oldest := l.foldl (fun (a : Option TlbE) x => match a with
    | none => some x
    | some y => if x.used < y.used ∨ (x.used = y.used ∧ x.idx < y.idx) then some x else a) none
  let i := free.getD ((oldest.map (·.idx)).getD 0)
  ⟨i, now, asn, base, size, leaf⟩ :: l.filter (·.idx != i)

/-- What a translation attempt gives. -/
inductive Trans where
  | hit (e : W64) (pa : Nat)
  | miss
  | fault (badpte : Bool)
  deriving DecidableEq, Repr

/-- Low 57 bits of an address as a page base. -/
def vaLow (va : W64) : Nat := (va.setWidth 57).toNat

/-- Translates under the L1 TLB of a core: a hit, a fault that a walk has found, or a miss that starts a walk (R333, R335). -/
def State.translate (s : State) (core ctx : Nat) (va : W64) : Trans × State :=
  let asn := s.asnOf ctx
  let priv := s.privOf ctx
  let v := vaLow va
  let page := v / 65536
  match tlbFind (s.core core).tlb asn v with
  | some e =>
    let s1 := s.modCore core fun c => { c with tlb := tlbUse c.tlb e s.ccount }
    if !isFen e.leaf && paClass (leafPA e.leaf) == 0 && isRegBlock (paLow (leafPA e.leaf)) && !priv then (.fault true, s1)
    else (.hit e.leaf (leafPA e.leaf + (v - e.base)), s1)
  | none =>
    match s.walkFaults.find? fun f => f.core == core && f.asn == asn && f.page == page && f.priv == priv with
    | some f => (.fault f.badpte, { s with walkFaults := s.walkFaults.erase f })
    | none =>
      if s.walks.any fun p => p.2.core == core && p.2.asn == asn && vaLow p.2.va / 65536 == page && p.2.priv == priv then (.miss, s)
      else
        let (id, s1) := s.fresh
        let root := ((s.ctx? ctx).map (·.root)).getD 0
        (.miss, { s1 with walks := kset s1.walks id ⟨core, asn, root, va, priv, false⟩ }.schedPath .pageWalk [id])

/-- PAGE_WALK (R333, R335): the walker answers from the die's last-level TLB or by reading the table levels at their homes; a
walk that an invalidation made stale is repeated (R352), and one that meets a refresh waits for it (R341). -/
def execPageWalk (s : State) : Out :=
  .next (match kget s.walks s.a0 with
  | none => s
  | some w =>
    if w.stale then
      { s with walks := kset s.walks s.a0 { w with stale := false } }.schedPath .pageWalk [s.a0]
    else
      let s1 := { s with walks := kdel s.walks s.a0 }
      let d := dieOf w.core
      let v := vaLow w.va
      let keep := fun (s : State) (base size : Nat) (e : W64) => s.modCore w.core fun c => { c with
        tlb := if (tlbFind c.tlb w.asn v).isSome then c.tlb else tlbInsert c.tlb w.asn base size e s.ccount 128 }
      match tlbFind (s.die d).tlb w.asn v with
      | some e => keep (s1.modDie d fun x => { x with tlb := tlbUse x.tlb e s.ccount }) e.base e.size e.leaf
      | none =>
        if (s.walkReads w.va 5 0 w.root).any s.meetsRefresh then s.sched 1 .pageWalk [s.a0] else
        match s.walk w.root w.va w.priv with
        | .leaf e size =>
          let base := v / size * size
          keep (s1.modDie d fun x => { x with tlb := tlbInsert x.tlb w.asn base size e s.ccount 8192 }) base size e
        | .bad b => { s1 with walkFaults := s1.walkFaults ++ [⟨w.core, w.asn, v / 65536, w.priv, b⟩] })

/-! ## Checks of an access -/

/-- What an access needs. -/
inductive Need where
  | read | write | exec
  deriving DecidableEq, Repr

/-- The result of the checks on one address. -/
inductive Acc where
  | ok (e : W64) (pa : Nat)
  | wait
  | bad (b : Bad)
  deriving DecidableEq, Repr

def Need.perm (n : Need) (e : W64) : Bool :=
  match n with
  | .read => leafRD e
  | .write => leafWR e
  | .exec => leafEX e

/-- Checks 2 to 4 of R161 on one address: canonical and mapped, permitted, of the right class. `fen`: the access is a Fen
operation, which needs a Fen page, whatever its permissions (R333, R287). -/
def State.checkVa (s : State) (core ctx : Nat) (va : W64) (need : Need) (fen : Bool) : Acc × State :=
  let wr := need == .write
  let fe := need == .exec
  if !canonical va then (.bad ⟨cPAGE, va, 0, wr, fe, false⟩, s) else
  match s.translate core ctx va with
  | (.miss, s1) => (.wait, s1)
  | (.fault b, s1) => (.bad ⟨cPAGE, va, 0, wr, fe, b⟩, s1)
  | (.hit e pa, s1) =>
    if fen && !isFen e then (.bad ⟨cREGION, va, 0, wr, fe, false⟩, s1)
    else if !need.perm e then (.bad ⟨cPROT, va, 0, wr, fe, false⟩, s1)
    else if isFen e != fen then (.bad ⟨cREGION, va, 0, wr, fe, false⟩, s1)
    else (.ok e pa, s1)

/-- A data access of `size` bytes at a naturally aligned address: R161, then poison for what reads (R342). (DEDUCED, log 30.) -/
def State.checkData (s : State) (core ctx : Nat) (va : W64) (size : Nat) (need : Need) (reads : Bool) : Acc × State :=
  if va.toNat % size ≠ 0 then (.bad ⟨cALIGN, va, 0, need == .write, false, false⟩, s) else
  match s.checkVa core ctx va need false with
  | (.ok e pa, s1) =>
    if reads then
      match (if need == .write then s1.poisonIn pa size else s1.poisonRead core pa size) with
      | some p => (.bad ⟨cECC, va + w64 (p - pa), 0, false, false, false⟩, s1)
      | none => (.ok e pa, s1)
    else (.ok e pa, s1)
  | r => r

end Sys2Proof.Machine
end

