-- ==== Sys2Proof/Machine/Mem.lean ====
section
/-! DEFINITION. Memory operations in flight: how a load binds, a store enters the write masks and is accepted, an atomic is performed
at its home and returns (spec/10 R304 to R311, R317; spec/05 R151 to R153, R163; spec/06 R203). -/
namespace Sys2Proof.Machine

/-! ## Parts (R317) -/

/-- Cuts n bytes at pa at 64-byte sectors: (offset, address, length). -/
def cuts : Nat → Nat → Nat → Nat → List (Nat × Nat × Nat)
  | 0, _, _, _ => []
  | f + 1, off, pa, n =>
    if n = 0 then [] else
    let k := min n (64 - pa % 64)
    (off, pa, k) :: cuts f (off + k) (pa + k) (n - k)

/-- The parts of a load of n bytes for a lane, at an offset of its data; `unc`: the page is not cached (R334). -/
def loadParts (lane off pa n : Nat) (unc : Bool) : List Part :=
  (cuts 3 off pa n).map fun c => ⟨lane, c.1, c.2.1, c.2.2, [], 0, 0, none, false, none, unc, false⟩
/-- The parts of a store of bytes for a lane, which start at an offset of its data. -/
def storeParts (lane off pa : Nat) (bs : List Byte) (unc : Bool) : List Part :=
  (cuts 3 off pa bs.length).map fun c =>
    ⟨lane, c.1, c.2.1, c.2.2, (bs.drop (c.1 - off)).take c.2.2, 0, 0, none, false, none, unc, false⟩

/-- The group of an agent. -/
def Agent.group? : Agent → Option Nat
  | .scalar g => some g
  | .lane g => some g
  | _ => none

def Agent.isLane : Agent → Bool
  | .lane _ => true
  | _ => false

/-! ## Order inside a group (R309 to R311) -/

/-- Whether a load or atomic o (key k) of a group precedes, in group order, an access of a lane or scalar agent with key `key` and program
position `pos`: of the same stream, the scalar stream's in program order, or before the latest drain; a scalar
effect that has been released precedes the lane accesses that follow (R309). (DEDUCED, log 29.) -/
def precedes (k : Nat) (o : MemOp) (g key pos : Nat) (lane : Bool) (lastDrain : Nat) : Bool :=
  o.agent.group? == some g &&
    ((if !lane && !o.agent.isLane then decide (o.pos < pos ∨ (o.pos = pos ∧ k < key))
      else (o.agent.isLane == lane || (lane && o.kind != .load)) && decide (k < key)) || decide (k < lastDrain ∧ lastDrain ≤ key))

def MemOp.isRead (o : MemOp) : Bool := o.kind == .load || o.kind == .atomic || o.kind == .cas
def MemOp.unbound (o : MemOp) : Bool := o.isRead && o.parts.any (!·.bound)

/-- Whether every load that precedes an access has bound, the statuses of Fen takes and copies among them (R311). A released
scalar effect also follows every lane load of the blocks before its release. (DEDUCED, log 58.) -/
def State.loadsBound (s : State) (g key pos : Nat) (lane : Bool) : Bool :=
  let d := ((s.grp? g).map (·.lastDrain)).getD 0
  !(s.ops.any fun p => p.2.unbound && (precedes p.1 p.2 g key pos lane d || (!lane && p.2.agent == .lane g && decide (p.1 < key)))) &&
  !s.fenOps.any fun p => p.2.g == g && p.2.kind != .deposit && decide (p.1 < key)

/-- Whether a lane acquire of the group has not bound: nothing of the lane stream and no effect released after it is performed
before (R205). An atomic has bound when its old value has returned (R314). -/
def State.laneHeld (s : State) (g : Nat) : Bool :=
  (s.ops.any fun p => p.2.agent == .lane g && (p.2.order == .acq || p.2.order == .acqrel) && (p.2.kind != .load || p.2.unbound)) ||
  s.fenOps.any fun p => p.2.g == g && !p.2.scalar && p.2.kind != .deposit

/-- Whether an earlier read of the group in the same sector has not bound, or an earlier atomic there has not replied: its bytes enter the
masks with the reply (R307, R310). -/
def State.earlierRead (s : State) (g key pos : Nat) (lane : Bool) (sector : Nat) : Bool :=
  let d := ((s.grp? g).map (·.lastDrain)).getD 0
  s.ops.any fun p => p.2.isRead && precedes p.1 p.2 g key pos lane d &&
    p.2.parts.any fun q => (!q.bound || (p.2.kind != .load && q.fill.isSome)) && q.pa / 64 == sector

/-- Whether a masked byte of an operation in a range stands over one of another operation that is not accepted yet: the home takes the writes of
a core to a byte in the order in which they entered its masks (R307, R308). -/
def maskBehind (key lo n : Nat) : List MaskB → Bool
  | [] => false
  | x :: r => (x.id == key && x.acc.isNone && decide (lo ≤ x.off ∧ x.off < lo + n) &&
      r.any fun m => m.id != key && m.acc.isNone && m.off == x.off) || maskBehind key lo n r

/-- Whether an earlier write of the group to the line, or one of its core whose bytes entered the masks before, is not accepted yet (R310).
(DEDUCED, log 24.) -/
def State.earlierWrite (s : State) (core g key pa n : Nat) : Bool :=
  (s.ops.any fun p => p.2.agent.group? == some g && decide (p.1 < key) && (p.2.kind == .store || p.2.kind == .atomic || p.2.kind == .cas) &&
    p.2.parts.any fun q => q.gwct.isNone && q.pa / 256 == pa / 256) ||
  (match kget (s.core core).masks (pa / 256) with
    | some ms => maskBehind key (pa % 256) n ms
    | none => false)

/-- Whether an earlier part of the same lane is not taken yet: the parts of an access go in ascending address order (R317). -/
def partBefore (ps : List Part) (i : Nat) (open_ : Part → Bool) : Bool :=
  match ps[i]? with
  | some q => (ps.take i).any fun e => e.lane == q.lane && open_ e
  | none => false

/-! ## Forwarding (R152, R203, R311) -/

/-- The word of a held scalar store: its size, 0 for none. -/
def heldSize (w : W32) : Nat :=
  match (w.extractLsb' 25 7).toNat with
  | 0x2C => 1
  | 0x2D => 2
  | 0x2E => 4
  | 0x2F => 8
  | _ => 0

/-- Lays bytes over bytes: those of `top` at `pa2` on `bs` at `pa`. -/
def layOver (pa : Nat) (bs : List Byte) (pa2 : Nat) (top : List Byte) : List Byte :=
  (List.range bs.length).map fun i =>
    if pa2 ≤ pa + i ∧ pa + i < pa2 + top.length then top.getD (pa + i - pa2) 0 else bs.getD i 0

/-- The bytes of the group's own earlier stores that are not in the write masks yet: held ones for an early load, unperformed ones
in order. -/
def State.forward (s : State) (g key pos : Nat) (lane : Bool) (pa : Nat) (bs : List Byte) : List Byte :=
  let mine := s.ops.filter fun p => p.2.agent.group? == some g && p.2.kind == .store && !p.2.performed &&
    (if lane then decide (p.1 < key) else !p.2.agent.isLane && decide (p.2.pos < pos))
  let bs1 := mine.foldl (fun b p => p.2.parts.foldl (fun b q => layOver pa b q.pa q.data) b) bs
  if lane then bs1 else
    match s.grp? g with
    | none => bs1
    | some r => (r.cq.filter fun e => decide (e.pos < pos)).foldl (fun b e =>
        if heldSize e.word = 0 then b else layOver pa b (e.pa % 4503599627370496) (wBytes (heldSize e.word) e.y)) bs1

/-! ## Binding -/

/-- The masked bytes that an access does not take (R152): an early load those of the lane stores of its group's running block. -/
def State.skipsMask (s : State) (a : Agent) (m : MaskB) : Bool :=
  match a with
  | .scalar g => m.agent == .lane g && ((s.grp? g).map (·.inBlock m.id)).getD false
  | _ => false

/-- The masked bytes that an access of a core takes over bytes it reads. -/
def State.takenMasks (s : State) (core : Nat) (a : Agent) (pa n : Nat) : List MaskB :=
  if (s.core core).masks.isEmpty then [] else
  (List.range n).filterMap fun i => (s.masksAt core (pa + i)).find? fun m => !s.skipsMask a m

/-- The bytes of the home or of a copy as an early load sees them: without the lane stores of its group's running block (R152). -/
def State.unhidden (s : State) (a : Agent) (pa : Nat) (bs : List Byte) : List Byte :=
  match a with
  | .scalar g => match s.grp? g with
    | some r => if r.hid.isEmpty then bs else bs.mapIdx fun i b => (kget r.hid (pa + i)).getD b
    | none => bs
  | _ => bs

/-- Whether an acquire of .cl or wider would take a byte that another agent of its core has masked and that is not performed: it binds once the
write is performed (R307, R314, R326). (DEDUCED, log 69.) -/
def State.acquireWaits (s : State) (m : MemOp) (q : Part) : Bool :=
  (m.order == .acq || m.order == .acqrel) && (m.scope == .cl || m.scope == .dev || m.scope == .sys) &&
    (s.takenMasks m.core m.agent q.pa q.len).any fun x => x.agent.group? != m.agent.group?

/-- Whether bytes of an operation stand in a core's write masks: it is not performed yet. -/
def State.masked (s : State) (core id : Nat) : Bool := (s.core core).masks.any fun l => l.2.any (·.id == id)

/-- Binds a part to sector bytes: masks of the core over them, then forwarding (R307, R311). The masked bytes of other agents that it takes are
noted for the group's releases (R313). (DEDUCED, log 69.) -/
def State.bindPart (s : State) (o i : Nat) (m : MemOp) (q : Part) (sector : List Byte) : State :=
  let raw := s.unhidden m.agent q.pa ((sector.drop (q.pa % 64)).take q.len)
  let bs := s.overlayMasks m.core q.pa raw (s.skipsMask m.agent)
  let bs := match m.agent.group? with
    | some g => s.forward g o m.pos m.agent.isLane q.pa bs
    | none => bs
  let s1 := s.modOp o fun m => { m with parts := m.parts.mapIdx fun j p => if j = i then { p with data := bs, bound := true } else p }
  match m.agent.group? with
  | some g =>
    let ids := ((s.takenMasks m.core m.agent q.pa q.len).filter fun x => x.agent.group? != some g).map (·.id)
    if ids.isEmpty then s1 else s1.modGrp g fun r => { r with seen := (r.seen.filter (s1.masked m.core ·) ++ ids).eraseDups }
  | none => s1

/-- The event that writes a load's value once all is bound (R22, R204). -/
def State.returnIfBound (s : State) (o : Nat) : State :=
  match s.op? o with
  | none => s
  | some m => if m.unbound then s else s.schedPath (if m.agent.isLane then .laneLoadReturn else .scalarLoadReturn) [o]

/-- Whether a load binds at the home rather than in a copy: an acquire of .cl or wider (R314). -/
def MemOp.atHomeRead (m : MemOp) : Bool :=
  (m.order == .acq || m.order == .acqrel) && (m.scope == .cl || m.scope == .dev || m.scope == .sys)

/-- Whether a page's bytes are cached at all: not CLASS 2 host pages and not register blocks (R334). `cls` marks a host page that is
not mapped coherent. -/
def cacheable (pa : Nat) (noncoherent : Bool) : Bool :=
  match paClass pa with
  | 0 => !isRegBlock (paLow pa)
  | 1 => !noncoherent
  | _ => true

/-- Looks for one part in the core's L1, else asks the die's RDC and the home (R305, R338). Parts of one cacheable
sector share the request of the first. A part waits for the earlier parts of its lane (R317). (DEDUCED, log 58.) -/
def State.tryBind (s : State) (o i : Nat) : State :=
  match s.op? o with
  | none => s
  | some m =>
    match m.parts[i]? with
    | none => s
    | some q =>
      if q.bound || partBefore m.parts i (!·.bound) then s else
      let shared := cacheable q.pa q.unc && (List.range i).any fun j => match m.parts[j]? with
        | some p => !p.bound && p.pa / 64 == q.pa / 64 && !partBefore m.parts j (!·.bound)
        | none => false
      let ask := if shared then s else s.schedPath .homeRead [o, i]
      let behind := match m.agent.group? with
        | some g => s.earlierRead g o m.pos m.agent.isLane (q.pa / 64)
        | none => false
      if m.atHomeRead || behind || !cacheable q.pa q.unc then ask else
      match s.l1Hit m.core q.pa m.minFill with
      | some (bs, _, _) => (s.l1Touch m.core q.pa).bindPart o i m q bs
      | none => ask

/-- The later parts of lanes whose earlier part has bound since `old` look for their bytes (R317). -/
def State.tryRest (s : State) (o : Nat) (old : List Part) : State :=
  match s.op? o with
  | none => s
  | some m => (List.range m.parts.length).foldl (fun s i => match s.op? o with
      | some k => if partBefore old i (!·.bound) && !partBefore k.parts i (!·.bound) then s.tryBind o i else s
      | none => s) s

/-- Binds every unbound part of an operation that lies in a sector and whose turn it is. -/
def State.bindSector (s : State) (o : Nat) (m : MemOp) (pa : Nat) (bs : List Byte) : State :=
  ((List.range m.parts.length).foldl (fun s j =>
    match m.parts[j]? with
    | some q => if !q.bound && q.pa / 64 == pa / 64 && !partBefore m.parts j (!·.bound) then s.bindPart o j m q bs else s
    | none => s) s).tryRest o m.parts

/-- Performs a load: every part looks for its bytes. -/
def State.performLoad (s : State) (o : Nat) : State :=
  match s.op? o with
  | none => s
  | some m =>
    let s1 := s.modOp o fun m => { m with performed := true }
    ((List.range m.parts.length).foldl (fun s i => s.tryBind o i) s1).returnIfBound o

/-- A store enters the write masks of its core (R307, R151), part by part as their lines have a way in the L1 (R339); a write to a register
block or an uncached host page does not. Its parts travel to their homes. -/
def State.performStore (s : State) (o : Nat) : State :=
  match s.op? o with
  | none => s
  | some m =>
    let step := fun (a : Bool × State) (i : Nat) =>
      if !a.1 then a else
      match m.parts[i]? with
      | none => a
      | some q =>
        if q.ent then a else
        let enter := fun (s : State) => (s.modOp o fun m => { m with
          parts := m.parts.mapIdx fun j p => if j = i then { p with ent := true } else p }).schedPath .writeAccept [o, i]
        if !cacheable q.pa q.unc then (true, enter a.2) else
        match a.2.l1Alloc m.core q.pa with
        | some s1 => (true, enter (s1.maskWrite m.core q.pa (q.data.map some) o m.agent none))
        | none => (false, a.2)
    let (all, s1) := (List.range m.parts.length).foldl step (true, s)
    if all then s1.modOp o fun m => { m with performed := true } else s1

/-- Whether a part of an access to a peer has not left for its switch slice: it waits for its allowance unit (R416). -/
def State.unsent (s : State) (o : Nat) (m : MemOp) (i : Nat) : Bool :=
  match m.parts[i]? with
  | some q => paClass q.pa == 2 && q.gwct.isNone && !(s.die (dieOf m.core)).reqs.any fun x => x.op == o && x.part == i
  | none => false

/-- The lane access of a group that has requests to peers not sent: the lane stream stays behind it (R392, R416). (DEDUCED, log 43.) -/
def State.lanePeerOpen (s : State) (g : Nat) : Option (Nat × MemOp) :=
  s.ops.find? fun p => p.2.agent == .lane g && p.2.kind != .load && (List.range p.2.parts.length).any fun i => s.unsent p.1 p.2 i

/-- Performs a store as soon as the loads before it have bound (R311), behind the group's earlier stores. -/
def State.tryStore (s : State) (o : Nat) : State :=
  match s.op? o with
  | none => s
  | some m =>
    if m.performed then s else
    match m.agent.group? with
    | some g =>
      let behind := s.ops.any fun p => decide (p.1 < o) && p.2.agent.group? == some g && p.2.kind == .store && !p.2.performed
      if !behind && s.loadsBound g o m.pos m.agent.isLane then s.performStore o else s
    | none => s.performStore o

/-- Sends an atomic to its home, lane by lane as one request each (R163, R206). It waits for the loads before it (R311). -/
def State.tryAtomic (s : State) (o : Nat) : State :=
  match s.op? o with
  | none => s
  | some m =>
    if m.performed then s else
    match m.agent.group? with
    | some g =>
      if s.loadsBound g o m.pos m.agent.isLane then
        (List.range m.parts.length).foldl (fun s i => s.schedPath .atomicAtHome [o, i]) (s.modOp o fun m => { m with performed := true })
      else s
    | none => (List.range m.parts.length).foldl (fun s i => s.schedPath .atomicAtHome [o, i]) (s.modOp o fun m => { m with performed := true })

/-- Stores and atomics whose earlier loads have bound meanwhile (R311). -/
def State.tryWrites (s : State) : State :=
  s.ops.foldl (fun s p => if p.2.performed then s else
    match p.2.kind with
    | .store => s.tryStore p.1
    | .atomic | .cas => s.tryAtomic p.1
    | _ => s) s

/-! ## Atomic functions (R163, R206, R298) -/

/-- An integer atomic function on w-bit values (R163). -/
def atomFn (op : AtomOp) (w : Nat) (old x : W64) : W64 :=
  let o := old.toNat % 2 ^ w
  let b := x.toNat % 2 ^ w
  let so : Int := if o < 2 ^ (w - 1) then o else (o : Int) - 2 ^ w
  let sb : Int := if b < 2 ^ (w - 1) then b else (b : Int) - 2 ^ w
  w64 (match op with
    | .add => (o + b) % 2 ^ w
    | .and => o &&& b
    | .or => o ||| b
    | .xor => o ^^^ b
    | .min => if so ≤ sb then o else b
    | .max => if so < sb then b else o
    | .minu => min o b
    | .maxu => max o b
    | .swap => b)

end Sys2Proof.Machine
end

