-- ==== Sys2Proof/Machine/ScalarOps.lean ====
section
/-! DEFINITION. The discipline of the scalar stream (spec/05 R148 to R156): what an instruction needs, when it may issue, the drain,
held effects, traps after the drain; and ending of groups and teams (R181). -/
namespace Sys2Proof.Machine

/-! ## What an instruction reads, writes and counts (R22, R36, R148) -/

/-- Needs of a scalar instruction: registers read, destination, counter raised, whether it drains, whether it enters the commit
queue. -/
structure SNeeds where
  reads : List (BitVec 6)
  dest : Option (BitVec 6)
  ctr : Option Ctr
  drains : Bool
  held : Bool
  deriving DecidableEq, Repr

/-- Needs of an immediate or early instruction. -/
def SNeeds.plain (reads : List (BitVec 6)) (d : BitVec 6) : SNeeds := ⟨reads, some d, none, false, false⟩
/-- Needs of a draining instruction. -/
def SNeeds.drain (reads : List (BitVec 6)) (d : Option (BitVec 6)) : SNeeds := ⟨reads, d, none, true, false⟩
/-- Needs of an XCMD: its reply register, if named, raises TLC (R36). -/
def SNeeds.xcmd (d a b : BitVec 6) (c : Option Ctr) : SNeeds :=
  ⟨[a, b], if d = 0 then none else some d, c.or (if d = 0 then none else some .tlc), false, true⟩

/-- Registers s16 to s31, which LENQ copies (R32). -/
def snapRegs : List (BitVec 6) := (List.range 16).map fun i => BitVec.ofNat 6 (16 + i)

/-- Special registers of class L (R51). -/
def isLClass (i : Nat) : Bool := i == 0x07 || i == 0x08 || i == 0x09 || i == 0x10 || i == 0x11 || i == 0x13

/-- Needs of the scalar rows (R73, R74, R148, R36). Other rows need nothing. -/
def scalarNeeds : Instr → SNeeds
  | .sadd d a b | .ssub d a b | .smul d a b | .smulh d a b | .sdiv d a b | .sdivu d a b | .srem d a b | .sand d a b
  | .sor d a b | .sxor d a b | .sshl d a b | .sshr d a b | .ssra d a b | .smin d a b | .smax d a b | .sminu d a b
  | .smaxu d a b => .plain [a, b] d
  | .scmp _ d a b => .plain [a, b] d
  | .ssel d c a b => .plain [a, b, c] d
  | .spopc d a | .sclz d a => .plain [a] d
  | .saddi d a _ | .sandi d a _ | .sori d a _ | .sxori d a _ | .smuli d a _ => .plain [a] d
  | .sshli d a _ | .sshri d a _ | .ssrai d a _ => .plain [a] d
  | .sli d _ | .slui d _ => .plain [] d
  | .slxi d _ => .plain [d] d
  | .sldb d a _ | .sldh d a _ | .sldw d a _ | .sldd d a _ => { SNeeds.plain [a] d with ctr := some .ldc }
  | .sldsp d a _ => .plain [a] d
  | .sstb d a _ | .ssth d a _ | .sstw d a _ | .sstd d a _ => ⟨[d, a], none, some .stc, false, true⟩
  | .sstsp d a _ => ⟨[d, a], none, none, false, true⟩
  | .satom _ _ d a b => ⟨[a, b], some d, some (if d = 0 then .stc else .ldc), false, true⟩
  | .scas _ d a b => ⟨[d, a, b], some d, some .ldc, false, true⟩
  | .sbr _ a _ => ⟨[a], none, none, false, false⟩
  | .sjmp _ => ⟨[], none, none, false, false⟩
  | .sjmpr a | .sret a => ⟨[a], none, none, false, false⟩
  | .scall d _ => .plain [] d
  | .scallr d a => .plain [a] d
  | .lenq _ => ⟨snapRegs, none, none, false, false⟩
  | .lenqr a => ⟨a :: snapRegs, none, none, false, false⟩
  | .lsync | .stfence | .sexit => .drain [] none
  | .svrd d a _ => .drain [a] (some d)
  | .swaitc .. | .sfence _ | .barw .. | .baraw .. | .strap _ | .sbrk _ => .drain [] none
  | .swaitp _ a | .swaita a _ | .spop a => .drain [a] none
  | .bara .. => ⟨[], none, none, false, true⟩
  | .barinit _ a b => ⟨[a, b], none, none, false, true⟩
  | .sacq | .srel => ⟨[], none, none, false, true⟩
  | .syield | .snop => ⟨[], none, none, false, false⟩
  | .srds d a i => if isLClass i.toNat then .drain [a] (some d) else .plain [a] d
  | .swrs a i => ⟨[a], none, none, false, isLClass i.toNat⟩
  | .sal d a => .plain [a] d
  | .sbsal _ a _ => ⟨[a], none, none, false, false⟩
  | .stime d _ => .plain [] d
  | .cpy1d d a b | .cpy2d d a b | .cpyt d a b | .cpyres d a b => .xcmd d a b (some .cpc)
  | .cseal d a b | .cwaitb d a b | .btarg d a b | .fcfgCreate d a b | .fcfgDelete d a b
  | .fcfgReadCounters d a b | .trmark d a b | .wpset d a b | .fsdep d a b | .fstake d a b | .fscpy d a b => .xcmd d a b none
  | .xatom d a b => .xcmd d a b (some (if d = 0 then .stc else .tlc))
  | .cstat d a b | .bxfer d a b => .xcmd d a b (some .tlc)
  | _ => ⟨[], none, none, false, false⟩

/-! ## The drain (R151) -/

/-- The lane stream is idle: no block runs. -/
def Group.laneIdle (r : Group) : Bool := match r.blk with | some b => !b.running | none => true

/-- Steps 1 and 2 of the drain: the lane queue empty, the lane stream idle, every lane result written. -/
def Group.laneSettled (r : Group) : Bool := r.lq.isEmpty && r.laneIdle && r.lres.isEmpty

/-- Whether an SLDSP of the group issued before program position `pos` still waits for a load barrier (R36, R153): what writes the
scratchpad after it waits as well. (DEDUCED, log 29.) -/
def State.spLoadBefore (s : State) (g pos : Nat) : Bool :=
  s.ops.any fun p => p.2.kind == .spLoad && p.2.agent == .scalar g && decide (p.2.pos ≤ pos)

/-- Steps 4 and 5 of the drain: lane loads have written their registers, stores have entered the core's write masks. No SLDSP waits for
a load barrier. -/
def State.accessesSettled (s : State) (g : Nat) (r : Group) : Bool :=
  !(r.outs.any fun o => o.lane && o.ctr == .ldc && !o.done) && !s.spLoadBefore g r.pos &&
  !s.ops.any fun p => p.2.agent.group? == some g && p.2.kind == .store && !p.2.performed

/-- Every step of the drain holds with nothing left to release. -/
def State.quiet (s : State) (g : Nat) (r : Group) : Bool := r.laneSettled && r.cq.isEmpty && s.accessesSettled g r

/-- The drain completes: its checkpoint, with SPC at the draining instruction (R378). -/
def Group.drainDone (r : Group) (next : Nat) : Group :=
  { r with drain := false, drained := true, ck := r.checkpoint r.spc, lastDrain := next }

/-- A group that recognises the request: a group in a handler, or whose trap is being entered, does so at the SPOP of its TRAP entry or at
escalation (R390). -/
def Group.asked (r : Group) : Bool := r.preReq && r.trap.isNone && !r.rs.any (·.kind == .trap)

/-! ## Issue (R22, R38, R148, R149, R154) -/

/-- Whether an instruction may issue, stalls, or starts the drain. -/
inductive Turn where
  | go | stall | drain
  deriving DecidableEq, Repr

/-- The gate of a scalar instruction. -/
def State.gate (s : State) (g : Nat) (r : Group) (n : SNeeds) : Turn :=
  let pend := (n.reads ++ n.dest.toList).filterMap r.pend?
  let pushes := n.held || (n.dest.map isExecReg).getD false
  let needs := n.drains || n.reads.any isExecReg || pend.any (·.why == .reply) || (pushes && decide (64 ≤ r.cq.length))
  if needs && !r.drained && !s.quiet g r then .drain
  else if !pend.isEmpty then .stall
  else match n.ctr with
    | some c => if 63 ≤ r.ctr c then .stall else .go
    | none => .go

/-- How a scalar instruction ends its step: it goes on at SPC + 4; goes to an address; cannot issue yet; has issued and waits,
not complete; raises a trap; or the group has ended. -/
inductive SRes where
  | done (s : State)
  | jump (s : State) (pc : W64)
  | stay (s : State)
  | part (s : State)
  | trap (s : State) (b : Bad)
  | ended (s : State)

/-- Whether the executing instruction acts as a draining one (R28, R154). -/
def State.mustDrain (r : Group) (n : SNeeds) : Bool :=
  n.drains || n.reads.any isExecReg || ((n.reads ++ n.dest.toList).filterMap r.pend?).any (·.why == .reply) ||
    ((n.held || (n.dest.map isExecReg).getD false) && decide (64 ≤ r.cq.length))

/-- The executing unit has issued: `cur` names the unit only while its instruction has not issued. -/
def State.issued (s : State) : State := { s with cur := .none }

/-- A scalar trap: raised once the drain is done, after starting it where it is not (R155). -/
def State.scalarTrap (s : State) (g : Nat) (b : Bad) : State :=
  match s.grp? g with
  | none => s
  | some r => if r.drained || s.quiet g r then (s.raise g false b).issued else s.setGrp g { r with drain := true }

/-- The frame of every scalar instruction: the current group, its gate, the drain, and the advance of SPC (R165). -/
def scalarOp (i : Instr) (s : State) (k : Nat → Group → State → SRes) : Out :=
  .next (match s.cur with
  | .scalar g =>
    match s.grp? g with
    | none => s
    | some r =>
      match s.gate g r (scalarNeeds i) with
      | .stall => s
      | .drain => s.setGrp g { r with drain := true }
      | .go =>
        let r1 := if State.mustDrain r (scalarNeeds i) && !r.drained then r.drainDone s.nextId else r
        match k g r1 (s.setGrp g r1) with
        | .done s1 => (s1.modGrp g fun x => { x with spc := r.spc + 4, drain := false, drained := false, baraw := false }).issued
        | .jump s1 pc => (s1.modGrp g fun x => { x with spc := pc, drain := false, drained := false, baraw := false }).issued
        | .stay s1 => s1
        | .part s1 => s1.issued
        | .trap s1 b => s1.scalarTrap g b
        | .ended s1 => s1.issued
  | _ => s)

/-! ## Held effects (R148, R149, R398) -/

/-- The word of an instruction. -/
def wordOf (i : Instr) : W32 := (encode i).headD 0

/-- The address a held access keeps: its physical address, with bit 52 set for a host page that is not mapped coherent (R334); the mark is the
model's own, in the image as well. (DESIGN CHOICE, log 13.) -/
def boundPa (e : W64) (pa : Nat) : Nat := if paClass pa == 1 && !isCoherentHost e then pa + 4503599627370496 else pa

/-- Appends an entry to the commit queue: program position, word, bound address, operands, outstanding operation. (DEDUCED, log 66.) -/
def Group.push (r : Group) (i : Instr) (pa : Nat) (x y : W64) (id : Nat) (val : Option W64) : Group :=
  { r with cq := r.cq ++ [⟨r.pos, wordOf i, r.spc, pa, x, y, id, false, false, false, val⟩], pos := r.pos + 1 }

/-- The n-th register operand of an instruction, 0 where it has none (R398). -/
def Group.operand (r : Group) (i : Instr) (n : Nat) : W64 := ((scalarNeeds i).reads[n]?.map r.sread).getD 0

/-- Writes the destination of an immediate instruction: EXEC is written by a held effect (R148), which keeps the operands (R398). -/
def Group.put (r : Group) (i : Instr) (d : BitVec 6) (v : W64) : Group :=
  if isExecReg d then r.push i 0 (r.operand i 0) (r.operand i 1) 0 (some v) else r.swrite d v

/-- Marks a destination pending for an operation; EXEC waits in the commit queue (R22, R148). -/
def Group.await (r : Group) (i : Instr) (d : BitVec 6) (id : Nat) (why : PendWhy) (val : W64) : Group :=
  if d = 0 then r
  else
    let r1 := { r with pendS := r.pendS ++ [(⟨d, id, why, r.spc, val⟩ : PendS)] }
    if isExecReg d && why != .reply then r1.push i 0 (r.operand i 0) (r.operand i 1) id none else r1

/-! ## Ending (R181, R355) -/

/-- Notes the largest GWCT returned on a core for a context (R355). -/
def State.noteGwct (s : State) (core ctx g : Nat) : State :=
  s.modCore core fun c => { c with ctxG := kset c.ctxG ctx (max g (kgetD c.ctxG ctx 0)) }

/-- A team ends once every group has ended and its sequencer is idle, or at TEXIT with no engine operation left (R181, R246): its resources are free, and Alder places again in
the next cycle (R181, R362). The Willow reports the core's largest GWCT (R355). -/
def State.endTeamIfDone (s : State) (t : Nat) : State :=
  match s.team? t with
  | none => s
  | some m =>
    if m.ended.length = m.groups && ((m.seqSt == .exited && !(s.core m.core).eng.any (·.team == t)) || m.seqSt == .idle) then
      let g := kgetD (s.core m.core).ctxG m.ctx 0
      let s1 := { s with teams := kdel s.teams t, alder := { s.alder with passDue := true } }
      s1.modCtx m.ctx fun c => { c with live := c.live.erase t, gmax := max c.gmax g }
    else s

/-- A group ends: its registers, stack and queues are freed; the allotment is free from the next cycle (R181, R369). Its place among
the members holds 1,048,576, the key of no group. -/
def State.endGroup (s : State) (g : Nat) : State :=
  match s.grp? g with
  | none => s
  | some r =>
    let s1 := { s with groups := kdel s.groups g }
    let s2 := s1.modCore (coreOfG g) fun c => { c with
      freed := (s.ccount, (if c.freed.1 = s.ccount then c.freed.2 else 0) + r.allot) }
    (s2.modTeam r.team fun m => { m with
      ended := m.ended ++ [g], members := m.members.map fun x => if x = g then 1048576 else x }).endTeamIfDone r.team

end Sys2Proof.Machine
end

