-- ==== Sys2Proof/Machine/Scalar.lean ====
section
/-! DEFINITION. The scalar instructions at issue (spec/05_scalar_instructions.md, R157 to R187): arithmetic, constants, loads, the
checks and holding of stores and atomics, control transfer. -/
namespace Sys2Proof.Machine

/-! ## Arithmetic (R157, R158) -/

/-- An immediate instruction over two registers. -/
def alu2 (i : Instr) (d a b : BitVec 6) (f : W64 → W64 → W64) (s : State) : Out :=
  scalarOp i s fun g r s => .done (s.setGrp g (r.put i d (f (r.sread a) (r.sread b))))

/-- An immediate instruction over one register. -/
def alu1 (i : Instr) (d a : BitVec 6) (f : W64 → W64) (s : State) : Out :=
  scalarOp i s fun g r s => .done (s.setGrp g (r.put i d (f (r.sread a))))

/-- An instruction with a latency: the destination is pending until SCALAR_RESULT_WRITE (R157, R22). (DEDUCED, log 56.) -/
def aluLate (i : Instr) (d : BitVec 6) (lat : Nat) (f : Group → W64) (s : State) : Out :=
  scalarOp i s fun g r s =>
    let (id, s1) := s.fresh
    .done ((s1.setGrp g (r.await i d id .alu (f r))).sched lat .scalarResultWrite [g, id])

/-- Signed less-than on 64 bits. -/
def sltW (a b : W64) : Bool := a.slt b

/-- SDIV (R158). -/
def sdivW (a b : W64) : W64 := if b = 0 then -1 else BitVec.ofInt 64 (a.toInt.tdiv b.toInt)
/-- SDIVU (R158). -/
def sdivuW (a b : W64) : W64 := if b = 0 then -1 else w64 (a.toNat / b.toNat)
/-- SREM (R158). -/
def sremW (a b : W64) : W64 := if b = 0 then a else BitVec.ofInt 64 (a.toInt.tmod b.toInt)
/-- SMULH: bits 127:64 of the signed product (R157). -/
def smulhW (a b : W64) : W64 := BitVec.ofInt 64 (a.toInt * b.toInt / 2 ^ 64)
/-- Conditions of SCMP (R73). -/
def scmpHolds (c : SCond) (a b : W64) : Bool :=
  match c with
  | .eq => a == b
  | .ne => a != b
  | .lt => sltW a b
  | .ge => !sltW a b
  | .le => !sltW b a
  | .gt => sltW b a
  | .ltu => decide (a.toNat < b.toNat)
  | .geu => decide (b.toNat ≤ a.toNat)
  | .leu => decide (a.toNat ≤ b.toNat)
  | .gtu => decide (b.toNat < a.toNat)
/-- Number of set bits below a position. -/
def popGo (x : Nat) : Nat → Nat
  | 0 => 0
  | n + 1 => popGo x n + (if x.testBit n then 1 else 0)
/-- Number of set bits (R157). -/
def popW (w : Nat) (x : Nat) : Nat := popGo x w
/-- Number of leading zero bits of a w-bit number (R157). -/
def clzW (w x : Nat) : Nat := if x = 0 then w else w - 1 - Nat.log2 x

def execSadd (d a b : BitVec 6) (s : State) : Out := alu2 (.sadd d a b) d a b (· + ·) s
def execSsub (d a b : BitVec 6) (s : State) : Out := alu2 (.ssub d a b) d a b (· - ·) s
def execSmul (d a b : BitVec 6) (s : State) : Out := aluLate (.smul d a b) d 4 (fun r => r.sread a * r.sread b) s
def execSmulh (d a b : BitVec 6) (s : State) : Out := aluLate (.smulh d a b) d 4 (fun r => smulhW (r.sread a) (r.sread b)) s
def execSdiv (d a b : BitVec 6) (s : State) : Out := aluLate (.sdiv d a b) d 36 (fun r => sdivW (r.sread a) (r.sread b)) s
def execSdivu (d a b : BitVec 6) (s : State) : Out := aluLate (.sdivu d a b) d 36 (fun r => sdivuW (r.sread a) (r.sread b)) s
def execSrem (d a b : BitVec 6) (s : State) : Out := aluLate (.srem d a b) d 36 (fun r => sremW (r.sread a) (r.sread b)) s
def execSand (d a b : BitVec 6) (s : State) : Out := alu2 (.sand d a b) d a b (· &&& ·) s
def execSor (d a b : BitVec 6) (s : State) : Out := alu2 (.sor d a b) d a b (· ||| ·) s
def execSxor (d a b : BitVec 6) (s : State) : Out := alu2 (.sxor d a b) d a b (· ^^^ ·) s
def execSshl (d a b : BitVec 6) (s : State) : Out := alu2 (.sshl d a b) d a b (fun x y => x <<< (y.toNat % 64)) s
def execSshr (d a b : BitVec 6) (s : State) : Out := alu2 (.sshr d a b) d a b (fun x y => x >>> (y.toNat % 64)) s
def execSsra (d a b : BitVec 6) (s : State) : Out := alu2 (.ssra d a b) d a b (fun x y => x.sshiftRight (y.toNat % 64)) s
def execSmin (d a b : BitVec 6) (s : State) : Out := alu2 (.smin d a b) d a b (fun x y => if sltW y x then y else x) s
def execSmax (d a b : BitVec 6) (s : State) : Out := alu2 (.smax d a b) d a b (fun x y => if sltW x y then y else x) s
def execSminu (d a b : BitVec 6) (s : State) : Out := alu2 (.sminu d a b) d a b (fun x y => if y.ult x then y else x) s
def execSmaxu (d a b : BitVec 6) (s : State) : Out := alu2 (.smaxu d a b) d a b (fun x y => if x.ult y then y else x) s
def execScmp (c : SCond) (d a b : BitVec 6) (s : State) : Out :=
  alu2 (.scmp c d a b) d a b (fun x y => if scmpHolds c x y then 1 else 0) s
def execSsel (d c a b : BitVec 6) (s : State) : Out :=
  scalarOp (.ssel d c a b) s fun g r s =>
    .done (s.setGrp g (r.put (.ssel d c a b) d (if r.sread c ≠ 0 then r.sread a else r.sread b)))
def execSpopc (d a : BitVec 6) (s : State) : Out := alu1 (.spopc d a) d a (fun x => w64 (popW 64 x.toNat)) s
def execSclz (d a : BitVec 6) (s : State) : Out := alu1 (.sclz d a) d a (fun x => w64 (clzW 64 x.toNat)) s
def execSaddi (d a : BitVec 6) (imm : BitVec 13) (s : State) : Out := alu1 (.saddi d a imm) d a (· + imm.signExtend 64) s
def execSandi (d a : BitVec 6) (imm : BitVec 13) (s : State) : Out := alu1 (.sandi d a imm) d a (· &&& imm.setWidth 64) s
def execSori (d a : BitVec 6) (imm : BitVec 13) (s : State) : Out := alu1 (.sori d a imm) d a (· ||| imm.setWidth 64) s
def execSxori (d a : BitVec 6) (imm : BitVec 13) (s : State) : Out := alu1 (.sxori d a imm) d a (· ^^^ imm.setWidth 64) s
def execSshli (d a n : BitVec 6) (s : State) : Out := alu1 (.sshli d a n) d a (· <<< n.toNat) s
def execSshri (d a n : BitVec 6) (s : State) : Out := alu1 (.sshri d a n) d a (· >>> n.toNat) s
def execSsrai (d a n : BitVec 6) (s : State) : Out := alu1 (.ssrai d a n) d a (·.sshiftRight n.toNat) s
def execSmuli (d a : BitVec 6) (imm : BitVec 13) (s : State) : Out :=
  aluLate (.smuli d a imm) d 4 (fun r => r.sread a * imm.signExtend 64) s

/-- SLI, SLUI and SLXI (R159). -/
def execSli (d : BitVec 6) (imm : BitVec 19) (s : State) : Out :=
  scalarOp (.sli d imm) s fun g r s => .done (s.setGrp g (r.put (.sli d imm) d (imm.setWidth 64)))
def execSlui (d : BitVec 6) (imm : BitVec 19) (s : State) : Out :=
  scalarOp (.slui d imm) s fun g r s => .done (s.setGrp g (r.put (.slui d imm) d (imm.setWidth 64 <<< 13)))
/-- The value of SLXI over the old value of sd (R159). -/
def slxiVal (old : W64) (imm : BitVec 19) : W64 :=
  (if imm.getLsbD 18 then (0x1FFF : BitVec 13) else 0) ++ (old.extractLsb' 32 19 ||| imm) ++ old.extractLsb' 0 32
def execSlxi (d : BitVec 6) (imm : BitVec 19) (s : State) : Out :=
  scalarOp (.slxi d imm) s fun g r s => .done (s.setGrp g (r.put (.slxi d imm) d (slxiVal (r.sread d) imm)))

/-- The result of an arithmetic or constant instruction over its two register operands as read at issue (R157 to R159); `none` for an instruction
whose result depends on more. -/
def scalarResult (i : Instr) (x y : W64) : Option W64 :=
  match i with
  | .sadd .. => some (x + y)
  | .ssub .. => some (x - y)
  | .smul .. => some (x * y)
  | .smulh .. => some (smulhW x y)
  | .sdiv .. => some (sdivW x y)
  | .sdivu .. => some (sdivuW x y)
  | .srem .. => some (sremW x y)
  | .sand .. => some (x &&& y)
  | .sor .. => some (x ||| y)
  | .sxor .. => some (x ^^^ y)
  | .sshl .. => some (x <<< (y.toNat % 64))
  | .sshr .. => some (x >>> (y.toNat % 64))
  | .ssra .. => some (x.sshiftRight (y.toNat % 64))
  | .smin .. => some (if sltW y x then y else x)
  | .smax .. => some (if sltW x y then y else x)
  | .sminu .. => some (if y.ult x then y else x)
  | .smaxu .. => some (if x.ult y then y else x)
  | .scmp c .. => some (if scmpHolds c x y then 1 else 0)
  | .spopc .. => some (w64 (popW 64 x.toNat))
  | .sclz .. => some (w64 (clzW 64 x.toNat))
  | .saddi _ _ imm => some (x + imm.signExtend 64)
  | .sandi _ _ imm => some (x &&& imm.setWidth 64)
  | .sori _ _ imm => some (x ||| imm.setWidth 64)
  | .sxori _ _ imm => some (x ^^^ imm.setWidth 64)
  | .sshli _ _ n => some (x <<< n.toNat)
  | .sshri _ _ n => some (x >>> n.toNat)
  | .ssrai _ _ n => some (x.sshiftRight n.toNat)
  | .smuli _ _ imm => some (x * imm.signExtend 64)
  | .sli _ imm => some (imm.setWidth 64)
  | .slui _ imm => some (imm.setWidth 64 <<< 13)
  | .slxi _ imm => some (slxiVal x imm)
  | _ => none

/-- SCALAR_RESULT_WRITE (R157): the result of a multiply or divide is written after its latency. -/
def execScalarResultWrite (s : State) : Out :=
  .next (s.modGrp s.a0 fun r =>
    match r.pendS.find? (·.id == s.a1) with
    | some p => r.landS s.a1 p.val
    | none => match (r.ck :: (r.blk.map (·.ck)).toList ++ r.lq.map (·.ck)).findSome? (fun c => c.pend.find? (·.id == s.a1)) with
      | some p => r.landS s.a1 p.val
      | none => r)

/-! ## Loads and stores (R160 to R162) -/

/-- sa + sext(imm13) (R160). -/
def effAddr (r : Group) (a : BitVec 6) (imm : BitVec 13) : W64 := r.sread a + imm.signExtend 64

/-- Adds a scalar memory operation. -/
def scalarLoadOp (s : State) (g : Nat) (r : Group) (d : BitVec 6) (e : W64) (pa size id : Nat) : MemOp :=
  { kind := .load, agent := .scalar g, core := coreOfG g, dest := .sreg d, order := .relaxed, scope := .grp, fn := .int .add
    asize := size, parts := loadParts 96 0 pa size (paClass pa == 1 && !isCoherentHost e), pc := r.spc, waits := r.barrierIds, performed := false
    leaseLen := r.lease.toNat, minFill := r.acqT, t0 := s.ptime, out := id
    pos := r.pos }

/-- A load of `size` bytes: checked, counted, its register pending; performed at once unless a load barrier stands (R152, R153). -/
def earlyLoad (i : Instr) (d a : BitVec 6) (imm : BitVec 13) (size : Nat) (s : State) : Out :=
  scalarOp i s fun g r s =>
    match s.checkData (coreOfG g) r.ctx (effAddr r a imm) size .read true with
    | (.wait, s1) => .stay s1
    | (.bad b, s1) => .trap s1 b
    | (.ok e pa, s1) =>
      let (id, s2) := s1.fresh
      let r1 := (r.await i d id .load 0).addOut ⟨id, .ldc, false, true, false, r.spc, true⟩
      let s3 := (s2.setGrp g r1).setOp id (scalarLoadOp s2 g r d e pa size id)
      .done (if r.barrierIds.isEmpty then s3.performLoad id else s3)

def execSldb (d a : BitVec 6) (imm : BitVec 13) (s : State) : Out := earlyLoad (.sldb d a imm) d a imm 1 s
def execSldh (d a : BitVec 6) (imm : BitVec 13) (s : State) : Out := earlyLoad (.sldh d a imm) d a imm 2 s
def execSldw (d a : BitVec 6) (imm : BitVec 13) (s : State) : Out := earlyLoad (.sldw d a imm) d a imm 4 s
def execSldd (d a : BitVec 6) (imm : BitVec 13) (s : State) : Out := earlyLoad (.sldd d a imm) d a imm 8 s

/-- A held store: checked completely at issue, its translation bound, then in the commit queue (R149, R161). -/
def heldStore (i : Instr) (d a : BitVec 6) (imm : BitVec 13) (size : Nat) (s : State) : Out :=
  scalarOp i s fun g r s =>
    match s.checkData (coreOfG g) r.ctx (effAddr r a imm) size .write false with
    | (.wait, s1) => .stay s1
    | (.bad b, s1) => .trap s1 b
    | (.ok e pa, s1) =>
      let (id, s2) := s1.fresh
      .done (s2.setGrp g ((r.push i (boundPa e pa) (r.sread a) (r.sread d) id none).addOut ⟨id, .stc, false, false, false, r.spc, false⟩))

def execSstb (d a : BitVec 6) (imm : BitVec 13) (s : State) : Out := heldStore (.sstb d a imm) d a imm 1 s
def execSsth (d a : BitVec 6) (imm : BitVec 13) (s : State) : Out := heldStore (.ssth d a imm) d a imm 2 s
def execSstw (d a : BitVec 6) (imm : BitVec 13) (s : State) : Out := heldStore (.sstw d a imm) d a imm 4 s
def execSstd (d a : BitVec 6) (imm : BitVec 13) (s : State) : Out := heldStore (.sstd d a imm) d a imm 8 s

/-- The checks of a scratchpad form (R162): alignment to 8, then the bound; poison for a load (R342). -/
def spCheck (t : Team) (off : W64) (load : Bool) : Option Bad :=
  if off.toNat % 8 ≠ 0 then some (bad cALIGN off 0)
  else if !t.spIn off.toNat 8 then some (bad cSPBOUND off 0)
  else if load && t.poison.contains (off.toNat / 8 * 8) then some (bad cECC off 0)
  else none

/-- The 8 bytes an SLDSP takes: those of the youngest held SSTSP that precedes it, the scratchpad's otherwise, without the lane stores of the
block that runs (R152, R162). -/
def spLoadVal (r : Group) (t : Team) (pos off : Nat) : W64 :=
  let base := (t.spGet off 8).mapIdx fun i b => (kget r.hidSp (off + i)).getD b
  bytesW 64 ((r.cq.filter fun e => decide (e.pos < pos) && (e.word.extractLsb' 25 7).toNat == 0x31).foldl
    (fun b e => layOver off b e.x.toNat (wBytes 8 e.y)) base)

/-- SLDSP (R162): early, like a load; held by load barriers like one (R153). -/
def execSldsp (d a : BitVec 6) (imm : BitVec 13) (s : State) : Out :=
  scalarOp (.sldsp d a imm) s fun g r s =>
    let off := effAddr r a imm
    match s.teamOf r with
    | none => .stay s
    | some t =>
      match spCheck t off true with
      | some b => .trap s b
      | none =>
        if r.barrierIds.isEmpty then .done (s.setGrp g (r.put (.sldsp d a imm) d (spLoadVal r t r.pos off.toNat)))
        else
          let (id, s1) := s.fresh
          let m := { scalarLoadOp s1 g r d 0 off.toNat 0 id with kind := .spLoad, parts := [], asize := off.toNat }
          .done ((s1.setGrp g (r.await (.sldsp d a imm) d id .load 0)).setOp id m)

/-- SSTSP (R162): checked at issue, held; `x` keeps the offset. -/
def execSstsp (d a : BitVec 6) (imm : BitVec 13) (s : State) : Out :=
  scalarOp (.sstsp d a imm) s fun g r s =>
    let off := effAddr r a imm
    match s.teamOf r with
    | none => .stay s
    | some t =>
      match spCheck t off false with
      | some b => .trap s b
      | none => .done (s.setGrp g (r.push (.sstsp d a imm) 0 off (r.sread d) 0 none))

/-! ## Atomics (R163, R164) -/

/-- Whether the home of an address can perform a scalar atomic: host memory admits some forms only (R404). -/
def State.hostAtomicOk (s : State) (pa : Nat) (admitted : Bool) : Bool := paClass pa != 1 || (s.hostAtomics && admitted)

/-- A held scalar atomic: `x` the comparand or address, `y` the operand; its destination waits for the reply (R154). -/
def heldAtomic (i : Instr) (d a b : BitVec 6) (ctr : Ctr) (admitted : Bool) (x : Group → W64) (s : State) : Out :=
  scalarOp i s fun g r s =>
    match s.checkData (coreOfG g) r.ctx (r.sread a) 8 .write true with
    | (.wait, s1) => .stay s1
    | (.bad e, s1) => .trap s1 { e with write := true }
    | (.ok e pa, s1) =>
      if !s1.hostAtomicOk pa admitted then .trap s1 ⟨cREGION, r.sread a, 0, true, false, false⟩ else
      let (id, s2) := s1.fresh
      let r1 := ((r.await i d id .reply 0).push i (boundPa e pa) (x r) (r.sread b) id none).addOut ⟨id, ctr, false, false, false, r.spc, false⟩
      .done (s2.setGrp g { r1 with barrierIds := r1.barrierIds ++ [id] })

def execSatom (op : AtomOp) (sc : Scope) (d a b : BitVec 6) (s : State) : Out :=
  heldAtomic (.satom op sc d a b) d a b (if d = 0 then .stc else .ldc) (op == .add || op == .swap) (fun r => r.sread a) s
def execScas (sc : Scope) (d a b : BitVec 6) (s : State) : Out :=
  heldAtomic (.scas sc d a b) d a b .ldc true (fun r => r.sread d) s

/-! ## Control transfer (R165) -/

/-- A condition on a register (R70). -/
def condHolds (c : Cond) (x : W64) : Bool :=
  match c with
  | .al => true
  | .eqz => x == 0
  | .nez => x != 0
  | .ltz => x.msb
  | .gez => !x.msb
  | .lez => x.msb || x == 0
  | .gtz => !x.msb && x != 0
  | .bs => x.getLsbD 0
  | .bc => !x.getLsbD 0

/-- pc + 4 × sext(off). -/
def relTarget {w : Nat} (pc : W64) (off : BitVec w) : W64 := pc + (off.signExtend 64 <<< 2)

def execSbr (c : Cond) (a : BitVec 6) (off : BitVec 15) (s : State) : Out :=
  scalarOp (.sbr c a off) s fun _ r s => if condHolds c (r.sread a) then .jump s (relTarget r.spc off) else .done s
def execSjmp (off : BitVec 19) (s : State) : Out :=
  scalarOp (.sjmp off) s fun _ r s => .jump s (relTarget r.spc off)
def execSjmpr (a : BitVec 6) (s : State) : Out := scalarOp (.sjmpr a) s fun _ r s => .jump s (r.sread a)
def execScall (d : BitVec 6) (off : BitVec 19) (s : State) : Out :=
  scalarOp (.scall d off) s fun g r s => .jump (s.setGrp g (r.put (.scall d off) d (r.spc + 4))) (relTarget r.spc off)
def execScallr (d a : BitVec 6) (s : State) : Out :=
  scalarOp (.scallr d a) s fun g r s => .jump (s.setGrp g (r.put (.scallr d a) d (r.spc + 4))) (r.sread a)
def execSret (a : BitVec 6) (s : State) : Out := scalarOp (.sret a) s fun _ r s => .jump s (r.sread a)

/-! ## Lane queue (R166 to R168) -/

/-- LENQ and LENQR (R166): the block's checkpoint and snapshot, at the end of the lane queue; a full queue stalls (R20). (DEDUCED, log 54.) -/
def enqueue (i : Instr) (entry : Group → W64) (s : State) : Out :=
  scalarOp i s fun g r s =>
    if 8 ≤ r.lq.length then .stay s
    else .done (s.setGrp g { r with lq := r.lq ++ [(⟨entry r, snapOf r.s, r.pos, r.checkpoint (r.spc + 4)⟩ : LqEntry)] })

def execLenq (off : BitVec 19) (s : State) : Out := enqueue (.lenq off) (fun r => relTarget r.spc off) s
def execLenqr (a : BitVec 6) (s : State) : Out := enqueue (.lenqr a) (fun r => r.sread a) s
/-- LSYNC (R167): the drain alone. -/
def execLsync (s : State) : Out := scalarOp .lsync s fun _ _ s => .done s

/-- A lane register read by a lane position: outside the window of a regroup it reads 0 (R59). -/
def Group.vread (r : Group) (reg lane : Nat) : W32 :=
  match r.rg with
  | some w => if w.base ≤ reg ∧ reg < w.base + w.count then r.vget reg lane else 0
  | none => r.vget reg lane

/-- SVRD (R168): the register is checked against the allotment after the drain, then the lane number. -/
def execSvrd (d a : BitVec 6) (n : BitVec 10) (s : State) : Out :=
  scalarOp (.svrd d a n) s fun g r s =>
    if 768 ≤ n.toNat ∨ r.allot ≤ n.toNat then .trap s (illegal 0x0001)
    else if 95 < (r.sread a).toNat then .trap s (illegal 0x0030)
    else .done (s.setGrp g (r.put (.svrd d a n) d ((r.vread n.toNat (r.sread a).toNat).setWidth 64)))

/-! ## Waits and fences (R169 to R174) -/

/-- SWAITC (R169). -/
def execSwaitc (l st c t : BitVec 3) (s : State) : Out :=
  scalarOp (.swaitc l st c t) s fun _ r s =>
    if r.ctr .ldc ≤ l.toNat ∧ r.ctr .stc ≤ st.toNat ∧ r.ctr .cpc ≤ c.toNat ∧ r.ctr .tlc ≤ t.toNat then .done s else .stay s

/-- A batch becomes idle when a wait on it returns; its FAULT bit stays until the number is opened again (R278); its pieces' GWCTs enter
GWCTMAX (R39, R319). -/
def Group.retireBatch (r : Group) (n : Nat) : Group :=
  let b := r.batches.getD n ⟨.idle, false, 0, 0, 0⟩
  { r with batches := r.batches.setIfInBounds n ⟨.idle, b.fault, 0, 0, 0⟩, gwctMax := max r.gwctMax b.gwct }

/-- A wait on a batch of a group returns: the batch is idle, and a fence of the group covers its posted host writes from now on (R319). -/
def State.retire (s : State) (g n : Nat) : State :=
  { s.modGrp g (·.retireBatch n) with
    posted := s.posted.map fun p => if p.1 = (1 + n) * 1048576 + g then (g, p.2) else p }

/-- SWAITP (R170). -/
def execSwaitp (p : WaitPath) (a : BitVec 6) (s : State) : Out :=
  scalarOp (.swaitp p a) s fun g r s =>
    let v := (r.sread a).toNat
    let upTo := fun c => if r.ctr c ≤ v ∨ 63 ≤ v then SRes.done s else SRes.stay s
    match p with
    | .ldc => upTo .ldc
    | .stc => upTo .stc
    | .cpc => upTo .cpc
    | .tlc => upTo .tlc
    | .cp =>
      if 16 ≤ v ∨ v = r.openB then .trap s (illegal 0x0031) else
      match (r.batches.getD v ⟨.idle, false, 0, 0, 0⟩).st with
      | .idle => .done s
      | .complete => .done ((s.setGrp g r).retire g v)
      | _ => .stay s

/-- The condition of SFENCE of a scope over the group's earlier accesses (R171); a write that a load of the group took from the write masks of
its core is performed as well (R313). (DEDUCED, log 69.) -/
def State.fenceHolds (s : State) (g : Nat) (r : Group) (sc : Scope) : Bool :=
  let atomics := s.ops.any fun p => p.2.agent.group? == some g && (p.2.kind == .atomic || p.2.kind == .cas)
  let unmasked := s.ops.any fun p => p.2.agent.group? == some g && p.2.kind == .store && !p.2.performed
  let stores := r.outs.any fun o => o.ctr == .stc && (o.lane || o.rel) && !o.done
  let posted := s.posted.any fun p => p.1 == g
  let seen := r.seen.any fun id => s.masked (coreOfG g) id
  let global := !stores && !atomics && !seen && decide (r.gwctMax < s.ptime)
  match sc with
  | .grp => true
  | .team => !unmasked && !atomics
  | .cl | .dev => global
  | .sys => global && !posted

/-- SFENCE (R171). (DEDUCED, log 27.) -/
def execSfence (sc : Scope) (s : State) : Out :=
  scalarOp (.sfence sc) s fun g r s => if s.fenceHolds g r sc then .done s else .stay s

/-- STFENCE (R173): ARITH when FLAGS and FTRAPEN meet. -/
def execStfence (s : State) : Out :=
  scalarOp .stfence s fun _ r s =>
    if r.flags &&& r.ftrapen ≠ 0 then .trap s (bad cARITH 0 ((r.flags &&& r.ftrapen).setWidth 64)) else .done s

/-- SWAITA (R174): the check as a 1-byte load, then the watch; the group sleeps until GROUP_WAKE. A watch on a peer line is armed at its switch
slice by a packet (R413); one on a coherent host line at the table that its address would name among the switch slices. (DESIGN CHOICE,
log 70.) -/
def execSwaita (a : BitVec 6) (imm : BitVec 13) (s : State) : Out :=
  scalarOp (.swaita a imm) s fun g r s =>
    let va := effAddr r a imm
    match s.checkData (coreOfG g) r.ctx va 1 .read true with
    | (.wait, s1) => .stay s1
    | (.bad b, s1) => .trap s1 b
    | (.ok e pa, s1) =>
      if paClass pa = 1 ∧ !isCoherentHost e then .trap s1 ⟨cREGION, va, 0, false, false, false⟩ else
      let slice := if paClass pa = 0 then homeSlice (paLow pa) else 192 + switchSlice pa
      let s2 := s1.setGrp g { r.park .watch with watch := some ⟨pa / 256, slice, none, 0⟩ }
      let s3 := if paClass pa = 2 then
          s2.emit (portFor (dieOf (coreOfG g)) (peerModule pa)) (s2.monitorPacket (peerModule pa) (peerAddr pa) true)
        else s2
      .part (s3.schedPath .monitorArm [g])

/-! ## Barriers (R175 to R178) -/

/-- BARINIT (R175): its operands are checked at issue, the update is held. -/
def execBarinit (n : BitVec 4) (a b : BitVec 6) (s : State) : Out :=
  scalarOp (.barinit n a b) s fun g r s =>
    let x := r.sread a
    let y := r.sread b
    if 2 ≤ (x.extractLsb' 8 2).toNat ∨ x.toNat / 1024 ≠ 0 ∨ y.toNat / 4294967296 ≠ 0 then .trap s (illegal 0x0032)
    else .done (s.setGrp g (r.push (.barinit n a b) 0 x y 0 none))

/-- BARA (R176): held. -/
def execBara (n : BitVec 4) (sc : Scope) (s : State) : Out :=
  scalarOp (.bara n sc) s fun g r s => .done (s.setGrp g (r.push (.bara n sc) 0 0 0 0 none))

/-- An acquire of .cl or wider at this moment: later loads do not hit copies filled before it (R314). -/
def State.acquireNow (s : State) (g : Nat) (sc : Scope) : State :=
  match sc with
  | .cl | .dev | .sys => s.modGrp g fun r => { r with acqT := s.ptime }
  | _ => s

/-- A wait on a phase: it traps on a word in an error phase, returns when the phase has completed, and parks the group otherwise. -/
def barCheck (g : Nat) (r : Group) (n : BitVec 4) (sc : Scope) (w : Option BarW) (target : BitVec 32) (s : State) : SRes :=
  let past := s.setGrp g { r with arr := kdel r.arr n.toNat, barTarget := none, baraw := false }
  if waitOver w target then
    match w.filter (·.err) with
    | some x => .trap past (bad cMATRIX (w64 (x.pend + x.btarg * 4294967296)) (w64 (x.errcode + n.toNat * 65536)))
    | none => .done (past.acquireNow g sc)
  else .part (s.setGrp g { r.park (.barrier n) with barTarget := some target, arr := kset r.arr n.toNat target })

/-- The wait of BARW and BARAW (R177): on the record of an arrival, else on the phase that the wait meets; the record is kept until the
wait returns, so that it is saved with the group (R392). -/
def barWait (g : Nat) (r : Group) (n : BitVec 4) (sc : Scope) (s : State) : SRes :=
  match s.teamOf r with
  | none => .stay s
  | some t =>
    if !(t.bar n).armed && r.barTarget.isNone && !r.baraw then .trap s (illegal 0x0003) else
    let rec? := kget r.arr n.toNat
    match r.barTarget with
    | none =>
      if t.forwards r.team n then
        .part ((s.setGrp g { r.park (.barrier n) with barTarget := some (rec?.getD 0) }).barSend t (.groupWait t.home n.toNat g rec?))
      else barCheck g r n sc (some (t.bar n)) (rec?.getD (BitVec.ofNat 32 (t.bar n).phase)) s
    | some target => barCheck g r n sc (s.waitWord r.team t n) target s

/-- BARW (R177). -/
def execBarw (n : BitVec 4) (sc : Scope) (s : State) : Out := scalarOp (.barw n sc) s fun g r s => barWait g r n sc s

/-- BARAW (R176, R177): after the drain its arrival enters the commit queue and is released under its ordering condition; once it has been counted,
the wait on its record. (DEDUCED, log 28.) -/
def execBaraw (n : BitVec 4) (sc : Scope) (s : State) : Out :=
  scalarOp (.baraw n sc) s fun g r s =>
    if r.baraw then (if r.cq.isEmpty then barWait g r n sc s else .stay s)
    else
      let r1 := r.push (.baraw n sc) 0 0 0 0 none
      .part ((s.setGrp g { r1 with baraw := true, rel := some r1.pos }).schedOnce 0 .commitHeadResume [g, 0])

/-! ## Allotment and the end of a group (R179 to R181) -/

def execSacq (s : State) : Out := scalarOp .sacq s fun g r s => .done (s.setGrp g (r.push .sacq 0 0 0 0 none))
def execSrel (s : State) : Out := scalarOp .srel s fun g r s => .done (s.setGrp g (r.push .srel 0 0 0 0 none))
/-- SYIELD (R180): the scalar stream does not issue for the next 16 cycles. -/
def execSyield (s : State) : Out :=
  scalarOp .syield s fun g r s => .done ((s.setGrp g { r with holdUntil := s.ccount + 17 }).sched 17 .syieldExpiry [g])
/-- SYIELD_EXPIRY (R180). -/
def execSyieldExpiry (s : State) : Out :=
  .next (s.modGrp s.a0 fun r => if r.holdUntil ≤ s.ccount then { r with holdUntil := 0 } else r)
def execSnop (s : State) : Out := scalarOp .snop s fun _ _ s => .done s
/-- SEXIT (R181): a REGROUP entry is ILLEGAL; the group ends once its counters are 0. -/
def execSexit (s : State) : Out :=
  scalarOp .sexit s fun g r s =>
    if r.rs.any (·.kind == .regroup) then .trap s (illegal 0x0034)
    else if r.outs.isEmpty then .ended (s.endGroup g) else .stay s

/-! ## Special registers and time (R51 to R55, R182, R183) -/

/-- The code of an allotment state (R51). -/
def AllotSt.code : AllotSt → Nat
  | .prologue => 0
  | .waiting => 1
  | .full => 2

/-- LANEORG of a lane (R60). -/
def Group.laneorg (r : Group) (lane : Nat) : W64 :=
  match r.rg with
  | some w => (w.map.getD lane 0).setWidth 64
  | none => r.gid.setWidth 64 ||| (w64 lane <<< 8) ||| 0x8000

/-- The value of a special register (R51); `x` is the source operand of LANEORG. -/
def State.srRead (s : State) (g : Nat) (r : Group) (t : Team) (i : Nat) (x : W64) : W64 :=
  match i with
  | 0x00 => r.gid.setWidth 64 ||| (w64 (g % 32) <<< 4) ||| (w64 (slotOfG g) <<< 9)
  | 0x01 => t.tid
  | 0x02 => t.clpos
  | 0x03 => w64 (coreOfG g)
  | 0x04 => w64 (dieOf (coreOfG g))
  | 0x05 => w64 s.ptime
  | 0x06 => w64 s.wtime
  | 0x07 => r.flags.setWidth 64
  | 0x08 => r.ftrapen.setWidth 64
  | 0x09 => r.fmode.setWidth 64
  | 0x0A => w64 r.allot ||| (w64 t.fullAllot <<< 16) ||| (w64 r.allotSt.code <<< 32)
  | 0x0B => w64 t.spBase ||| (w64 t.spSize <<< 32)
  | 0x0C => r.trapcause
  | 0x0D => r.trapva
  | 0x0E => r.trapinfo
  | 0x0F => w64 r.lq.length
  | 0x10 => w64 r.rs.length
  | 0x11 => r.lease.setWidth 64
  | 0x12 => w64 s.stopat
  | 0x13 => r.laneorg x.toNat
  | 0x14 => s.salcfg.setWidth 64
  | 0x15 => r.trctl
  | 0x16 => r.trapspc
  | _ => r.traplpc

/-- SRDS (R182, R55). -/
def execSrds (d a : BitVec 6) (i : BitVec 7) (s : State) : Out :=
  scalarOp (.srds d a i) s fun g r s =>
    match s.teamOf r with
    | none => .stay s
    | some t =>
      if 0x18 ≤ i.toNat then .trap s (illegal 0x0004)
      else if i.toNat ≠ 0x13 ∧ a ≠ 0 then .trap s (illegal 0x0004)
      else if i.toNat = 0x13 ∧ 95 < (r.sread a).toNat then .trap s (illegal 0x0004)
      else .done (s.setGrp g (r.put (.srds d a i) d (s.srRead g r t i.toNat (r.sread a))))

/-- The bits of a writable register that are no zero field (R51); none for a read-only one or an index beyond 0x17. -/
def srMask (i : Nat) : Option W64 :=
  match i with
  | 0x07 => some 0xFF
  | 0x08 => some 0xFF
  | 0x09 => some 0xF
  | 0x0C => some 0x3FF
  | 0x0D => some (-1)
  | 0x0E => some 0x3FFFFF
  | 0x11 => some (-1)
  | 0x12 => some (-1)
  | 0x15 => some 0xFF01
  | 0x16 => some (-1)
  | 0x17 => some (-1)
  | _ => none

/-- LEASE clamped to 64 to 65,536 (R52). -/
def leaseClamp (v : W64) : BitVec 17 :=
  if v.toNat < 64 then 64 else if 65536 < v.toNat then 65536 else v.setWidth 17

/-- Writes an S-class register of the group (R51). -/
def Group.srWrite (r : Group) (i : Nat) (v : W64) : Group :=
  match i with
  | 0x0C => { r with trapcause := v }
  | 0x0D => { r with trapva := v }
  | 0x0E => { r with trapinfo := v }
  | 0x15 => { r with trctl := v }
  | 0x16 => { r with trapspc := v }
  | 0x17 => { r with traplpc := v }
  | _ => r

/-- SWRS (R182, R52): S-class at once, L-class held; STOPAT is privileged. -/
def execSwrs (a : BitVec 6) (i : BitVec 7) (s : State) : Out :=
  scalarOp (.swrs a i) s fun g r s =>
    let v := r.sread a
    if i.toNat = 0x12 ∧ !s.privOf r.ctx then .trap s (bad cPRIV 0 0) else
    match srMask i.toNat with
    | none => .trap s (illegal 0x0004)
    | some m =>
      if v &&& ~~~m ≠ 0 then .trap s (illegal 0x0004)
      else if isLClass i.toNat then .done (s.setGrp g (r.push (.swrs a i) 0 v 0 0 none))
      else if i.toNat = 0x12 then .done (s.setStopat v)
      else .done (s.setGrp g (r.srWrite i.toNat v))

/-- STIME (R183). -/
def execStime (d : BitVec 6) (wall : Bool) (s : State) : Out :=
  scalarOp (.stime d wall) s fun g r s => .done (s.setGrp g (r.put (.stime d wall) d (w64 (if wall then s.wtime else s.ptime))))

/-! ## Traps on request (R184, R387) -/

/-- STRAP (R184); code 0x1FFF inside a handler escalates with SPC past it (R387). -/
def execStrap (code : BitVec 13) (s : State) : Out :=
  scalarOp (.strap code) s fun g r s =>
    if code = 0x1FFF ∧ r.rs.any (·.kind == .trap) then
      .ended ((s.setGrp g { r with spc := r.spc + 4, drain := false, drained := false }).escalate g cBRK)
    else .trap s (bad cBRK 0 (code.setWidth 64 ||| 0x2000))

/-- FREPORT of a breakpoint (R444): core, resident group index or sequencer, stream, PC, effective mask, RSDEPTH. (DESIGN CHOICE, log 37.) -/
def breakReport (core agent stream : Nat) (pc : W64) (mask : Mask) (depth : Nat) : BitVec 256 :=
  BitVec.ofNat 256 core ||| (BitVec.ofNat 256 agent <<< 16) ||| (BitVec.ofNat 256 stream <<< 24) |||
    (BitVec.ofNat 256 depth <<< 32) ||| (pc.setWidth 256 <<< 64) ||| (mask.setWidth 256 <<< 128)

/-- SBRK (R184, R389): with the debugger attached the package freezes and the SBRK completes on resume; otherwise BRK. -/
def execSbrk (code : BitVec 13) (s : State) : Out :=
  scalarOp (.sbrk code) s fun g r s =>
    if s.bpSkip.contains (.scalar g) then .done { s with bpSkip := s.bpSkip.erase (.scalar g) }
    else if s.attach then
      let s1 := s.freeze 2 (breakReport (coreOfG g) (g % 32) 0 r.spc r.exec r.rs.length)
      .part { s1 with bpSkip := .scalar g :: s1.bpSkip, sent := s1.sent ++ [.debugReport code r.exec] }
    else .trap s (bad cBRK 0 (code.setWidth 64))

/-! ## Send allowances (R185, R186) -/

def execSal (d a : BitVec 6) (s : State) : Out :=
  scalarOp (.sal d a) s fun g r s =>
    let m := (r.sread a).toNat
    if 255 < m then .trap s (illegal 0x0033)
    else .done (s.setGrp g (r.put (.sal d a) d (w64 (s.salRead (dieOf (coreOfG g)) m))))

def execSbsal (e : BitVec 4) (a : BitVec 6) (off : BitVec 15) (s : State) : Out :=
  scalarOp (.sbsal e a off) s fun g r s =>
    let m := (r.sread a).toNat
    if 255 < m then .trap s (illegal 0x0033)
    else if 2 ^ e.toNat ≤ s.salRead (dieOf (coreOfG g)) m then .jump s (relTarget r.spc off) else .done s

/-! ## SPOP (R187) -/

/-- The code of an entry kind (R48). -/
def RKind.code : RKind → Nat
  | .div => 1
  | .call => 2
  | .trap => 3
  | .regroup => 4

/-- The 192 bytes of a reconvergence-stack entry (R48). -/
def RsEntry.bytes (e : RsEntry) : List Byte :=
  natBytes 8 e.kind.code ++ wBytes 8 e.resume ++ wBytes 8 e.reconv ++ wBytes 16 e.mask ++ wBytes 8 e.tspc ++
    e.tsnap.toList.flatMap (wBytes 8) ++ List.replicate 16 0

/-- SPOP (R187): copies the top entry out where asked, pops it, and returns from a trap for a TRAP entry. -/
def execSpop (a : BitVec 6) (s : State) : Out :=
  scalarOp (.spop a) s fun g r s =>
    match r.rs.getLast?, s.teamOf r with
    | none, _ => .trap s (bad cRSTACK 0 0)
    | _, none => .stay s
    | some e, some t =>
      let off := r.sread a
      if a ≠ 0 ∧ off.toNat % 64 ≠ 0 then .trap s (bad cALIGN off 0)
      else if a ≠ 0 ∧ !t.spIn off.toNat 192 then .trap s (bad cSPBOUND off 0)
      else
        let s1 := if a = 0 then s else s.spStore r.team off.toNat e.bytes
        let s2 := s1.modGrp g fun x => { x with rs := x.rs.dropLast }
        if e.kind = .trap then .jump (s2.modGrp g fun x => x.trapReturn e) e.tspc else .done s2

end Sys2Proof.Machine
end

