-- ==== Sys2Proof/Machine/Xcmd.lean ====
section
/-! DEFINITION. XCMD at issue (spec/09 R273, R274): privilege, the values of the register operands, and the entry in the commit
queue. What each function does at release is in Release.lean. -/
namespace Sys2Proof.Machine

/-- Bits of a word above position n are zero. -/
def highZero (x : W64) (n : Nat) : Bool := x >>> n == 0

/-- The checks of a scratchpad offset held in a register (R273): alignment, then the range. -/
def offCheck (t : Team) (off : W64) (align size : Nat) : Option Bad :=
  if off.toNat % align ≠ 0 then some (bad cALIGN off 0)
  else if !t.spIn off.toNat size then some (bad cSPBOUND off 0)
  else none

/-- The first failure of a list of checks. -/
def firstBad : List (Option Bad) → Option Bad
  | [] => none
  | some b :: _ => some b
  | none :: r => firstBad r

/-- Reserved codes (0x0017) and reserved bits (0x0061) of an XCMD's operands (R273). -/
def codeOk (ok : Bool) : Option Bad := if ok then none else some (illegal 0x0017)
def bitsOk (ok : Bool) : Option Bad := if ok then none else some (illegal 0x0061)

/-- Enters an XCMD into the commit queue: the reply pending, the counter raised, a load barrier noted (R274, R36, R153). -/
def Group.pushX (r : Group) (i : Instr) (d : BitVec 6) (pa : Nat) (x y : W64) (id : Nat) (barrier : Bool) : Group :=
  let r1 := (r.await i d id .reply 0).push i pa x y id none
  let r2 := match (scalarNeeds i).ctr with
    | some c => r1.addOut ⟨id, c, false, false, false, r.spc, false⟩
    | none => r1
  if barrier then { r2 with barrierIds := r2.barrierIds ++ [id] } else r2

/-- The issue of an XCMD without a memory access: `chk` gives its failures in the order of R273. (DEDUCED, log 55.) -/
def xcmdOp (i : Instr) (d a b : BitVec 6) (priv barrier : Bool) (chk : Group → Team → W64 → W64 → List (Option Bad))
    (s : State) : Out :=
  scalarOp i s fun g r s =>
    match s.teamOf r with
    | none => .stay s
    | some t =>
      let x := r.sread a
      let y := r.sread b
      if priv && !s.privOf r.ctx then .trap s (bad cPRIV 0 0) else
      match firstBad (chk r t x y) with
      | some e => .trap s e
      | none =>
        let (id, s1) := s.fresh
        .done (s1.setGrp g (r.pushX i d 0 x y id barrier))

/-- The copy commands (R275): sa bits 19:0 the descriptor offset. -/
def copyChk (d : BitVec 6) (_ : Group) (t : Team) (x y : W64) : List (Option Bad) :=
  [bitsOk (d == 0 && highZero x 20 && y == 0), offCheck t x 64 64]

def execCpy1d (d a b : BitVec 6) (s : State) : Out := xcmdOp (.cpy1d d a b) d a b false false (copyChk d) s
def execCpy2d (d a b : BitVec 6) (s : State) : Out := xcmdOp (.cpy2d d a b) d a b false false (copyChk d) s
def execCpyt (d a b : BitVec 6) (s : State) : Out := xcmdOp (.cpyt d a b) d a b false false (copyChk d) s
def execCpyres (d a b : BitVec 6) (s : State) : Out := xcmdOp (.cpyres d a b) d a b false false (copyChk d) s

def execCseal (d a b : BitVec 6) (s : State) : Out :=
  xcmdOp (.cseal d a b) d a b false false (fun _ _ x y => [bitsOk (x == 0 && y == 0)]) s

/-- Whether a word is a CSEAL. -/
def isCseal (w : W32) : Bool := w.extractLsb' 25 7 == 0x7E && w.extractLsb' 0 7 == 0x05

/-- The batch that will be open when an instruction issuing now is released (R279): the CSEALs still held are counted. -/
def Group.openAtRelease (r : Group) : Nat := (r.openB + (r.cq.filter fun e => isCseal e.word).length) % 16

/-- CWAITB (R279): waiting on the batch that will be open is ILLEGAL with subcode 0x0031. -/
def execCwaitb (d a b : BitVec 6) (s : State) : Out :=
  xcmdOp (.cwaitb d a b) d a b false true (fun r _ x y => [bitsOk (highZero x 4 && y == 0),
    if x.toNat = r.openAtRelease then some (illegal 0x0031) else none]) s

def execCstat (d a b : BitVec 6) (s : State) : Out :=
  xcmdOp (.cstat d a b) d a b false true (fun _ _ x y => [bitsOk (x == 0 && y == 0)]) s

/-- Whether a word is a BTARG. -/
def isBtarg (w : W32) : Bool := w.extractLsb' 25 7 == 0x7E && w.extractLsb' 0 7 == 0x11

/-- BXFER (R284): the scope, the reserved bits, then the length and the target. -/
def execBxfer (d a b : BitVec 6) (s : State) : Out :=
  xcmdOp (.bxfer d a b) d a b false false (fun r _ _ y =>
    [codeOk (scopeOf (y.extractLsb' 32 3)).isSome, bitsOk (highZero y 35),
      if y.extractLsb' 0 32 == 0 || !(r.xtgtV || r.cq.any fun e => isBtarg e.word) then some (illegal 0x0063) else none]) s

/-- BTARG (R282, R283): the reserved bits of the selector. -/
def execBtarg (d a b : BitVec 6) (s : State) : Out :=
  xcmdOp (.btarg d a b) d a b false false (fun _ _ _ y =>
    [bitsOk (d == 0 && y.extractLsb' 29 2 == 0 && highZero y 32)]) s

/-! ## Scalar Fen forms (R293) -/

/-- The base address of a region's handle (R287). -/
def fenVa (handle : BitVec 32) : W64 := handle.setWidth 64 <<< 16

/-- Selectors of a pattern: no field holds code 3 (R290). -/
def selectorsOk (sel : BitVec 14) : Bool := (List.range 7).all fun f => sel.extractLsb' (2 * f) 2 != 3

/-- Translation and permissions of a Fen request (R287): copy reads, deposit writes, take does both. -/
def State.checkFen (s : State) (core ctx : Nat) (handle : BitVec 32) (k : FenKind) : Acc × State :=
  match k with
  | .deposit => s.checkVa core ctx (fenVa handle) .write true
  | .copy => s.checkVa core ctx (fenVa handle) .read true
  | .take =>
    match s.checkVa core ctx (fenVa handle) .read true with
    | (.ok _ _, s1) => s1.checkVa core ctx (fenVa handle) .write true
    | r => r

/-- FSDEP, FSTAKE and FSCPY (R293): control word, area, then the region's mapping; the region number is bound at issue. -/
def fenScalar (i : Instr) (k : FenKind) (d a b : BitVec 6) (s : State) : Out :=
  scalarOp i s fun g r s =>
    match s.teamOf r with
    | none => .stay s
    | some t =>
      let x := r.sread a
      let y := r.sread b
      let dep := k == .deposit
      let sel := x.extractLsb' 32 14
      match firstBad [codeOk ((scopeOf (x.extractLsb' 50 3)).isSome && (dep || selectorsOk sel)),
          bitsOk (x.extractLsb' 46 2 == 0 && x.extractLsb' 49 1 == 0 && highZero x 53 && highZero y 20 && (!dep || sel == 0)),
          offCheck t y 64 (if dep then 64 else 128)] with
      | some e => .trap s e
      | none =>
        match s.checkFen (coreOfG g) r.ctx (x.setWidth 32) k with
        | (.wait, s1) => .stay s1
        | (.bad e, s1) => .trap s1 e
        | (.ok leaf _, s1) =>
          let (id, s2) := s1.fresh
          .done (s2.setGrp g (r.pushX i d (leafFreg leaf) x y id (!dep)))

def execFsdep (d a b : BitVec 6) (s : State) : Out := fenScalar (.fsdep d a b) .deposit d a b s
def execFstake (d a b : BitVec 6) (s : State) : Out := fenScalar (.fstake d a b) .take d a b s
def execFscpy (d a b : BitVec 6) (s : State) : Out := fenScalar (.fscpy d a b) .copy d a b s

/-! ## FCFG (R301), XATOM (R298), TRMARK (R299), WPSET (R300) -/

/-- The bytes of scratchpad that an FCFG reads or writes: the record of a create, none for a delete, six counters of a read (R301). -/
def fcfgArea (x : W64) : Nat :=
  match (x.extractLsb' 8 2).toNat with
  | 0 => 64
  | 2 => 24
  | _ => 0

/-- The operands of an FCFG: operation 3 is reserved; create and read name an area. -/
def fcfgChk (_ : Group) (t : Team) (x y : W64) : List (Option Bad) :=
  [codeOk (x.extractLsb' 8 2 != 3), bitsOk (highZero x 10 && highZero y 20),
    if fcfgArea x = 0 then none else offCheck t y 1 (fcfgArea x)]

def execFcfgCreate (d a b : BitVec 6) (s : State) : Out := xcmdOp (.fcfgCreate d a b) d a b true true fcfgChk s
def execFcfgDelete (d a b : BitVec 6) (s : State) : Out := xcmdOp (.fcfgDelete d a b) d a b true true fcfgChk s
def execFcfgReadCounters (d a b : BitVec 6) (s : State) : Out := xcmdOp (.fcfgReadCounters d a b) d a b true true fcfgChk s

/-- The operation of an XATOM by its code, with its size (R298). -/
def xatomFn (code : Nat) : Option (AtomFn × Nat) :=
  match code with
  | 9 => some (.fadd64, 8)
  | 10 => some (.fadd32, 4)
  | 11 => some (.int .add, 4)
  | _ => (atomOf (BitVec.ofNat 4 code)).map fun o => (.int o, 8)

/-- The address of an XATOM: bits 56:0 of sa, sign-extended (R298). -/
def xatomVa (x : W64) : W64 := (x.setWidth 57).signExtend 64

def execXatom (d a b : BitVec 6) (s : State) : Out :=
  scalarOp (.xatom d a b) s fun g r s =>
    let x := r.sread a
    match xatomFn (x.extractLsb' 57 4).toNat, scopeOf (x.extractLsb' 61 3) with
    | some (_, size), some _ =>
      match s.checkData (coreOfG g) r.ctx (xatomVa x) size .write true with
      | (.wait, s1) => .stay s1
      | (.bad e, s1) => .trap s1 { e with write := true }
      | (.ok e pa, s1) =>
        let c := (x.extractLsb' 57 4).toNat
        if !s1.hostAtomicOk pa (c == 0 || c == 8 || c == 11) then .trap s1 ⟨cREGION, xatomVa x, 0, true, false, false⟩ else
        let (id, s2) := s1.fresh
        let i : Instr := .xatom d a b
        let r1 := (r.await i d id .reply 0).push i (boundPa e pa) x (r.sread b) id none
        .done (s2.setGrp g (r1.addOut ⟨id, if d = 0 then .stc else .tlc, false, false, false, r.spc, false⟩))
    | _, _ => .trap s (illegal 0x0017)

def execTrmark (d a b : BitVec 6) (s : State) : Out :=
  xcmdOp (.trmark d a b) d a b false false (fun _ _ _ y => [bitsOk (d == 0 && highZero y 16)]) s

def execWpset (d a b : BitVec 6) (s : State) : Out :=
  xcmdOp (.wpset d a b) d a b true false (fun _ t x y =>
    [bitsOk (d == 0 && highZero x 3 && highZero y 20), offCheck t y 32 32]) s

end Sys2Proof.Machine
end

