-- ==== Sys2Proof/Machine/Fen.lean ====
section
/-! DEFINITION. The Fen (spec/09 R287 to R297, R301; spec/11 R345 to R347): the home slice of a tuple, matching, stores and rings,
parked requests, statuses, the configuration of regions. -/
namespace Sys2Proof.Machine

/-! ## Homes and matching (R288 to R290) -/

/-- The slice that homes a region's tag (R289), die * 48 + slice. (DEDUCED, log 61.) -/
def fenHome (region : Nat) (tag : W32) : Nat :=
  let h : W32 := (tag * 0x9E3779B1) ^^^ (BitVec.ofNat 32 region * 0x85EBCA6B)
  h.toNat / 65536 % 192

/-- Word w of a tuple. -/
def fword (ws : List W32) (w : Nat) : W32 := ws.getD w 0

/-- The meta word that the device writes at a deposit (R288). -/
def metaWord (nf lane rgi core mdl : Nat) : W32 :=
  BitVec.ofNat 32 (nf % 8 + 8 * (lane % 128) + 1024 * (rgi % 32) + 32768 * (core % 512) + 16777216 * (mdl % 256))

/-- The 16 words of a tuple as deposited: tag, meta, fields up to NF, zeros above (R288). -/
def depositWords (ws : List W32) (lane rgi core mdl : Nat) : List W32 :=
  let nf := (fword ws 1).toNat % 8
  (List.range 16).map fun w =>
    if w = 0 then fword ws 0 else if w = 1 then metaWord nf lane rgi core mdl else if w / 2 ≤ nf then fword ws w else 0

/-- Whether a pattern matches a tuple of its region (R290). -/
def matchesTuple (q : FenReq) (u : List W32) : Bool :=
  fword q.words 0 == fword u 0 &&
  (List.range 7).all fun k =>
    let f := k + 1
    let pair := fun (l : List W32) => (fword l (2 * f + 1) ++ fword l (2 * f) : W64)
    match (q.sel.extractLsb' (2 * k) 2).toNat with
    | 0 => true
    | 1 => decide (f ≤ (fword u 1).toNat % 8) && pair u == pair q.words
    | 2 => decide (f ≤ (fword u 1).toNat % 8) && (pair u ^^^ pair q.words) &&& pair q.masks == 0
    | _ => false

/-! ## Stores and rings (R294, R295, R346) -/

/-- A region's part at a slice that holds nothing. -/
def FenPart.zero : FenPart := ⟨[], 0, 0, [], Vector.replicate 6 0⟩

def State.fenPart (s : State) (x region : Nat) : FenPart := kgetD (s.slice x).fen region FenPart.zero
def State.setFenPart (s : State) (x region : Nat) (p : FenPart) : State :=
  s.modSlice x fun z => { z with fen := kset z.fen region p }
/-- Adds to a counter of R301: 0 DEPOSITS, 1 TAKES, 2 COPIES, 3 SPILLS, 4 REFILLS, 5 PARKS. -/
def FenPart.count (p : FenPart) (i n : Nat) : FenPart :=
  { p with counts := p.counts.setIfInBounds i (p.counts.getD i 0 + BitVec.ofNat 32 n) }

/-- The sequence that marks an empty ring slot. -/
def emptySeq : W64 := 0xFFFFFFFFFFFFFFFF

/-- Addresses of a ring slot's tuple and sequence (R346). -/
def ringTuplePa (r : Region) (x i : Nat) : Nat := r.ringPa + (x * r.ring + i % r.ring) * 64
def ringSeqPa (r : Region) (x i : Nat) : Nat := r.seqPa + (x * r.ring + i % r.ring) * 8

/-- The tuple in a ring slot, none for an empty one. -/
def State.ringRead (s : State) (r : Region) (x i : Nat) : Option Tuple :=
  let q := bytesW 64 (s.homeBytes (ringSeqPa r x i) 8)
  if q = emptySeq then none else
    let bs := s.homeBytes (ringTuplePa r x i) 64
    some ⟨q.toNat, (List.range 16).map fun w => BitVec.ofNat 32 (fieldN bs (4 * w) 4)⟩

/-- The bytes of a tuple. -/
def tupleBytes (ws : List W32) : List Byte := (List.range 16).flatMap fun w => wBytes 4 (fword ws w)

/-- The live tuples of a ring from head to tail, with their slots. -/
def State.ringLive (s : State) (r : Region) (x : Nat) (p : FenPart) : List (Nat × Tuple) :=
  (List.range (p.tail - p.head)).filterMap fun k => (s.ringRead r x (p.head + k)).map fun t => (p.head + k, t)

/-- The head after empty slots (R346). -/
def State.ringHead (s : State) (r : Region) (x tail : Nat) : Nat → Nat → Nat
  | 0, h => h
  | n + 1, h => if h < tail ∧ (s.ringRead r x h).isNone then s.ringHead r x tail n (h + 1) else h

/-- Removes a slot's tuple: the empty marker, then the head (R346). -/
def State.ringTake (s : State) (r : Region) (x region i : Nat) : State :=
  let s1 := s.homeWrite (ringSeqPa r x i) ((wBytes 8 emptySeq).map some)
  let p := s1.fenPart x region
  s1.setFenPart x region { p with head := s1.ringHead r x p.tail (p.tail - p.head) p.head }

/-- Whether the ring has a free slot (R346). -/
def ringFree (r : Region) (p : FenPart) : Bool := decide (r.ring ≠ 0 ∧ p.tail - p.head < r.ring)

/-- The oldest of a list of tuples. -/
def oldestTuple : List Tuple → Option Tuple
  | [] => none
  | t :: r => match oldestTuple r with
    | some u => if u.sq < t.sq then some u else some t
    | none => some t

/-- Moves the oldest on-chip tuple to the ring's tail (R294, R346). -/
def State.fenSpill (s : State) (r : Region) (x region : Nat) : State :=
  let p := s.fenPart x region
  match oldestTuple p.onchip with
  | none => s
  | some t =>
    let s1 := s.setFenPart x region (FenPart.count { p with onchip := p.onchip.erase t, tail := p.tail + 1 } 3 1)
    (s1.homeWrite (ringTuplePa r x p.tail) ((tupleBytes t.words).map some)).homeWrite (ringSeqPa r x p.tail)
      ((natBytes 8 t.sq).map some)

/-- Stores a tuple on-chip with the slice's next deposit sequence. -/
def State.fenStore (s : State) (x region : Nat) (ws : List W32) : State :=
  let z := s.slice x
  let p := s.fenPart x region
  let s1 := s.setFenPart x region (FenPart.count { p with onchip := p.onchip ++ [⟨z.nextSeq, ws⟩] } 0 1)
  s1.modSlice x fun z => { z with nextSeq := z.nextSeq + 1 }

/-! ## Requests -/

def State.req? (s : State) (q : Nat) : Option FenReq := kget s.fenReqs q
def State.modReq (s : State) (q : Nat) (f : FenReq → FenReq) : State := { s with fenReqs := kmod s.fenReqs q f }

/-- Gives a request its status; it travels back to the requester (R292). -/
def State.fenAnswer (s : State) (q code copies : Nat) (reply : List W32) : State :=
  (s.modReq q fun r => { r with code := some code, copies := r.copies + copies, reply := reply }).schedPath .fenStatusReturn [q]

/-- The parked requests of a region at a slice that satisfy a test, in park order. -/
def State.fenParked (s : State) (x region : Nat) (f : FenReq → Bool) : List (Nat × FenReq) :=
  (s.slice x).parked.filterMap fun q => (s.req? q).bind fun r => if r.region == region && f r then some (q, r) else none

/-- Takes a request out of the parked table. -/
def State.unpark (s : State) (x q : Nat) : State := s.modSlice x fun z => { z with parked := z.parked.erase q }

/-- The event of a request's kind. -/
def FenKind.event : FenKind → Instr
  | .deposit => .fenDeposit
  | .take => .fenTake
  | .copy => .fenCopy

/-- Parks a request; a full table returns it to its core, which sends it again 256 cycles later (R295). -/
def State.fenPark (s : State) (x region q : Nat) : State :=
  if 512 ≤ (s.slice x).parked.length then s.sched 256 .fenRequestRetry [q]
  else
    let p := s.fenPart x region
    (s.setFenPart x region (p.count 5 1)).modSlice x fun z => { z with parked := z.parked ++ [q] }

/-! ## Service of a region at its slice (R322, R347) -/

/-- Whether an earlier deposit of the group to the same home and tag is still on its way: deposits of a group keep their order (R322). -/
def State.fenBehind (s : State) (q : Nat) (u : FenReq) : Bool :=
  u.kind == .deposit && u.fromPeer.isNone && s.timed.any fun e => e.i == .fenDeposit && e.args.length == 1 &&
    match s.req? (e.args.getD 0 q) with
    | some v => decide (e.args.getD 0 q < q) && v.g == u.g && v.fromPeer.isNone && v.region == u.region && fword v.words 0 == fword u.words 0
    | none => false

/-- Whether an access to ring slots from `lo`, n of them, meets a refresh of their DRAM channels (R341). -/
def State.ringRefreshes (s : State) (r : Region) (x lo n : Nat) : Bool :=
  (List.range n).any fun k => s.meetsRefresh (ringSeqPa r x (lo + k)) || s.meetsRefresh (ringTuplePa r x (lo + k))

/-- The cycles before a request acts: a take or copy searches the live slots of the ring, 4 in a cycle, the first in the cycle of its arrival
(R347); an access to the ring waits for a refresh (R341). (DESIGN CHOICE, log 68.) -/
def State.fenDelay (s : State) (rg : Region) (u : FenReq) : Nat :=
  let x := u.slice
  let p := s.fenPart x u.region
  if u.kind == .deposit then
    if decide (rg.onchip ≤ p.onchip.length) && ringFree rg p && s.ringRefreshes rg x p.tail 1 then 1 else 0
  else max (if s.ringRefreshes rg x p.head (p.tail - p.head) then 1 else 0) (((s.ringLive rg x p).length + 3) / 4 - 1)

/-- The next of the requests that wait behind a search acts, or searches itself. -/
def State.fenNext (s : State) (rg : Region) (x region : Nat) : State :=
  match (s.fenPart x region).queue with
  | [] => s
  | q :: _ => match s.req? q with
    | some u => s.sched (s.fenDelay rg u) u.kind.event [q, 1]
    | none => s

/-- A request reaches its home: at once ABSENT where its region does not exist (R294); it waits behind a search of its region (R347), or acts. -/
def State.fenServe (s : State) (q : Nat) (act : Region → FenReq → State → State) : State :=
  match s.req? q with
  | none => s
  | some u =>
    match kget s.alder.regions u.region with
    | none => s.fenAnswer q 5 0 []
    | some rg =>
      let p := s.fenPart u.slice u.region
      if s.a1 = 0 then
        if s.fenBehind q u then s.sched 1 u.kind.event [q]
        else if !p.queue.isEmpty then s.setFenPart u.slice u.region { p with queue := p.queue ++ [q] }
        else
          let n := s.fenDelay rg u
          if n = 0 then act rg u s else (s.setFenPart u.slice u.region { p with queue := [q] }).sched n u.kind.event [q, 1]
      else if p.queue.head? ≠ some q then s
      else if u.kind != .deposit && s.ringRefreshes rg u.slice p.head (p.tail - p.head) then s.sched 1 u.kind.event [q, 1]
      else (act rg u (s.setFenPart u.slice u.region { p with queue := p.queue.drop 1 })).fenNext rg u.slice u.region

/-- FEN_DEPOSIT (R294). -/
def execFenDeposit (s : State) : Out :=
  let q := s.a0
  .next (s.fenServe q fun rg u s =>
      let x := u.slice
      let served := s.fenParked x u.region fun r => r.kind == .copy && matchesTuple r u.words
      let s1 := served.foldl (fun s p =>
        let fp := s.fenPart x u.region
        ((s.setFenPart x u.region (fp.count 2 1)).unpark x p.1).fenAnswer p.1 2 0 u.words) s
      let n := served.length
      match (s1.fenParked x u.region fun r => r.kind == .take && matchesTuple r u.words).head? with
      | some (k, _) =>
        let fp := s1.fenPart x u.region
        (((s1.setFenPart x u.region ((fp.count 0 1).count 1 1)).unpark x k).fenAnswer k 2 0 u.words).fenAnswer q 1 n []
      | none =>
        let fp := s1.fenPart x u.region
        let behind := !(s1.fenParked x u.region fun r => r.kind == .deposit).isEmpty
        if fp.onchip.length < rg.onchip ∧ !behind then (s1.fenStore x u.region u.words).fenAnswer q 0 n []
        else if ringFree rg fp ∧ !behind then ((s1.fenSpill rg x u.region).fenStore x u.region u.words).fenAnswer q 0 n []
        else if !u.blk || rg.policyTrap then s1.fenAnswer q 4 n []
        else (s1.modReq q fun r => { r with copies := r.copies + n }).fenPark x u.region q)

/-- Where a candidate stands. -/
inductive Found where
  | onchip (t : Tuple)
  | ring (i : Nat) (t : Tuple)
  | parked (q : Nat) (r : FenReq)

/-- The candidate of lowest deposit sequence; parked deposits rank after stored tuples (R294). -/
def State.fenFind (s : State) (rg : Region) (x : Nat) (u : FenReq) : Option Found :=
  let p := s.fenPart x u.region
  let on := oldestTuple (p.onchip.filter fun t => matchesTuple u t.words)
  let ring := ((s.ringLive rg x p).filter fun e => matchesTuple u e.2.words).foldl (fun (a : Option (Nat × Tuple)) e => match a with
    | none => some e
    | some b => if e.2.sq < b.2.sq then some e else some b) none
  match on, ring with
  | some t, some (i, v) => some (if v.sq < t.sq then .ring i v else .onchip t)
  | some t, none => some (.onchip t)
  | none, some (i, v) => some (.ring i v)
  | none, none =>
    match (s.fenParked x u.region fun r => r.kind == .deposit && matchesTuple u r.words).head? with
    | some (q, r) => some (.parked q r)
    | none => none

/-- A take's or copy's arrival (R294). -/
def State.fenMatch (s : State) (q : Nat) (take : Bool) : State :=
  s.fenServe q fun rg u s =>
      let x := u.slice
      let found := fun (s : State) (ws : List W32) =>
        let fp := s.fenPart x u.region
        (s.setFenPart x u.region (fp.count (if take then 1 else 2) 1)).fenAnswer q 2 0 ws
      match s.fenFind rg x u with
      | some (.onchip t) =>
        let fp := s.fenPart x u.region
        found (if take then s.setFenPart x u.region { fp with onchip := fp.onchip.erase t } else s) t.words
      | some (.ring i t) => found (if take then s.ringTake rg x u.region i else s) t.words
      | some (.parked k r) =>
        if take then
          let s1 := (s.unpark x k).fenAnswer k 0 0 []
          let fp := s1.fenPart x u.region
          found (s1.setFenPart x u.region (fp.count 0 1)) r.words
        else found s r.words
      | none => if u.blk then s.fenPark x u.region q else s.fenAnswer q 3 0 []

/-- FEN_TAKE (R294). -/
def execFenTake (s : State) : Out := .next (s.fenMatch s.a0 true)
/-- FEN_COPY (R294). -/
def execFenCopy (s : State) : Out := .next (s.fenMatch s.a0 false)

/-- FEN_REFILL (R295): the oldest live ring tuple moves on-chip; one that has been spilled in the same cycle stays (R352). -/
def execFenRefill (s : State) : Out :=
  let x := s.a0
  let region := s.a1
  .next (match kget s.alder.regions region with
  | none => s
  | some rg =>
    let p := s.fenPart x region
    match (s.ringLive rg x p).head? with
    | some (i, t) =>
      if p.onchip.length < rg.onchip ∧ i < s.args.getD 2 p.tail ∧ !s.ringRefreshes rg x i 1 then
        (s.setFenPart x region (FenPart.count { p with onchip := p.onchip ++ [t] } 4 1)).ringTake rg x region i
      else s
    | none => s)

/-- FEN_PARKED_DEPOSIT_STORE (R294, R295): the oldest parked deposit of the region is stored, after a spill where only the ring has room. -/
def execFenParkedDepositStore (s : State) : Out :=
  let x := s.a0
  let region := s.a1
  .next (match kget s.alder.regions region, (s.fenParked x region fun r => r.kind == .deposit).head? with
  | some rg, some (q, r) =>
    if (s.fenPart x region).onchip.length < rg.onchip then
      ((s.unpark x q).fenStore x region r.words).fenAnswer q 0 0 []
    else if ringFree rg (s.fenPart x region) ∧ !s.ringRefreshes rg x (s.fenPart x region).tail 1 then
      (((s.unpark x q).fenSpill rg x region).fenStore x region r.words).fenAnswer q 0 0 []
    else s
  | _, _ => s)

/-- The move that the room at a slice admits in a cycle (R295): the storing of the oldest parked deposit, else one refill. -/
def State.fenMove (s : State) (x : Nat) : Option (Instr × List Nat) :=
  let z := s.slice x
  let room := fun (region : Nat) => match kget s.alder.regions region with
    | some rg => decide ((s.fenPart x region).onchip.length < rg.onchip)
    | none => false
  let ring := fun (region : Nat) => match kget s.alder.regions region with
    | some rg => ringFree rg (s.fenPart x region)
    | none => false
  match z.parked.findSome? fun q => (s.req? q).bind fun r =>
      if r.kind == .deposit && (room r.region || ring r.region) then some r.region else none with
  | some region => some (.fenParkedDepositStore, [x, region])
  | none =>
    (z.fen.find? fun p => room p.1 && decide (p.2.head < p.2.tail) && match kget s.alder.regions p.1 with
      | some rg => !(s.ringLive rg x p.2).isEmpty
      | none => false).map fun p => (.fenRefill, [x, p.1, p.2.tail])

/-- FEN_WITHDRAWAL (R393): a parked request is taken back; a request already served keeps its status. That of a peer is answered with code 255,
and one that has not yet reached its slice is waited for. (DESIGN CHOICE, log 61.) -/
def execFenWithdrawal (s : State) : Out :=
  let q := s.a0
  .next (match s.req? q with
  | some r =>
    if (s.slice r.slice).parked.contains q then
      if r.fromPeer.isSome then (s.unpark r.slice q).fenAnswer q 255 0 []
      else (s.unpark r.slice q).modReq q fun r => { r with withdrawn := true }
    else if r.fromPeer.isSome && s.timed.any (fun e => e.i == r.kind.event && e.args.head? == some q) then s.sched 1 .fenWithdrawal [q]
    else s
  | none => s)

/-- The status word (R292). -/
def fenStatus (code copies : Nat) : W32 := BitVec.ofNat 32 (code + 256 * min copies 255)

/-- The module that homes a region (R289): the own one where it holds the number; the spec names none for the others, and a module of the pod
may be one (R421). (DESIGN CHOICE, log 61.) -/
def State.fenModule (s : State) (region : Nat) : Nat :=
  let m := Config.fenModule region % 256
  if (kget s.alder.regions region).isSome ∨ (s.salcfg.extractLsb' 8 9).toNat ≤ m then s.modNum.toNat else m

/-- A request of a group that is not sent yet. -/
def State.fenMake (s : State) (q : FenReq) : State :=
  let (id, s1) := s.fresh
  { s1 with fenReqs := kset s1.fenReqs id { q with sent := false } }

/-- The operands and data of a Fen request in its packet (R410): kind, form, selectors, scope, handle, region; tuple or pattern, masks. `back`: the
packet takes back the request of an ESEQ (R393). (DESIGN CHOICE, log 14.) -/
def fenBen (q : FenReq) (back : Option Nat) : BitVec 256 :=
  let kind := match q.kind with | .deposit => 0 | .take => 1 | .copy => 2
  BitVec.ofNat 256 (kind + (if q.blk then 256 else 0) + (if back.isSome then 512 else 0) + q.sel.toNat * 65536 + q.sc.code.toNat * 4294967296 +
    q.handle * 2 ^ 64 + q.region * 2 ^ 96 + back.getD 0 * 2 ^ 128)
def fenData (q : FenReq) : List Byte := tupleBytes q.words ++ tupleBytes q.masks

/-- Sends a request to the Fen of a peer by the port of its die (R296, R411); `none` while the die may send the module no further one. -/
def State.fenToPeer (s : State) (k : Nat) (q : FenReq) : Option State :=
  (s.sendPeer (dieOf (coreOfG q.g)) q.dstMod 4 (coreOfG q.g) 0 k 0 (fenBen q none) (fenData q)).map fun s => s.modReq k fun q => { q with sent := true }

/-- Sends a request to its home slice of the own module after a path time. -/
def State.fenToSlice (s : State) (k : Nat) (q : FenReq) (time : Nat) : State :=
  (s.modReq k fun q => { q with sent := true }).sched time q.kind.event [k]

/-- The requests of a group that are not sent, in lane order. -/
def State.fenUnsent (s : State) (g : Nat) : List Nat :=
  s.fenReqs.filterMap fun p => if p.2.g = g ∧ p.2.fromPeer.isNone ∧ !p.2.sent ∧ !p.2.withdrawn then some p.1 else none

/-- Puts a waiting group into the list of a die, behind those that parked earlier, those of one cycle by core and resident group index (R373). -/
def insertSal (w : SalWait) : List SalWait → List SalWait
  | [] => [w]
  | x :: r => if x.since < w.since ∨ (x.since = w.since ∧ x.g < w.g) then x :: insertSal w r else w :: x :: r

/-- Parks a group on the allowance of a destination, with the cycle that gives its place (R156, R373). -/
def State.parkSal (s : State) (g dst need since : Nat) : State :=
  let d := dieOf (coreOfG g)
  if (s.die d).salWait.any (·.g == g) then s
  else (s.modGrp g (·.park (.sal dst))).modDie d fun x => { x with salWait := insertSal ⟨dst, g, need, since⟩ x.salWait }

/-- Every lane of a group's Fen instruction has been sent: one that does not block keeps no LSENT. -/
def State.lanesSent (s : State) (g : Nat) : State :=
  if s.fenOps.any (fun (p : Nat × FenOp) => p.2.g == g && p.2.blk && !p.2.scalar) then s else s.modGrp g fun r => { r with lsent := 0 }

/-- Sends the requests of a lane Fen instruction in ascending lane order; the first one without its allowance unit parks the group (R296).
`place`: the place of the list that the group holds while it is served (R373). -/
def fenPump (g time : Nat) (place : Option SalWait) : List Nat → State → State
  | [], s => s.lanesSent g
  | k :: r, s => match s.req? k with
    | none => fenPump g time place r s
    | some q =>
      let d := dieOf (coreOfG g)
      let mine := place.filter (·.dst == q.dstMod)
      if q.sent then fenPump g time place r s
      else if q.dstMod = s.modNum.toNat then fenPump g time place r (s.fenToSlice k q time)
      else if (mine.isNone && (s.die d).salWait.any (·.dst == q.dstMod)) || s.salRead d q.dstMod < 1 then
        s.parkSal g q.dstMod 1 ((mine.map (·.since)).getD s.ccount)
      else match (s.salTake d q.dstMod 1).fenToPeer k q with
        | some s1 => fenPump g time place r s1
        | none => s.sched 1 .fenRequestRetry [k]

/-- FEN_REQUEST_RETRY (R295): a request that found the parked table full is sent again; so is one that its die could not send to a peer. -/
def execFenRequestRetry (s : State) : Out :=
  .next (match s.req? s.a0 with
  | some r =>
    if r.withdrawn then s
    else if r.sent then s.schedPath r.kind.event [s.a0]
    else let (n, s1) := s.draw; fenPump r.g n none (s.fenUnsent r.g) s1
  | none => s)

/-- The reply of a held instruction is written: register, counter, load barrier (R154, R36, R153). -/
def Group.replied (r : Group) (id : Nat) (v : W64) : Group :=
  let r1 := (r.landS id v).outDone id
  { r1 with barrierIds := r1.barrierIds.filter (· != id) }

/-- The acquire of a match that returns FOUND (R314, R322). -/
def State.fenAcquire (s : State) (g : Nat) (q : FenReq) (code : Nat) : State :=
  if q.kind == .deposit || code != 2 then s else s.acquireNow g q.sc

/-- Notes the latest FOUND tuple of a group (R449). -/
def noteFound (r : Group) (q : FenReq) (code : Nat) : Group :=
  if code == 2 && q.kind != .deposit then { r with found := some (fword q.reply 0, q.region) } else r

/-- FEN_STATUS_RETURN (R292, R293, R297): a status reaches its requester and is written; with the last one the counter falls, a
blocked group is woken, and a refusal under the trap policy is raised. (DEDUCED, log 32.) -/
def execFenStatusReturn (s : State) : Out :=
  .next (match s.req? s.a0 with
  | none => s
  | some q =>
    let code := q.code.getD 5
    let s0 := { s with fenReqs := kdel s.fenReqs s.a0 }
    match q.fromPeer with
    | some p =>
      let r : Packet := { p with
        kind := 5, dst := p.src, src := s.modNum, cred := 0, time := w64 s.ptime
        ben := (fenStatus code q.copies).setWidth 256, data := if code = 2 then tupleBytes q.reply else [] }
      (s0.answered p r).emit (portFor (q.slice / 48) p.src.toNat) r
    | none =>
      match kget s0.fenOps q.op, s0.grp? q.g with
      | some o, some _ =>
        let st := fenStatus code q.copies
        let s1 := s0.modGrp q.g fun r => noteFound r q code
        if o.scalar then
          let s2 := if code = 2 ∧ q.kind ≠ .deposit then match s1.grp? q.g with
              | some r => s1.spStore r.team o.area (tupleBytes q.reply)
              | none => s1
            else s1
          let s3 := ((s2.modGrp q.g fun r => r.replied o.rid (st.setWidth 64)).fenAcquire q.g q code)
          let s4 := { s3 with fenOps := kdel s3.fenOps q.op }
          if code = 4 ∧ q.blk then
            (s4.modGrp q.g fun r => { r with cq := r.cq.map fun e => if e.id = o.rid then { e with acted := false } else e }).deferTrap
              q.g (bad cFENFULL (fenVa (BitVec.ofNat 32 q.handle)) 0) o.pc
          else s4
        else
          let s2 := s1.modGrp q.g fun r =>
            let r1 := r.vput o.vs q.lane [st]
            let rest := s0.fenReqs.any fun (p : Nat × FenReq) => p.2.op == q.op && !p.2.sent
            let r2 := if o.blk || rest then { r1 with lsent := r1.lsent ||| ((1 : Mask) <<< q.lane) } else r1
            if code = 2 ∧ q.kind ≠ .deposit then r2.vput o.vd q.lane ((List.range 16).map (fword q.reply)) else r2
          let low : Bool := match o.fullHandle with | some (_, l) => decide (q.lane < l) | none => true
          let full := if code == 4 && q.blk && low then some (q.handle, q.lane) else o.fullHandle
          let o1 := { o with left := o.left - 1, fullHandle := full }
          let s3 := s2.fenAcquire q.g q code
          if o1.left ≠ 0 then { s3 with fenOps := kset s3.fenOps q.op o1 } else
          let s4 := { s3 with fenOps := kdel s3.fenOps q.op }.modGrp q.g fun r =>
            let r1 := r.outDone q.op
            { r1 with pendV := r1.pendV.filter (·.id != q.op), fenOps := r1.fenOps.filter (· != q.op)
                      lsentV := r1.lsentV && !o.blk, lsent := if o.blk then 0 else r1.lsent }
          let s5 := if o.blk then s4.sched 1 (.groupWake q.g .fen) else s4
          match full with
          | some (h, l) => (s5.modGrp q.g fun r => { r with parked := none, lpc := o.pc }).raise q.g true
              (bad cFENFULL (fenVa (BitVec.ofNat 32 h)) (w64 (l * 256)))
          | none => s5
      | _, _ => s0)

/-! ## Regions (R301, R345, R346) -/

/-- The ways that hold a number of tuples. -/
def carveWays (n : Nat) : Nat := (n + 2047) / 2048

/-- Sets the carve of every slice; lines of a way that is carved are written back and invalidated (R345). The carved ways are the
highest-numbered ones. (DESIGN CHOICE, log 25.) -/
def State.setCarve (s : State) (ways : Nat) : State :=
  (List.range 192).foldl (fun s x =>
    let old := (s.slice x).carve
    if old = ways then s
    else if ways < old then s.modSlice x fun z => { z with carve := ways }
    else
      let gone := (s.slice x).l2.flatMap fun c => (c.2.ways.filter fun w => decide (16 - ways ≤ w.1)).map (·.2)
      (gone.foldl (fun s l => s.writeBack l) s).modSlice x fun z => { z with
        carve := ways, l2 := z.l2.map fun c => (c.1, { c.2 with ways := c.2.ways.filter fun w => decide (w.1 < 16 - ways) }) }) s

/-- The sum of ONCHIP over the regions. -/
def State.onchipSum (s : State) : Nat := s.alder.regions.foldl (fun a p => a + p.2.onchip) 0

/-- Whether a create record is valid (R301, R115, R346). -/
def fenRecordOk (bs : List Byte) : Bool :=
  let onchip := fieldN bs 8 2
  let ring := fieldN bs 12 4
  decide (1 ≤ onchip ∧ onchip ≤ 4096) &&
  (ring == 0 || (decide (16 ≤ ring ∧ ring ≤ 1048576) && ring &&& (ring - 1) == 0)) &&
  decide (fieldN bs 10 1 < 2) && fieldN bs 11 1 == 0 && fieldN bs 32 32 == 0 &&
  decide (fieldN bs 0 8 % 65536 = 0 ∧ fieldN bs 0 8 < 281474976710656)

/-- FCFG create with its ring addresses translated (R301): the status and the machine. -/
def State.fenCreate (s : State) (region : Nat) (bs : List Byte) (ringPa seqPa : Nat) : Nat × State :=
  if (kget s.alder.regions region).isSome then (1, s)
  else if 4096 < s.onchipSum + fieldN bs 8 2 then (2, s)
  else
    let rg : Region := ⟨w64 (fieldN bs 0 8), fieldN bs 8 2, fieldN bs 12 4, fieldN bs 10 1 % 2 == 1, ringPa, seqPa⟩
    let s1 := { s with alder := { s.alder with regions := kset s.alder.regions region rg } }
    (0, s1.setCarve (carveWays s1.onchipSum))

/-- Whether a region holds a tuple or a parked request at any slice. -/
def State.fenBusy (s : State) (region : Nat) (rg : Region) : Bool :=
  (List.range 192).any fun x =>
    let p := s.fenPart x region
    !p.onchip.isEmpty || !(s.ringLive rg x p).isEmpty || !(s.fenParked x region fun _ => true).isEmpty

/-- FCFG delete (R301). -/
def State.fenDelete (s : State) (region : Nat) : Nat × State :=
  match kget s.alder.regions region with
  | none => (3, s)
  | some rg =>
    if s.fenBusy region rg then (1, s) else
    let s1 := { s with alder := { s.alder with regions := kdel s.alder.regions region } }
    let s2 := { s1 with slices := s1.slices.map fun (p : Nat × Slice) => (p.1, { p.2 with fen := kdel p.2.fen region }) }
    (0, s2.setCarve (carveWays s2.onchipSum))

/-- The six counters of a region summed over the slices (R301). -/
def State.fenCounters (s : State) (region : Nat) : List Byte :=
  (List.range 6).flatMap fun i => wBytes 4 ((List.range 192).foldl
    (fun (a : W32) x => a + (s.fenPart x region).counts.getD i 0) 0)

end Sys2Proof.Machine
end

