-- ==== Sys2Proof/Machine/Release.lean ====
section
/-! DEFINITION. The release of held effects (spec/05 R148 to R156, spec/09 R275 to R301): what each does when it leaves the commit
queue, deferred traps, and the events of block starts, drains and waits at the head. -/
namespace Sys2Proof.Machine

/-- The result of trying to release the entry at the head of a commit queue. -/
inductive Rel where
  | gone (s : State)
  | wait (s : State)
  | defer (s : State) (b : Bad)

/-- The physical address that an entry keeps, and its mark of R334. -/
def CqEntry.addr (e : CqEntry) : Nat := e.pa % 4503599627370496
def CqEntry.uncached (e : CqEntry) : Bool := decide (4503599627370496 ≤ e.pa)

/-- Marks the entry at the head as acted. -/
def State.markActed (s : State) (g id : Nat) : State :=
  s.modGrp g fun r => { r with cq := match r.cq with
    | e :: rest => { e with acted := true, id := id } :: rest
    | [] => [] }

/-- The outstanding operation of an entry counts as released (R379). -/
def State.outRel (s : State) (g id : Nat) : State :=
  s.modGrp g fun r => { r with outs := r.outs.map fun o => if o.id = id then { o with rel := true } else o }

/-- Takes one unit of allowance for a request to a peer, or parks the group at the head (R156, R373): `none` where it waits. A
request already served by the list of R373 is marked paid. (DEDUCED, log 43.) -/
def State.needUnit (s : State) (g : Nat) (e : CqEntry) (dst : Nat) : Option State :=
  if e.paid || dst = s.modNum.toNat then some s
  else
    let d := dieOf (coreOfG g)
    if ((s.die d).salWait.any (·.dst == dst)) || s.salRead d dst < 1 then none
    else some (s.salTake d dst 1)

/-- With the unit it needs at a module, or waiting for it. -/
def State.withUnitAt (s : State) (g : Nat) (e : CqEntry) (dst : Nat) (f : State → Rel) : Rel :=
  match s.needUnit g e dst with
  | some s1 => f s1
  | none => .wait (s.parkSal g dst 1 s.ccount)
def State.withUnit (s : State) (g : Nat) (e : CqEntry) (pa : Nat) (f : State → Rel) : Rel :=
  if paClass pa = 2 then s.withUnitAt g e (peerModule pa) f else f s

/-- Releases a scalar store (R160, R150): it becomes an operation of the core's memory pipeline. -/
def State.relStore (s : State) (g : Nat) (r : Group) (e : CqEntry) (n : Nat) : Rel :=
  s.withUnit g e e.addr fun s =>
    let (k, s1) := s.fresh
    let m : MemOp := { kind := .store, agent := .scalar g, core := coreOfG g, dest := .none, order := .relaxed, scope := .grp
                       fn := .int .add, asize := n, parts := storeParts 96 0 e.addr (wBytes n e.y) e.uncached, pc := e.pc, waits := []
                       performed := false, leaseLen := r.lease.toNat, minFill := r.acqT, t0 := s.ptime
                       out := e.id, pos := e.pos }
    .gone (((s1.outRel g e.id).setOp k m).tryStore k)

/-- The entry of a held atomic after it is sent: it leaves, unless it waits to write EXEC (R148). -/
def afterSend (s : State) (g : Nat) (e : CqEntry) (d : BitVec 6) : Rel :=
  if isExecReg d then .wait (s.markActed g e.id) else .gone s

/-- Releases a scalar atomic (R163, R298): sent to the home of its address. -/
def State.relAtomic (s : State) (g : Nat) (r : Group) (e : CqEntry) (d : BitVec 6) (kind : OpKind) (fn : AtomFn) (size : Nat)
    (sc : Scope) (x y : W64) : Rel :=
  s.withUnit g e e.addr fun s =>
    let (k, s1) := s.fresh
    let m : MemOp := { kind := kind, agent := .scalar g, core := coreOfG g, dest := .sreg d, order := .relaxed, scope := sc
                       fn := fn, asize := size, parts := [⟨96, 0, e.addr, size, [], x, y, none, false, none, e.uncached, false⟩], pc := e.pc
                       waits := [], performed := false, leaseLen := r.lease.toNat, minFill := r.acqT
                       t0 := s.ptime, out := e.id, pos := e.pos }
    afterSend (((s1.outRel g e.id).setOp k m).tryAtomic k) g e d

/-- Applies a held write of a special register (R29, R52) in a cycle; flags set in it are ORed into FLAGS after the write (R30). -/
def Group.writeL (r : Group) (now i : Nat) (v : W64) : Group :=
  match i with
  | 0x07 => r.writeFlags now (v.setWidth 8)
  | 0x08 => { r with ftrapen := v.setWidth 8 }
  | 0x09 => { r with fmode := v.setWidth 4 }
  | 0x11 => { r with lease := leaseClamp v }
  | _ => r

/-! ## Copies (R275 to R279) -/

/-- A copy descriptor (R275). -/
structure CopyDesc where
  src : W64
  dst : W64
  len : Nat
  rows : Nat
  sstr : W64
  dstr : W64
  ssp : Bool
  dsp : Bool
  ben : Bool
  nb : BitVec 4
  esize : Nat
  form : Nat
  prog : Nat
  deriving DecidableEq, Repr

def descOf (bs : List Byte) : CopyDesc :=
  let fl : W64 := w64 (fieldN bs 40 2)
  { src := w64 (fieldN bs 0 8), dst := w64 (fieldN bs 8 8), len := fieldN bs 16 4, rows := fieldN bs 20 4
    sstr := w64 (fieldN bs 24 8), dstr := w64 (fieldN bs 32 8), ssp := fl.getLsbD 0, dsp := fl.getLsbD 1, ben := fl.getLsbD 2
    nb := fl.extractLsb' 3 4, esize := (fl.extractLsb' 7 2).toNat, form := fieldN bs 42 1, prog := fieldN bs 44 4 }

/-- The element size of a transposing copy (R275). -/
def CopyDesc.elem (d : CopyDesc) : Nat := 2 ^ d.esize

/-- Whether the fields are in range for a form (R275). -/
def CopyDesc.ok (d : CopyDesc) (form : CopyForm) (bs : List Byte) : Bool :=
  decide (1 ≤ d.len ∧ d.len ≤ 16777216 ∧ 1 ≤ d.rows ∧ d.rows ≤ 65536) && decide (fieldN bs 40 2 < 512) &&
  fieldN bs 43 1 == 0 && fieldN bs 48 16 == 0 && decide (d.prog % 8 = 0 ∧ 256 ≤ d.prog) &&
  (match form with
    | .c1d => d.rows == 1 && d.sstr == 0 && d.dstr == 0 && d.esize == 0
    | .c2d => d.esize == 0
    | .ct => d.esize != 3 && d.len % d.elem == 0)

/-- Destination rows and their length (R276). -/
def CopyDesc.dstRows (d : CopyDesc) (form : CopyForm) : Nat × Nat :=
  match form with
  | .c1d => (1, d.len)
  | .c2d => (d.rows, d.len)
  | .ct => (d.len / d.elem, d.rows * d.elem)

/-- The start of destination row r. -/
def CopyDesc.rowStart (d : CopyDesc) (r : Nat) : W64 := d.dst + w64 r * d.dstr

/-- The pieces of a row that starts at an address: split at every 64-byte boundary (R276). -/
def rowPieces (a : W64) (len : Nat) : Nat := (a.toNat % 64 + len + 63) / 64

/-- The number of pieces of rows r, r + 1, ... -/
def CopyDesc.pieces (d : CopyDesc) (len : Nat) : Nat → Nat → Nat
  | 0, _ => 0
  | n + 1, r => rowPieces (d.rowStart r) len + d.pieces len n (r + 1)

/-- Piece i: its row, its first byte within the row, its length (R276). -/
def CopyDesc.piece (d : CopyDesc) (len : Nat) : Nat → Nat → Nat → Option (Nat × Nat × Nat)
  | 0, _, _ => none
  | n + 1, r, i =>
    let a := (d.rowStart r).toNat % 64
    if i < rowPieces (d.rowStart r) len then
      let lo := if i = 0 then 0 else 64 * i - a
      some (r, lo, min len (64 * (i + 1) - a) - lo)
    else d.piece len n (r + 1) (i - rowPieces (d.rowStart r) len)

/-- The source address of byte j of destination row r (R276). -/
def CopyDesc.srcOf (d : CopyDesc) (form : CopyForm) (r j : Nat) : W64 :=
  match form with
  | .c1d => d.src + w64 j
  | .c2d => d.src + w64 r * d.sstr + w64 j
  | .ct => d.src + w64 (j / d.elem) * d.sstr + w64 (r * d.elem + j % d.elem)

/-- Whether every row of a scratchpad range lies in the allocation above the barriers (R276). -/
def spRows (t : Team) (base stride : W64) (rows len : Nat) : Bool :=
  (List.range rows).all fun r => let a := (base + w64 r * stride).toNat; decide (256 ≤ a) && t.spIn a len

/-- The first poisoned word of a scratchpad range (R342). (DEDUCED, log 35.) -/
def Team.spPoison (t : Team) (off n : Nat) : Option Nat :=
  (t.poison.filter fun p => decide (p < off + n ∧ off < p + 8)).foldl (fun a p => match a with
    | none => some p | some q => some (min p q)) none

/-- Releases a copy command (R277): its descriptor is read and checked, FORM and the bitmap are written, and it joins the open
batch and the core's queue. A full queue keeps it at the head. -/
def State.relCopy (s : State) (g : Nat) (r : Group) (t : Team) (e : CqEntry) (form? : Option CopyForm) : Rel :=
  let off := e.x.toNat
  let bs := t.spGet off 64
  let desc := descOf bs
  match t.spPoison off 64 with
  | some p => .defer s (bad cECC (w64 p) 0)
  | none =>
  match (match form? with
    | some f => some f
    | none => if desc.form = 1 then some .c1d else if desc.form = 2 then some .c2d else if desc.form = 3 then some .ct else none) with
  | none => .defer s (illegal 0x0060)
  | some form =>
    if !desc.ok form bs then .defer s (illegal 0x0060) else
    let rows := desc.dstRows form
    let n := desc.pieces rows.2 rows.1 0
    if !t.spIn desc.prog ((n + 7) / 8) then .defer s (bad cSPBOUND (w64 desc.prog) 0)
    else if desc.ssp && !spRows t desc.src desc.sstr desc.rows desc.len then .defer s (bad cSPBOUND desc.src 0)
    else if desc.dsp && !spRows t desc.dst desc.dstr rows.1 rows.2 then .defer s (bad cSPBOUND desc.dst 0)
    else if 64 ≤ (s.core (coreOfG g)).copyQ.length then .wait s
    else
      let code : Byte := match form with | .c1d => 1 | .c2d => 2 | .ct => 3
      let s1 := match form? with
        | some _ => (s.spStore r.team (off + 42) [code]).spStore r.team desc.prog (List.replicate ((n + 7) / 8) 0)
        | none => s
      let b := r.batches.getD r.openB ⟨.opened, false, 0, 0, 0⟩
      let s2 := (s1.outRel g e.id).modGrp g fun r => { r with batches := r.batches.setIfInBounds r.openB { b with live := b.live + 1 } }
      let c : CopyCmd := { id := e.id, g := g, team := r.team, form := form, desc := bs, doff := off, batch := r.openB, next := 0
                           pieces := n, busy := false, skipBits := form?.isNone, recs := [], ended := false, pos := e.pos, key := s.nextId }
      .gone (s2.modCore (coreOfG g) fun k => { k with copyQ := k.copyQ ++ [c] })

/-- The code of a batch state (R279). -/
def BatchSt.code : BatchSt → Nat
  | .idle => 0
  | .opened => 1
  | .sealed => 2
  | .complete => 3

/-- CSTAT's reply (R279). -/
def Group.cstat (r : Group) : W64 :=
  (List.range 16).foldl (fun (a : W64) n =>
    let b := r.batches.getD n ⟨.idle, false, 0, 0, 0⟩
    a ||| w64 (b.st.code * 4 ^ n) ||| (if b.fault then (1 : W64) <<< (32 + n) else 0)) (w64 (r.openB * 2 ^ 48))

/-- CWAITB's status of a batch (R279). -/
def Batch.status (b : Batch) (n : Nat) : W64 := w64 (min b.faults 255 + (if b.fault then 256 else 0) + 4096 * n)

/-- A held instruction completes with a reply (R154): its register, its counter and its load barrier. -/
def State.reply (s : State) (g : Nat) (e : CqEntry) (v : W64) : State := s.modGrp g fun r => r.replied e.id v

/-- After a reply that is already written: a destination in EXEC is written when the entry leaves (R148). -/
def leave (s : State) (g : Nat) (d : BitVec 6) (v : W64) : Rel :=
  .gone (if isExecReg d then s.modGrp g fun r => { r with exec := execSet r.exec d v } else s)

/-- CSEAL (R39, R40): it waits while the next batch is not idle. -/
def State.relCseal (s : State) (g : Nat) (r : Group) (e : CqEntry) (d : BitVec 6) : Rel :=
  let next := (r.openB + 1) % 16
  let idle : Batch := ⟨.idle, false, 0, 0, 0⟩
  if (r.batches.getD next idle).st ≠ .idle then .wait s
  else
    let b := r.batches.getD r.openB idle
    let s1 := s.modGrp g fun r => { r with
      batches := (r.batches.setIfInBounds r.openB { b with st := if b.live = 0 then .complete else .sealed }).setIfInBounds next
        ⟨.opened, false, 0, 0, 0⟩
      openB := next }
    leave (s1.reply g e (w64 r.openB)) g d (w64 r.openB)

/-- CWAITB (R279): it waits at the head until the batch is complete. -/
def State.relCwaitb (s : State) (g : Nat) (r : Group) (e : CqEntry) (d : BitVec 6) : Rel :=
  let n := e.x.toNat % 16
  let b := r.batches.getD n ⟨.idle, false, 0, 0, 0⟩
  match b.st with
  | .complete => leave ((s.retire g n).reply g e (b.status n)) g d (b.status n)
  | .idle => leave (s.reply g e 0) g d 0
  | _ => .wait s

/-- BXFER (R284): the release condition, the target's module, the first packet's unit, then the transfer engine's queue. -/
def State.relBxfer (s : State) (g : Nat) (r : Group) (e : CqEntry) (d : BitVec 6) : Rel :=
  let sc := (scopeOf (e.y.extractLsb' 32 3)).getD .grp
  if !(s.fenceHolds g r sc && s.loadsBound g s.nextId e.pos false) then .wait s else
  match s.checkVa (coreOfG g) r.ctx r.xtgtA .write false with
  | (.wait, s1) => .wait s1
  | (a, s1) =>
    let go := fun (s : State) (paid : Bool) =>
      let len := (e.y.extractLsb' 0 32).toNat
      let x : Xfer := { id := e.id, g := g, src := e.x, dst := r.xtgtA, left := len, done := 0, sel := r.xtgtS, sc := sc, reply := d
                        inFlight := 0, code := 0, cause := 0, stopped := false, paid := paid }
      let s2 := ((s.outRel g e.id).modGrp g fun r => { r with xtgtA := r.xtgtA + w64 len }).modCore (coreOfG g) fun k => { k with
        xferQ := k.xferQ ++ [x] }
      afterSend s2 g e d
    match a with
    | .ok _ pa => if paClass pa = 2 then s1.withUnit g e pa fun s => go s true else go s1 false
    | _ => go s1 false

/-! ## Fen, FCFG, XATOM, WPSET -/

/-- Whether the stores, atomics and loads that a deposit of a scope covers allow it (R313, R311). -/
def State.depositMay (s : State) (g : Nat) (r : Group) (sc : Scope) (pos : Nat) : Bool :=
  s.fenceHolds g r sc && s.loadsBound g s.nextId pos false

/-- Releases a scalar Fen form (R293): its request is read from scratchpad and sent; a blocking one waits at the head. (DEDUCED, log 32.) -/
def State.relFen (s : State) (g : Nat) (r : Group) (t : Team) (e : CqEntry) (d : BitVec 6) (k : FenKind) : Rel :=
  if e.acted then .wait s else
  let sc := (scopeOf (e.x.extractLsb' 50 3)).getD .grp
  let blk := e.x.getLsbD 48
  let off := e.y.toNat
  let n := if k == .deposit then 64 else 128
  if k == .deposit && !s.depositMay g r sc e.pos then .wait s
  else match t.spPoison off n with
  | some p => .defer s (bad cECC (w64 p) 0)
  | none =>
    let bs := t.spGet off n
    let word := fun w => BitVec.ofNat 32 (fieldN bs (4 * w) 4)
    let raw := (List.range 16).map word
    let ws := if k == .deposit then depositWords raw 96 (g % 32) (coreOfG g) s.modNum.toNat else raw
    let dst := s.fenModule e.addr
    s.withUnitAt g e dst fun s =>
    let (key, s1) := s.fresh
    let o : FenOp := { g := g, kind := k, scalar := true, blk := blk, sc := sc, vd := 0, vs := 0, sd := d, area := off, left := 1
                       pc := e.pc, fullHandle := none, rid := e.id }
    let q : FenReq := { g := g, op := key, lane := 96, kind := k, blk := blk, sc := sc, region := e.addr
                        dstMod := dst, slice := fenHome e.addr (fword raw 0), handle := (e.x.setWidth 32 : W32).toNat
                        words := ws, masks := (List.range 16).map fun w => word (16 + w), sel := e.x.extractLsb' 32 14, code := none
                        copies := 0, reply := [], sent := false, withdrawn := false, fromPeer := none }
    let s2 := ({ s1 with fenOps := kset s1.fenOps key o }.outRel g e.id).fenMake q
    match (if dst = s.modNum.toNat then let (n, s3) := s2.draw; some (s3.fenToSlice (key + 1) q n) else s2.fenToPeer (key + 1) q) with
    | some s3 => if blk || isExecReg d then .wait (s3.markActed g e.id) else .gone s3
    | none => .wait (s.modGrp g fun r => { r with cq := match r.cq with
        | e :: q => { e with paid := true } :: q
        | [] => [] })

/-- Releases an FCFG (R301): the operation of sa bits 9:8. -/
def State.relFcfg (s : State) (g : Nat) (r : Group) (t : Team) (e : CqEntry) (d : BitVec 6) : Rel :=
  let region := e.x.toNat % 256
  let off := e.y.toNat
  let finish := fun (p : Nat × State) => leave (p.2.reply g e (w64 p.1)) g d (w64 p.1)
  match (e.x.extractLsb' 8 2).toNat with
  | 0 =>
    let bs := t.spGet off 64
    match t.spPoison off 64 with
    | some p => .defer s (bad cECC (w64 p) 0)
    | none =>
      if !fenRecordOk bs then finish (4, s)
      else if fieldN bs 12 4 = 0 then finish (s.fenCreate region bs 0 0)
      else
        match s.checkData (coreOfG g) r.ctx (w64 (fieldN bs 16 8)) 1 .write false with
        | (.wait, s1) => .wait s1
        | (.bad b, s1) => .defer s1 b
        | (.ok _ p1, s1) =>
          match s1.checkData (coreOfG g) r.ctx (w64 (fieldN bs 24 8)) 1 .write false with
          | (.wait, s2) => .wait s2
          | (.bad b, s2) => .defer s2 b
          | (.ok _ p2, s2) => finish (s2.fenCreate region bs p1 p2)
  | 1 => finish (s.fenDelete region)
  | _ =>
    if (kget s.alder.regions region).isSome then finish (0, s.spStore r.team off (s.fenCounters region)) else finish (3, s)

/-- Releases a WPSET (R300, R445). -/
def State.relWpset (s : State) (g : Nat) (r : Group) (t : Team) (e : CqEntry) : Rel :=
  let bs := t.spGet e.y.toNat 32
  let size := fieldN bs 25 1
  let va := w64 (fieldN bs 0 8)
  match t.spPoison e.y.toNat 32 with
  | some p => .defer s (bad cECC (w64 p) 0)
  | none =>
    if 2 ≤ fieldN bs 24 1 ∨ (size ≠ 4 ∧ size ≠ 8) then .defer s (illegal 0x0017)
    else if va.toNat % size ≠ 0 then .defer s (bad cALIGN va 0)
    else
      match s.checkVa (coreOfG g) r.ctx va .read false with
      | (.wait, s1) => .wait s1
      | (.bad b, s1) => .defer s1 b
      | (.ok _ pa, s1) =>
        let w : Watchpoint := ⟨e.x.getLsbD 2, pa, size, w64 (fieldN bs 8 8), w64 (fieldN bs 16 8), fieldN bs 24 1 == 1⟩
        .gone (s1.modDie (dieOf (coreOfG g)) fun x => { x with wps := x.wps.setIfInBounds (e.x.toNat % 4) w })

/-- TRMARK (R299). -/
def State.relTrmark (s : State) (g : Nat) (r : Group) (e : CqEntry) : Rel :=
  .gone (if r.trctl.getLsbD 0 then
    s.tracePut (coreOfG g) 9 (BitVec.ofNat 8 (g % 32) :: wBytes 2 e.y ++ wBytes 8 e.x) else s)

/-! ## The head of the queue -/

/-- BARINIT (R43, R175), applied after the arrivals of its cycle (R46). Arrivals that it clears report no flags any more (R147). (DEDUCED, log 28.) -/
def State.relBarinit (s : State) (g : Nat) (r : Group) (e : CqEntry) (n : BitVec 4) : Rel :=
  if s.a1 = 0 then .wait (s.schedOnce 0 .commitHeadResume [g, 1])
  else .gone (s.modTeam r.team fun t => { t.setBar n ((t.bar n).init (e.x.toNat % 256) (e.x.extractLsb' 8 2).toNat
    (e.y.toNat % 4294967296)) with flagWait := t.flagWait.filter (·.n != n) })

/-- SSTSP (R162): a plain store to a barrier word comes last in its cycle (R46). -/
def State.relSstsp (s : State) (g : Nat) (r : Group) (e : CqEntry) : Rel :=
  if e.x.toNat < 256 ∧ s.a1 < 2 then .wait (s.schedOnce 0 .commitHeadResume [g, 2])
  else .gone (s.spStore r.team e.x.toNat (wBytes 8 e.y))

/-- BARA, and the arrival of BARAW (R176): it waits for its ordering condition, then for its arrival to be counted. -/
def State.relBara (s : State) (g : Nat) (r : Group) (e : CqEntry) (n : BitVec 4) (sc : Scope) : Rel :=
  if e.acted then (if r.fwdArr.contains n.toNat then .wait s else .gone s)
  else if s.fenceHolds g r sc && s.loadsBound g s.nextId e.pos false then .wait (s.schedOnce 0 .barrierArrival [g])
  else .wait s

/-- SACQ (R56, R179): granted by SACQ_GRANT of its cycle or of a later one. -/
def State.relSacq (s : State) (g : Nat) (r : Group) (e : CqEntry) : Rel :=
  if r.allotSt = .full then .gone s
  else if e.acted then .wait s
  else .wait ((s.markActed g e.id).schedOnce 0 .sacqGrant [coreOfG g * 32])

/-- SREL (R57): the contents of v32 and above are lost; the registers are free from the next cycle (R369). -/
def State.relSrel (s : State) (g : Nat) (r : Group) : Rel :=
  if r.allotSt ≠ .full then .gone s
  else
    let s1 := s.modGrp g fun r => { r with allot := 32, allotSt := .prologue, v := r.v.filter fun p => decide (p.1 < 3072) }
    .gone (s1.modCore (coreOfG g) fun c => { c with
      freed := (s.ccount, (if c.freed.1 = s.ccount then c.freed.2 else 0) + (r.allot - 32)) })

/-- Discards an entry in which the driver set SKIP (R388, R400). -/
def State.relSkip (s : State) (g : Nat) (e : CqEntry) : Rel :=
  .gone (s.modGrp g fun r =>
    let r1 := r.outDone e.id
    { r1 with pendS := r1.pendS.filter (·.id != e.id), barrierIds := r1.barrierIds.filter (· != e.id) })

/-- Tries to release the entry at the head. -/
def State.releaseHead (s : State) (g : Nat) (r : Group) (e : CqEntry) : Rel :=
  if e.skip then s.relSkip g e else
  match decodeScalar e.word, s.team? r.team with
  | .ok i, some t =>
    let d := e.word.extractLsb' 19 6
    let after := fun (x : Rel) => if s.spLoadBefore g e.pos then .wait s else x
    match e.val, isExecReg d && (scalarNeeds i).dest.isSome with
    | some v, true => .gone (s.modGrp g fun r => { r with exec := execSet r.exec d v })
    | some _, false => .gone s
    | none, ex =>
      match i with
      | .sstb _ _ _ => s.relStore g r e 1
      | .ssth _ _ _ => s.relStore g r e 2
      | .sstw _ _ _ => s.relStore g r e 4
      | .sstd _ _ _ => s.relStore g r e 8
      | .sstsp _ _ _ => after (s.relSstsp g r e)
      | .satom op sc d _ _ => if e.acted && ex then .wait s else s.relAtomic g r e d .atomic (.int op) 8 sc 0 e.y
      | .scas sc d _ _ => if e.acted && ex then .wait s else s.relAtomic g r e d .cas (.int .swap) 8 sc e.x e.y
      | .xatom d _ _ =>
        if e.acted && ex then .wait s else
        match xatomFn (e.x.extractLsb' 57 4).toNat with
        | some (fn, size) => s.relAtomic g r e d .atomic fn size ((scopeOf (e.x.extractLsb' 61 3)).getD .grp) 0 e.y
        | none => .gone s
      | .bara n sc | .baraw n sc => s.relBara g r e n sc
      | .barinit n _ _ => s.relBarinit g r e n
      | .sacq => s.relSacq g r e
      | .srel => s.relSrel g r
      | .swrs _ i => .gone (s.modGrp g fun r => r.writeL s.ccount i.toNat e.x)
      | .cpy1d _ _ _ => after (s.relCopy g r t e (some .c1d))
      | .cpy2d _ _ _ => after (s.relCopy g r t e (some .c2d))
      | .cpyt _ _ _ => after (s.relCopy g r t e (some .ct))
      | .cpyres _ _ _ => s.relCopy g r t e none
      | .cseal d _ _ => s.relCseal g r e d
      | .cwaitb d _ _ => s.relCwaitb g r e d
      | .cstat d _ _ => leave (s.reply g e r.cstat) g d r.cstat
      | .bxfer d _ _ => if e.acted && ex then .wait s else s.relBxfer g r e d
      | .btarg _ _ _ => .gone (s.modGrp g fun r => { r with xtgtA := e.x, xtgtS := e.y, xtgtV := true })
      | .fsdep d _ _ => s.relFen g r t e d .deposit
      | .fstake d _ _ => s.relFen g r t e d .take
      | .fscpy d _ _ => s.relFen g r t e d .copy
      | .fcfgCreate d _ _ => after (s.relFcfg g r t e d)
      | .trmark _ _ _ => s.relTrmark g r e
      | .wpset _ _ _ => s.relWpset g r t e
      | _ => if ex then .wait s else .gone s
  | _, _ => .gone s

/-! ## Runs of releases (R150, R151) -/

/-- The lane stream begins the block at the head of the lane queue (R150, R166): its checkpoint becomes current (R378). `now`: whether
its first instruction may issue in this cycle. -/
def State.beginBlock (s : State) (g : Nat) : State :=
  match s.grp? g with
  | none => s
  | some r =>
    match r.lq with
    | [] => s
    | q :: rest =>
      let wait := r.relCnt.1 = s.ccount ∧ r.relCnt.2 ≠ 0
      let b : Blk := { entry := q.entry, snap := q.snap, pos := q.pos, ck := q.ck, starting := false, running := true
                       first := none, ready := if wait then s.ccount + 1 else s.ccount, instrs := 0, beats := 0, id0 := s.nextId }
      (s.setGrp g { r with lq := rest, blk := some b, lpc := q.entry, ck := q.ck }).traceDetail g 2
        (wBytes 8 q.entry ++ wBytes 12 r.exec)

/-- The releases of a block start or drain are over. -/
def State.releaseEnd (s : State) (g : Nat) : State :=
  match s.grp? g with
  | none => s
  | some r =>
    let s1 := s.setGrp g { r with rel := none }
    if r.lq.isEmpty then (if r.drain then s1.schedOnce 0 .drain [g] else s1)
    else if r.laneIdle then s1.beginBlock g else s1

/-- Releases entries in program order, at most four in a cycle (R150). -/
def State.releaseRun (s : State) (g : Nat) : Nat → State
  | 0 => s
  | n + 1 =>
    match s.grp? g with
    | none => s
    | some r =>
      match r.rel, r.cq with
      | none, _ => s
      | some _, [] => s.releaseEnd g
      | some lim, e :: _ =>
        if lim ≤ e.pos then s.releaseEnd g
        else if r.relCnt.1 = s.ccount ∧ 4 ≤ r.relCnt.2 then s
        else match s.releaseHead g r e with
          | .gone s1 =>
            (s1.modGrp g fun r => { r with
              cq := r.cq.drop 1
              relCnt := (s.ccount, (if r.relCnt.1 = s.ccount then r.relCnt.2 else 0) + 1) }).releaseRun g n
          | .wait s1 => s1
          | .defer s1 b => s1.deferTrap g b e.pc

/-- A group whose releases may go on. -/
def Group.mayRelease (r : Group) : Bool := r.stop == .runs && r.trap.isNone

/-- BLOCK_START (R150): the lane stream turns to the next queued block; the held effects before its LENQ are released. -/
def execBlockStart (s : State) : Out :=
  let g := s.a0
  .next (match s.grp? g with
  | none => s
  | some r =>
    match r.lq with
    | [] => s
    | q :: _ =>
      if r.mayRelease && r.laneIdle && r.rel.isNone && !s.laneHeld g then (s.setGrp g { r with rel := some q.pos }).releaseRun g 5 else s)

/-- DRAIN (R151): its steps in order; when all hold, the draining instruction may issue, and its checkpoint is taken (R378). -/
def execDrain (s : State) : Out :=
  let g := s.a0
  .next (match s.grp? g with
  | none => s
  | some r =>
    if !(r.drain && r.mayRelease && r.laneSettled && r.rel.isNone && !s.laneHeld g) then s
    else if !r.cq.isEmpty then (s.setGrp g { r with rel := some r.pos }).releaseRun g 5
    else if s.accessesSettled g r then s.setGrp g (r.drainDone s.nextId)
    else s)

/-- COMMIT_HEAD_RESUME (R156): an effect that waited at the head goes on, and those behind it follow. -/
def execCommitHeadResume (s : State) : Out :=
  let g := s.a0
  .next (match s.grp? g with
  | none => s
  | some r => if r.mayRelease then s.releaseRun g 5 else s)

/-- BARRIER_ARRIVAL (R176): the arrival at the head of the commit queue is applied to its word; at an unarmed one it is a deferred
trap (R388). A BARAW goes on with its wait in the same cycle (R177). -/
def execBarrierArrival (s : State) : Out :=
  let g := s.a0
  .next (match s.grp? g with
  | none => s
  | some r =>
    match r.cq.head? with
    | none => s
    | some e =>
      match decodeScalar e.word with
      | .ok (.bara n _) | .ok (.baraw n _) =>
        if e.acted || !r.mayRelease || r.rel.isNone then s else
        match s.groupArrive g r.team n with
        | none => s.deferTrap g (illegal 0x0003) e.pc
        | some s1 =>
          let s2 := (s1.markActed g e.id).schedOnce 0 .commitHeadResume [g, 0]
          if r.baraw && r.cq.length == 1 then { s2 with agenda := s2.agenda.takeWhile (· != .close) ++ .scalar g :: s2.agenda.dropWhile (· != .close) }
          else s2
      | _ => s)

/-- Whether an early load is held by a load barrier that has not finished (R153). A barrier that a stopping group does not release any more holds
none (R392). (DEDUCED, log 29.) -/
def State.loadWaits (s : State) (m : MemOp) : Bool :=
  match m.agent with
  | .scalar g => match s.grp? g with
    | some r => (m.waits.any fun i => r.barrierIds.contains i) && !((r.asked || r.stop != .runs) && r.rel.isNone && m.waits.any fun i =>
        r.barrierIds.contains i && r.cq.any (·.id == i))
    | none => false
  | _ => false

/-- EARLY_LOAD_PERFORM (R153): a load held by load barriers that have finished; an acquire among them keeps it from older copies (R314). -/
def execEarlyLoadPerform (s : State) : Out :=
  let o := s.a0
  .next (match s.op? o with
  | none => s
  | some m =>
    match m.agent with
    | .scalar g =>
      match s.grp? g with
      | none => s
      | some r =>
        if m.performed || s.loadWaits m then s
        else if m.kind = .spLoad then
          match s.team? r.team, m.parts with
          | some t, _ =>
            let off := m.asize
            (s.delOp o).modGrp g fun r => r.landS m.out (spLoadVal r t m.pos off)
          | none, _ => s
        else (s.modOp o fun m => { m with minFill := max m.minFill r.acqT }).performLoad o
    | _ => s)

/-! ## Register grants (R369) -/

/-- The registers of a core that are free in this cycle: those not allotted to a group that is resident or placed (R368), less those
freed in it. -/
def State.freeRegs (s : State) (core : Nat) : Nat :=
  let used := s.groups.foldl (fun a p => if coreOfG p.1 = core then a + p.2.allot else a) 0 +
    s.alder.placements.foldl (fun a p => p.2.grps.foldl (fun a q => if coreOfG q.1 = core then a + q.2.allot else a) a) 0
  let c := s.core core
  4096 - used - (if c.freed.1 = s.ccount then c.freed.2 else 0)

/-- The reserve of a core (R369): what the largest declared full allotment needs beyond 32. -/
def State.reserve (s : State) (core : Nat) : Nat :=
  s.alder.placements.foldl (fun a p => if p.2.core = core then max a (p.2.team.fullAllot - 32) else a)
    (s.teams.foldl (fun a p => if p.2.core = core then max a (p.2.fullAllot - 32) else a) 0)

/-- Age order (R369): the start cycle, then the resident group index. -/
def olderThan (a b : Nat × Group) : Bool := decide (a.2.age < b.2.age ∨ (a.2.age = b.2.age ∧ a.1 ≤ b.1))

/-- The requesters of a core: groups waiting, and those whose released SACQ stands at the head (R369). -/
def State.requesters (s : State) (core : Nat) : List (Nat × Group) :=
  (s.groups.filter fun p => coreOfG p.1 == core && p.2.allotSt != .full && p.2.stop == .runs &&
    (p.2.allotSt == .waiting || match p.2.cq.head? with
      | some e => e.acted && e.word == wordOf .sacq
      | none => false))|> sortBy olderThan

/-- Decides the requesters in age order (R369). A grant finds v32 and above zero (R57); a parked group is ready from the next cycle (R372). -/
def State.grantAll (s : State) (reserve : Nat) : List (Nat × Group) → Nat → Bool → State
  | [], _, _ => s
  | (g, r) :: rest, free, first =>
    let full := ((s.team? r.team).map (·.fullAllot)).getD 32
    let need := full - 32
    if need ≤ free ∧ (first ∨ reserve ≤ free - need) then
      let s1 := s.modGrp g fun r => { r with allot := full, allotSt := .full, v := r.v.filter fun p => decide (p.1 < 3072) }
      let s2 := if r.parked = some .grant then s1.sched 1 (.groupWake g .grant) else s1
      (s2.schedOnce 0 .commitHeadResume [g, 3]).grantAll reserve rest (free - need) false
    else
      (s.modGrp g fun r => { r.park .grant with allotSt := .waiting }).grantAll reserve rest free false

/-- SACQ_GRANT (R369): the decision of a core's requesters in this cycle. There is one in a cycle: a SACQ released after it is decided with the
requesters of the next. -/
def execSacqGrant (s : State) : Out :=
  let core := coreOfG s.a0
  .next (if (s.core core).decided = s.ccount + 1 then s.schedOnce 1 .sacqGrant [core * 32]
    else (s.modCore core fun c => { c with decided := s.ccount + 1 }).grantAll (s.reserve core) (s.requesters core) (s.freeRegs core) true)

end Sys2Proof.Machine
end

