-- ==== Sys2Proof/Machine/MemEvents.lean ====
section
/-! DEFINITION. The events of memory (spec/10 R304 to R308, R323, R324; spec/11 R337 to R342): acceptance and performance of writes,
reads at the home, fills, expiries, atomics at the home and their replies, returns of values and GWCTs. -/
namespace Sys2Proof.Machine

/-- A part of an operation. -/
def State.part? (s : State) (o p : Nat) : Option (MemOp × Part) :=
  (s.op? o).bind fun m => (m.parts[p]?).map fun q => (m, q)

/-- The context of an operation: an engine's or the copy engine's belongs to the team of its command. -/
def State.ctxOfOp (s : State) (m : MemOp) : Nat :=
  let ofTeam := fun t => ((s.team? t).map (·.ctx)).getD 0
  match m.agent with
  | .scalar g | .lane g => ((s.grp? g).map (·.ctx)).getD 0
  | .seq t => ofTeam t
  | .drainer c => (((s.core c).eng.find? (·.id == m.out)).map fun e => ofTeam e.team).getD 0
  | .copier c => (((s.core c).copyQ.find? (·.id == m.out)).map fun e => ofTeam e.team).getD 0
  | _ => 0

/-- Changes a part. -/
def State.modPart (s : State) (o p : Nat) (f : Part → Part) : State :=
  s.modOp o fun m => { m with parts := m.parts.mapIdx fun j q => if j = p then f q else q }

/-! ## Writes -/

/-- Byte enables of a write as 256 bits over the data flits from a 64-byte aligned address (R410). (DESIGN CHOICE, log 14.) -/
def benOf (pa : Nat) (data : List (Option Byte)) : BitVec 256 :=
  (List.range data.length).foldl (fun (b : BitVec 256) i =>
    if (data.getD i none).isSome then b ||| ((1 : BitVec 256) <<< (pa % 64 + i)) else b) 0

/-- The content of data flits from a 64-byte aligned address. -/
def flitData (pa : Nat) (data : List (Option Byte)) : List Byte :=
  let n := (pa % 64 + data.length + 63) / 64 * 64
  (List.range n).map fun i => if i < pa % 64 then 0 else (data.getD (i - pa % 64) none).getD 0

/-- Takes the allowance unit of a request that leaves now (R416); a scalar effect has taken its unit at release (R156). The request
waits while the allowance is short or parked groups stand before it (R373). (DEDUCED, log 43.) -/
def State.peerUnit (s : State) (a : Agent) (die dst : Nat) : Option State :=
  match a with
  | .scalar _ => some s
  | _ =>
    if ((s.die die).salWait.any fun w => w.dst == dst) || s.salRead die dst < 1 then none else some (s.salTake die dst 1)

/-- The mark under which a posted host write waits to be flushed (R323): its group's, or for a piece of a copy that of the group's batch, whose
pieces a fence covers once a wait on the batch has returned (R319). -/
def State.postedKey (s : State) (m : MemOp) : Nat :=
  match m.agent with
  | .scalar g | .lane g => g
  | .copier c => match (s.core c).copyQ.find? (·.id == m.out) with
    | some x => (1 + x.batch) * 1048576 + x.g
    | none => 1073741824
  | _ => 1073741824

/-- Whether 1,024 non-posted requests to the host are outstanding (R401): a further one waits. -/
def State.hostFull (s : State) : Bool := decide (1024 ≤ s.pendingHost.length)

/-- WRITE_ACCEPT (R306): the home takes a write and assigns its GWCT; a posted host write is taken by the host link (R323); a write
to a peer leaves for the switch slice (R419). An earlier write of the group to the line goes first (R310), and a
pinned copy keeps its lease until its pin is released (R260). The write invalidates its sectors in the RDC it passes (R339). -/
def execWriteAccept (s : State) : Out :=
  let o := s.a0
  let p := s.a1
  .next (match s.part? o p with
  | none => s
  | some (m, q) =>
    if q.gwct.isSome then s else
    let data := q.data.map some
    let blocked := s.earlierWrite m.core ((m.agent.group?).getD 1048576) o q.pa q.len
    let before := (m.parts.take p).any (fun e => e.gwct.isNone && e.pa / 256 == q.pa / 256) || partBefore m.parts p (·.gwct.isNone)
    if blocked || before || s.pinnedCopy (q.pa / 256) then s.sched 1 .writeAccept [o, p] else
    let s := s.rdcInvalidate (dieOf m.core) q.pa q.len
    match paClass q.pa with
      | 2 =>
        let d := dieOf m.core
        match (s.peerUnit m.agent d (peerModule q.pa)).bind fun s => s.sendPeer d (peerModule q.pa) 2 m.core (peerAddr q.pa / 64 * 64)
            o p (benOf q.pa data) (flitData q.pa data) with
        | some s1 => s1
        | none => s.sched 1 .writeAccept [o, p]
      | c =>
        let (g, s1) := s.acceptWrite q.pa data o p m.agent m.core
        let s2 := s1.modPart o p fun q => { q with gwct := some g }
        let s3 := if c = 1 ∧ q.unc then
            let (n, s') := s2.draw
            { s' with posted := s'.posted ++ [(s.postedKey m, s'.ccount + n)] }
          else s2
        s3.schedPath .storeGwctReturn [o, p])

/-- Whether an add-on-store that was committed before a write is still to be applied to its line at the same PTIME (R321). -/
def State.behindAdd (s : State) (id : Nat) (w : PWrite) : Bool :=
  s.writes.any fun p => decide (p.1 < id ∧ p.2.gwct ≤ w.gwct) && p.2.add.isSome && p.2.pa / 256 == w.pa / 256

/-- WRITE_PERFORM (R306): the home applies an accepted write at its GWCT, behind an add-on-store committed before it (R321). -/
def execWritePerform (s : State) : Out :=
  .next (match kget s.writes s.a0 with
  | none => s
  | some w =>
    if s.ptime < w.gwct then s.schedAt w.gwct .writePerform [s.a0]
    else if s.behindAdd s.a0 w then s.schedR 0 (14 * 4294967296 - 1) .writePerform [s.a0]
    else s.performWrite s.a0 w)

/-- The GWCT of a returned part enters the group's GWCTMAX and the core's record (R161, R355); that of a write to a peer the masks (R307). (DEDUCED, log 24.) -/
def State.gwctHome (s : State) (o : Nat) (m : MemOp) (q : Part) (g : Nat) : State :=
  let s1 := s.noteGwct m.core (s.ctxOfOp m) g
  let s2 := match m.agent.group? with
    | some gr => s1.modGrp gr fun r => { r with gwctMax := max r.gwctMax g }
    | none => s1
  if paClass q.pa = 2 then s2.maskAccept m.core q.pa q.len o m.agent g s2.nextId else s2

/-- STORE_GWCT_RETURN (R161, R319): with the last part's return the counter falls; an engine goes on. -/
def execStoreGwctReturn (s : State) : Out :=
  let o := s.a0
  let p := s.a1
  .next (match s.part? o p with
  | none => s
  | some (m, q) =>
    match q.gwct, q.bound with
    | some g, false =>
      let s1 := (s.gwctHome o m q g).modPart o p fun q => { q with bound := true }
      let rest := (s1.op? o).map fun m => m.parts.any (!·.bound)
      if rest.getD false then s1 else
      let s2 := s1.delOp o
      let gm := m.parts.foldl (fun a q => max a (q.gwct.getD 0)) g
      match m.agent with
      | .scalar gr | .lane gr => s2.modGrp gr fun r => r.outDone m.out
      | .copier core => s2.schedAt gm .copyPieceDone [core, m.out, m.pos, gm]
      | .drainer core => s2.modCore core fun c => { c with
          eng := c.eng.map fun e => if e.id = m.out then { e with writes := e.writes - 1, gmax := max e.gmax gm } else e }
      | _ => s2
    | _, _ => s)

/-- WRITE_MASK_RELEASE (R307): bytes whose GWCT has been reached are dropped from the masks of a line. (DEDUCED, log 24.) -/
def execWriteMaskRelease (s : State) : Out :=
  let core := s.a0
  let line := s.a1
  .next (s.maskDrop core line fun m => match m.acc with
    | some (g, _) => decide (g ≤ s.ptime)
    | none => false)

/-! ## Reads and fills -/

/-- Starts a fill of a sector on its way to a core's L1 (and its die's RDC where the line's home lies elsewhere); that of a fetch goes
where the fetch wants it: 0 an L1, 1 the instruction cache, 2 the tile fetch unit's line. -/
def State.fillOp (s : State) (of : MemOp) (pa : Nat) (bs : List Byte) (exp t : Nat) (noncoherent : Bool) : State :=
  let (k, s1) := s.fresh
  let fetch := of.kind == .fetchOnly
  let m : MemOp := { kind := .fetchOnly, agent := .tile of.core, core := of.core, dest := .none, order := .relaxed, scope := .grp
                     fn := .int .add, asize := if fetch then of.asize else 0
                     parts := [⟨0, 0, pa, 64, [], 0, 0, none, true, some (bs, exp, t), noncoherent, false⟩], pc := 0, waits := [], performed := true
                     leaseLen := of.leaseLen, minFill := 0, t0 := s.ptime, out := if fetch then of.out else 0
                     pos := if fetch then of.pos else 0 }
  (s1.setOp k m).schedPath .fillReturn [k, 0]

/-- The GWCT-ordered binding of an acquire (R314): the group's later loads hit no copy filled before now. -/
def State.acquireBinds (s : State) (m : MemOp) : State :=
  match m.agent.group? with
  | some g => if m.atHomeRead then s.modGrp g fun r => { r with acqT := max r.acqT s.ptime } else s
  | none => s

/-- A load that may be served by a copy in the RDC is bound there (R305, R338); the sector goes on to its L1. -/
def State.rdcBind (s : State) (o : Nat) (m : MemOp) (q : Part) : Option State :=
  if m.atHomeRead || !cacheable q.pa q.unc || m.kind == .fetchOnly then none else
  match rdcDie (dieOf m.core) q.pa true with
  | none => none
  | some d => match s.rdcHit d q.pa m.minFill with
    | none => none
    | some (bs, exp, t) =>
      let (k, s1) := (s.rdcTouch d q.pa).fresh
      let f : MemOp := { m with
        kind := .fetchOnly, agent := .tile m.core, dest := .none, asize := 0, out := 0, pos := 0
        parts := [⟨0, 0, q.pa / 64 * 64, 64, [], 0, 0, none, true, some (bs, exp, t), false, false⟩] }
      some ((((s1.setOp k f).schedPath .fillReturn [k, 0]).bindSector o m q.pa bs).returnIfBound o)

/-- HOME_READ (R306, R305): a read or fill is served by the RDC, or at the home: the performed value of each byte, a lease for a cached copy. An
earlier read of the group in the sector goes first (R310), and the earlier parts of its lane (R317); a DRAM access waits for a refresh to end
(R341), a fill for a way of the slice (R338). Host memory is read by the link, peer memory by the switch slice. (DEDUCED, log 58.) -/
def execHomeRead (s : State) : Out :=
  let o := s.a0
  let p := s.a1
  .next (match s.part? o p with
  | none => s
  | some (m, q) =>
    if q.bound then s else
    let sec := q.pa / 64 * 64
    let blocked := match m.agent.group? with
      | some g => s.earlierRead g o m.pos m.agent.isLane (q.pa / 64) || (!cacheable q.pa q.unc && s.earlierWrite m.core g o q.pa q.len)
      | none => false
    if blocked || s.acquireWaits m q || s.meetsRefresh q.pa || (paClass q.pa == 0 && !isRegBlock (paLow q.pa) && !s.l2Room (paLow q.pa)) then
      s.sched 1 .homeRead [o, p] else
    match s.rdcBind o m q with
    | some s1 => s1
    | none =>
    match paClass q.pa with
    | 0 =>
      if isRegBlock (paLow q.pa) then
        let bs := List.replicate (q.pa % 64) 0 ++ s.homeBytes q.pa q.len
        (((s.bindPart o p m q bs).tryRest o m.parts).regReadSide (paLow q.pa - 0x38000000000) q.len).returnIfBound o
      else
        let s0 := s.l2Fill (paLow q.pa)
        let bs := s0.homeBytes sec 64
        let fill := m.kind == .fetchOnly || !m.atHomeRead
        let exp := s0.leaseEnd (q.pa / 256) m.leaseLen
        let s1 := if fill then (s0.recordLease (q.pa / 256) exp).fillOp m sec bs exp s.ptime false
          else s0
        if m.kind == .fetchOnly then s1.delOp o
        else ((s1.bindSector o m q.pa bs).acquireBinds m).returnIfBound o
    | 1 =>
      if s.hostFull then s.sched 1 .homeRead [o, p] else
      let (tag, s1) := s.fresh
      let len := if q.unc then q.len else 64
      { s1 with pendingHost := kset s1.pendingHost tag ⟨o, p, len, []⟩ }.send (.hostRead tag (paLow (if q.unc then q.pa else sec)) len)
    | _ =>
      let d := dieOf m.core
      match s.sendPeer d (peerModule q.pa) 1 m.core (peerAddr sec) o p 0 [] with
      | some s1 => s1
      | none => s.sched 1 .homeRead [o, p])

/-- A sector arrives at a line that the tile fetch unit holds (R259). -/
def TLine.arrive (t : TLine) (sec : Nat) (bs : List Byte) : TLine :=
  { t with got := t.got ||| ((1 : BitVec 4) <<< sec), bytes := t.bytes.take (64 * sec) ++ bs ++ t.bytes.drop (64 * sec + 64) }
def State.tileArrive (s : State) (m : MemOp) (q : Part) (bs : List Byte) : State :=
  s.modCore m.core fun c => { c with eng := c.eng.map fun e => if e.id = m.out then
    { e with fetched := e.fetched.map fun t => if t.vline = m.pos then t.arrive (q.pa % 256 / 64) bs else t } else e }

/-- Whether the bytes of a fetched page enter data caches (R334): those of an uncached host page do not. -/
def Part.cached (q : Part) : Bool := cacheable q.pa q.unc

/-- FILL_RETURN (R305, R338): the sector enters the RDC and the L1, or the instruction cache, with its lease; a fill whose lease has
ended is dropped, and one that finds no way waits. A fetched instruction that no lease lets be kept goes to the fetch alone, which takes it
within the cycle of its return (R340). (DEDUCED, log 58.) -/
def execFillReturn (s : State) : Out :=
  let o := s.a0
  let p := s.a1
  .next (match s.part? o p with
  | none => s
  | some (m, q) =>
    match q.fill with
    | none => s
    | some (bs, exp, t) =>
      let done := fun (s : State) => if m.kind == .fetchOnly then s.delOp o else s.modPart o p fun q => { q with fill := none }
      let sec := q.pa / 64 * 64
      let live := decide (s.ptime < exp) && q.cached
      let rdc := if live then (match rdcDie (dieOf m.core) q.pa (!q.unc) with
        | some d => s.rdcFill d sec bs exp t
        | none => some s) else some s
      let install := fun (s : State) (e : Nat) => (s.modCore m.core fun c => { c with
        icache := kset c.icache (q.pa / 256) (let l := (kgetD c.icache (q.pa / 256) (CLine.new (q.pa / 256))).putSector (q.pa % 256 / 64) bs e t
          { l with bad := l.bad ||| s.homeBad q.pa }) }).schedAt e
          (.leaseExpiry (.icache m.core) (q.pa / 256) (q.pa % 256 / 64))
      match rdc with
      | none => s.sched 1 .fillReturn [o, p]
      | some s1 =>
        if m.asize == 2 && m.kind == .fetchOnly then done (s1.tileArrive m q bs)
        else if m.asize == 1 && m.kind == .fetchOnly then done (install s1 (if live then exp else s.ptime + 1))
        else if !live then done s1
        else match s1.l1Fill m.core sec bs exp t with
          | some s2 => done s2
          | none => s.sched 1 .fillReturn [o, p])

/-- Invalidates a sector of a line whose lease has ended. -/
def CLine.expire (l : CLine) (sec now : Nat) : CLine :=
  if l.exp.getD sec 0 ≤ now then { l with valid := l.valid &&& ~~~((1 : BitVec 4) <<< sec) } else l

/-- LEASE_EXPIRY (R305): at its expiry a copy becomes invalid. A copy renewed meanwhile stays; a pinned RDC line keeps its lease (R260). -/
def execLeaseExpiry (c : CacheId) (line sector : Nat) (s : State) : Out :=
  let inSet := fun (k : CSet) => { k with ways := k.ways.map fun p => if p.2.line == line then (p.1, p.2.expire sector s.ptime) else p }
  .next (match c with
  | .l1 core => s.modCore core fun k => { k with l1 := kmod k.l1 (l1Set line) inSet }
  | .rdc die => if s.pinnedRdc die line then s.sched 1 (.leaseExpiry c line sector) else s.modDie die fun k => { k with rdc := kmod k.rdc (rdcSet line) inSet }
  | .icache core => s.modCore core fun k => { k with icache := kmod k.icache line fun l => l.expire sector s.ptime })

/-! ## Returns of values (R22, R37, R204) -/

/-- The value that bytes spell, zero-extended. -/
def partsValue (ps : List Part) : W64 := bytesW 64 (ps.flatMap (·.data))

/-- SCALAR_LOAD_RETURN (R22): the value is written, the pending mark cleared, LDC falls. The engines' own reads wait for them. -/
def execScalarLoadReturn (s : State) : Out :=
  let o := s.a0
  .next (match s.op? o with
  | none => s
  | some m =>
    if m.unbound then s else
    match m.agent with
    | .scalar g => (s.delOp o).modGrp g fun r => (r.landS m.out (partsValue m.parts)).outDone m.out
    | .copier core => s.schedOnce 0 .copyPiece [core]
    | .xfer core => s.schedOnce 0 .bulkPacketSend [core, m.out]
    | _ => s.delOp o)

/-- The registers of a lane that a memory access of a size moves, with its bytes (R200): the number of 32-bit words. -/
def mwords : MSize → Nat
  | .b | .h | .w => 1
  | .d => 2
  | .q => 4

/-- The bytes of an access size (R85). -/
def mbytes : MSize → Nat
  | .b => 1
  | .h => 2
  | .w => 4
  | .d => 8
  | .q => 16

/-- The words that a lane's loaded bytes become: .b and .h extended (R200). -/
def laneWords (sz : MSize) (sext : Bool) (bs : List Byte) : List W32 :=
  match sz with
  | .b => let x : BitVec 8 := bytesW 8 bs; [if sext then x.signExtend 32 else x.setWidth 32]
  | .h => let x : BitVec 16 := bytesW 16 bs; [if sext then x.signExtend 32 else x.setWidth 32]
  | _ => (List.range (mwords sz)).map fun i => BitVec.ofNat 32 (fieldN bs (4 * i) 4)

/-- The bytes of a lane from its parts, in order. -/
def laneBytes (ps : List Part) (lane : Nat) : List Byte := (ps.filter (·.lane == lane)).flatMap (·.data)

/-- LANE_LOAD_RETURN (R204): the registers of every lane are written, and LDC falls. -/
def execLaneLoadReturn (s : State) : Out :=
  let o := s.a0
  .next (match s.op? o with
  | none => s
  | some m =>
    if m.unbound then s else
    match m.agent, m.dest with
    | .lane g, .lanes vd sz sext => (s.delOp o).modGrp g fun r =>
        let r1 := (List.range 96).foldl (fun r l =>
          if m.parts.any (·.lane == l) then r.vput vd l (laneWords sz sext (laneBytes m.parts l)) else r) r
        { r1.outDone m.out with pendV := r1.pendV.filter (·.id != m.out) }
    | _, _ => s.delOp o)

/-! ## Atomics (R163, R206, R207, R298, R307) -/

/-- An FP32 atomic (R206): nearest-even, subnormals kept, no flag. -/
def f32Atom (op : AtomOp) (old x : W64) : W64 :=
  let a := old.toNat % 4294967296
  let b := x.toNat % 4294967296
  w64 (match op with
    | .add => (fmtF32.add .rn false (fmtF32.dec a) (fmtF32.dec b)).1
    | .min => (fmtF32.minMax false false false a b).1
    | .max => (fmtF32.minMax true false false a b).1
    | _ => b)

/-- The new value of an atomic of a size in bytes. -/
def AtomFn.apply (f : AtomFn) (size : Nat) (old x : W64) : W64 :=
  match f with
  | .int op => atomFn op (8 * size) old x
  | .f32 op => f32Atom op old x
  | .fadd64 => w64 (fmtF64.add .rn false (fmtF64.dec old.toNat) (fmtF64.dec x.toNat)).1
  | .fadd32 => f32Atom .add old x

/-- What an atomic writes over old bytes; none for a comparison that fails (R163). -/
def MemOp.newBytes (m : MemOp) (q : Part) (old : List Byte) : Option (List Byte) :=
  let o := bytesW 64 old
  if m.kind = .cas then
    if o = (q.x.toNat % 256 ^ m.asize) then some (wBytes m.asize q.y) else none
  else some (wBytes m.asize (m.fn.apply m.asize o q.y))

/-- The operands of an atomic in a packet's BEN field (R410): function, size, comparand, operand. (DESIGN CHOICE, log 14.) -/
def atomBen (m : MemOp) (q : Part) : BitVec 256 :=
  let code : Nat := match m.kind, m.fn with
    | .cas, _ => 255
    | _, .int op => op.code.toNat
    | _, .f32 op => 16 + op.code.toNat
    | _, .fadd64 => 9
    | _, .fadd32 => 10
  BitVec.ofNat 256 (code + 256 * m.asize) ||| (q.x.setWidth 256 <<< 64) ||| (q.y.setWidth 256 <<< 128)

/-- The PCIe AtomicOp of a host atomic (R404). -/
def MemOp.pcie (m : MemOp) : PcieAtomic :=
  match m.kind, m.fn with
  | .cas, _ => .cas
  | _, .int .swap => .swap
  | _, _ => .fetchAdd

/-- ATOMIC_AT_HOME (R163, R308): indivisibly, the latest value in coherence order is read and the new value accepted. A host atomic
leaves as a PCIe AtomicOp (R404), a peer's goes to the switch slice (R420). -/
def execAtomicAtHome (s : State) : Out :=
  let o := s.a0
  let p := s.a1
  .next (match s.part? o p with
  | none => s
  | some (m, q) =>
    if q.bound then s else
    let blocked := s.earlierWrite m.core ((m.agent.group?).getD 1048576) o q.pa q.len
    let before := (m.parts.take p).any (fun e => !e.bound && e.pa / 256 == q.pa / 256)
    if blocked || before || s.meetsRefresh q.pa || s.pinnedCopy (q.pa / 256) then s.sched 1 .atomicAtHome [o, p] else
    let s := s.rdcInvalidate (dieOf m.core) q.pa q.len
    match paClass q.pa with
    | 0 =>
      let old := s.latestBytes q.pa m.asize
      let new := m.newBytes q old
      let data := match new with
        | some b => b.map some
        | none => List.replicate m.asize none
      let (g, s1) := s.acceptWrite q.pa data o p m.agent m.core
      ((s1.modPart o p fun q => { q with data := old, bound := true, gwct := some g, fill := some (new.getD old, g, s.nextId) }).acquireBinds
        m).schedPath .atomicReply [o, p]
    | 1 =>
      if s.hostFull then s.sched 1 .atomicAtHome [o, p] else
      let (tag, s1) := s.fresh
      let g := s1.gwctOf (q.pa / 256)
      let s2 := ({ s1 with pendingHost := kset s1.pendingHost tag ⟨o, p, m.asize, []⟩ }.modPart o p fun q => { q with gwct := some g }).send
        (.hostAtomic tag (paLow q.pa) m.pcie (m.asize == 8) q.x q.y)
      let (n, s3) := s2.draw
      { s3 with posted := s3.posted ++ [(s.postedKey m, s3.ccount + n)] }
    | _ =>
      match (s.peerUnit m.agent (dieOf m.core) (peerModule q.pa)).bind fun s =>
          s.sendPeer (dieOf m.core) (peerModule q.pa) 3 m.core (peerAddr q.pa) o p (atomBen m q) [] with
      | some s1 => s1
      | none => s.sched 1 .atomicAtHome [o, p])

/-- ATOMIC_REPLY (R307, R37): the old value and the GWCT return; the bytes written enter the masks until PTIME reaches the GWCT, those of a
comparison that failed as they were read (R310); with the last lane the counter falls and a load barrier ends. The reply waits for a way
of the L1 (R339). -/
def execAtomicReply (s : State) : Out :=
  let o := s.a0
  let p := s.a1
  .next (match s.part? o p with
  | none => s
  | some (m, q) =>
    match q.fill, q.gwct with
    | some (new, _, w), some g =>
      let masks := cacheable q.pa q.unc && decide (s.ptime < g) && !new.isEmpty
      match (if masks then s.l1Alloc m.core q.pa else some s) with
      | none => s.sched 1 .atomicReply [o, p]
      | some s0 =>
      let s1 := if masks then (s0.maskWrite m.core q.pa (new.map some) o m.agent (some (g, w))).schedAt g .writeMaskRelease [m.core, q.pa / 256] else s0
      let s3 := (s1.modPart o p fun q => { q with fill := none }).noteGwct m.core (s.ctxOfOp m) g
      let s4 := match m.agent, m.dest with
        | .lane gr, .lanes vd _ _ => s3.modGrp gr fun r => r.vput vd q.lane ((List.range ((m.asize + 3) / 4)).map fun i =>
            BitVec.ofNat 32 (fieldN q.data (4 * i) 4))
        | _, _ => s3
      let waits := (s4.op? o).map fun m => m.parts.any fun e => !e.bound || e.fill.isSome
      if waits.getD false then s4 else
      let gm := m.parts.foldl (fun a q => max a (q.gwct.getD 0)) g
      let s5 := s4.delOp o
      match m.agent with
      | .scalar gr => s5.modGrp gr fun r => { r.replied m.out (bytesW 64 q.data) with gwctMax := max r.gwctMax gm }
      | .lane gr => s5.modGrp gr fun r =>
          let r1 := r.outDone m.out
          { r1 with pendV := r1.pendV.filter (·.id != m.out), gwctMax := max r.gwctMax gm }
      | _ => s5
    | _, _ => s)

/-! ## Wakes and monitors (R174, R344, R372) -/

/-- GROUP_WAKE (R372): a parked group, or a sequencer in TBARW, whose reason is the message's is parked no longer. A wake from SWAITA
completes it (R174). -/
def execGroupWake (g : Nat) (why : WakeWhy) (s : State) : Out :=
  .next (if 10240 ≤ g then
    s.modTeam (g - 10240) fun t => if t.seqSt = .barrierWait ∧ !t.fwdArr then { t with seqSt := .runs } else t
  else
    match s.grp? g with
    | none => s
    | some r =>
      match r.parked, why with
      | some (.barrier n), .barrier k => if n = k then s.setGrp g r.unpark else s
      | some .fen, .fen | some (.sal _), .sal | some .grant, .grant => s.setGrp g r.unpark
      | some .regroup, .regroup => s.setGrp g { r with parked := none }
      | some .watch, .watch =>
        s.setGrp g { r.unpark with watch := none, spc := r.spc + 4, drain := false, drained := false }
      | _, _ => s)

/-- The monitor table of a slice: an L2 slice's or a switch slice's (R344, R418). -/
def State.monTable (s : State) (x : Nat) : List Mon := if x < 192 then (s.slice x).mons else kgetD s.pod.mons (x - 192) []
def State.setMonTable (s : State) (x : Nat) (l : List Mon) : State :=
  if x < 192 then s.modSlice x fun z => { z with mons := l }
  else { s with pod := { s.pod with mons := kset s.pod.mons (x - 192) l } }

/-- The entry that a full table evicts: the earliest arm, ties to the lowest group identity (R344). -/
def monVictim (l : List Mon) : Option Mon :=
  l.foldl (fun a m => match a with
    | none => some m
    | some b => if m.arm < b.arm ∨ (m.arm = b.arm ∧ m.gident < b.gident) then some m else some b) none

/-- MONITOR_ARM (R344, R174): the slice records the watch and its time; a full table evicts an entry and wakes its group. (DEDUCED, log 52.) -/
def execMonitorArm (s : State) : Out :=
  let g := s.a0
  .next (match s.grp? g with
  | none => s
  | some r =>
    match r.watch, r.parked with
    | some w, some .watch =>
      let l := (s.monTable w.slice).filter (·.gident != g)
      let (l1, s1) := if l.length < 256 then (l, s) else
        match monVictim l with
        | some v => (l.erase v, s.sendWake w.slice v.gident)
        | none => (l, s)
      let till := s.ptime + s.leaseTicks r.lease.toNat
      ((s1.setMonTable w.slice (l1 ++ [⟨w.line, g, s.ptime⟩])).modGrp g fun r => { r with
        watch := some { w with armed := some s.ptime, until_ := till } }).schedAt till .swaitaTimeout [g]
    | _, _ => s)

/-- SWAITA_TIMEOUT (R174): at arm + LEASE the slice frees the entry and sends a wake. -/
def execSwaitaTimeout (s : State) : Out :=
  let g := s.a0
  .next (match (s.grp? g).bind (·.watch) with
  | some w =>
    if (s.monTable w.slice).any (fun m => m.gident == g) && decide (w.until_ ≤ s.ptime) then
      (s.setMonTable w.slice ((s.monTable w.slice).filter (·.gident != g))).sendWake w.slice g
    else s
  | none => s)

/-- MONITOR_NOTICE (R344): a notice of a write at the L2 home wakes the switch slice's watches on the line. (DEDUCED, log 52.) -/
def execMonitorNotice (s : State) : Out := .next (s.wakePeerLine s.a0)

/-! ## Refresh (R341) and soft errors (R342) -/

/-- DRAM_REFRESH: a channel starts a refresh, which lasts 28 reference periods (bonded) or 56 (LPDDR) of 600 ticks. -/
def execDramRefresh (die chan : Nat) (lpddr : Bool) (s : State) : Out :=
  .next ((s.modDie die fun d => { d with refresh := (chan, lpddr) :: d.refresh.filter (· != (chan, lpddr)) }).schedAt
    (s.ptime + (if lpddr then 56 else 28) * 120) (.refreshEnd die chan lpddr))

/-- REFRESH_END: the accesses that wait on the channel go on. -/
def execRefreshEnd (die chan : Nat) (lpddr : Bool) (s : State) : Out :=
  .next (s.modDie die fun d => { d with refresh := d.refresh.filter (· != (chan, lpddr)) })

/-- SOFT_ERROR (R342): a correctable one is counted; an uncorrectable one poisons the aligned 8 bytes: of the home (DRAM, L2), of the copy that an
L1 or RDC holds at a physical address, or of a team's scratchpad (by the core's scratchpad address). (DEDUCED, log 35.) -/
def execSoftError (arr : ErrArray) (addr : Nat) (correctable : Bool) (s : State) : Out :=
  let word : BitVec 32 := (1 : BitVec 32) <<< (addr % 256 / 8)
  .next (if correctable then { s with softErrs := s.softErrs + 1 }
  else match arr with
    | .scratchpad core => { s with teams := s.teams.map fun p =>
        if p.2.core = core ∧ p.2.spBase ≤ addr ∧ addr < p.2.spBase + p.2.spSize then
          (p.1, { p.2 with poison := (addr - p.2.spBase) / 8 * 8 :: p.2.poison })
        else p }
    | .l1 core => s.modCore core fun c => { c with l1 := kmod c.l1 (l1Set (addr / 256)) (·.spoil (addr / 256) word) }
    | .rdc die => s.modDie die fun d => { d with rdc := kmod d.rdc (rdcSet (addr / 256)) (·.spoil (addr / 256) word) }
    | _ => { s with poison := addr / 8 * 8 :: s.poison })

end Sys2Proof.Machine
end

