-- ==== Sys2Proof/Machine/LaneOps.lean ====
section
/-! DEFINITION. The discipline of the lane stream (spec/06 R189 to R191, R491; spec/02 R97, R24, R82): register checks, scoreboard,
operands, beats, the pipeline, and when results are written (spec/07 R225, R226). -/
namespace Sys2Proof.Machine

/-! ## Masks and beats (R27, R189) -/

/-- The effective mask under a prefix. -/
def Group.eff (r : Group) (men : Option (BitVec 4)) : Mask :=
  match men with
  | some k => r.exec &&& r.kreg k.toNat
  | none => r.exec

/-- The lanes of a mask in ascending order. -/
def lanesOf (m : Mask) : List Nat := (List.range 96).filter fun l => m.getLsbD l

/-- The beats that issue: those with a lane of the mask. -/
def beatsOf (m : Mask) : List Nat := (List.range 3).filter fun j => ((m >>> (32 * j)) &&& (0xFFFFFFFF : Mask)) != 0

/-- A mask from a function of lanes. -/
def maskOf (f : Nat → Bool) : Mask := (List.range 96).foldl (fun m l => if f l then m ||| ((1 : Mask) <<< l) else m) 0

/-! ## What an instruction names (R82, R24, R190) -/

/-- Lane registers read and written, each as first register, count and alignment; masks read and written; the counter raised; whether
the SFU executes it. -/
structure LNeeds where
  vr : List (Nat × Nat × Nat)
  vw : List (Nat × Nat × Nat)
  kr : List Nat
  kw : List Nat
  ctr : Option Ctr
  sfu : Bool
  deriving DecidableEq, Repr

/-- The register that the allotment check of an operand looks at: the last of those that it takes up from the named one on, of a
pair its odd register (R24, R82). (DEDUCED, log 30.) -/
def topReg (x : Nat × Nat × Nat) : Nat := x.1 + x.2.1 - 1

/-- Step 7 of R97: beyond 767 or the allotment first, then alignment. (DEDUCED, log 30.) -/
def Group.regBad (r : Group) (n : LNeeds) : Option Nat :=
  let all := n.vr ++ n.vw
  if all.any fun x => decide (768 ≤ topReg x ∨ r.allot ≤ topReg x) then some 0x0001
  else if all.any fun x => decide (x.1 % x.2.2 ≠ 0) then some 0x0002
  else none

/-- Whether an operand waits for an earlier result (R190), the SFU queue is full (R226) or the counter stands at 63 (R38). -/
def Group.laneStall (r : Group) (n : LNeeds) : Bool :=
  let hitV := fun (p : PendV) => !p.mask && (n.vr ++ n.vw).any fun x => decide (p.lo < x.1 + x.2.1 ∧ x.1 < p.lo + p.n)
  let hitK := fun (p : PendV) => p.mask && (n.kr ++ n.kw).contains p.lo
  r.pendV.any (fun p => hitV p || hitK p) || (n.sfu && decide (8 ≤ (r.lres.filter (·.sfu)).length)) ||
    (match n.ctr with | some c => decide (63 ≤ r.ctr c) | none => false)

/-! ## The frame of a lane instruction -/

/-- How a lane instruction ends its step: it goes on behind itself, having occupied the pipeline for so many cycles with so many
beats; goes to an address; cannot issue yet; has issued and waits; ends its block; raises a trap. -/
inductive LRes where
  | done (s : State) (cyc beats : Nat)
  | jump (s : State) (pc : W64)
  | stay (s : State)
  | part (s : State)
  | vend (s : State)
  | trap (s : State) (b : Bad)

/-- Counts an issued instruction in its block (R482) and occupies the pipeline of its slot (R371). -/
def State.laneIssued (s : State) (g cyc beats : Nat) : State :=
  let s1 := s.modGrp g fun r => { r with blk := r.blk.map fun b => { b with
    first := b.first.or (some s.ccount), instrs := b.instrs + 1, beats := b.beats + beats } }
  (s1.modCore (coreOfG g) fun c => { c with pipe := c.pipe.setIfInBounds (slotOfG g) (s.ccount + max cyc 1) }).issued

/-- A lane trap: the address is the instruction's (R97, R382). -/
def State.laneTrap (s : State) (g : Nat) (b : Bad) : State := (s.raise g true b).issued

/-- The frame of every lane instruction of `len` bytes: the running block of the current group, the register checks, the scoreboard,
the advance of LPC. (DEDUCED, log 30.) -/
def laneOp (len : Nat) (n : LNeeds) (s : State) (k : Nat → Group → State → LRes) : Out :=
  .next (match s.cur with
  | .lane g =>
    match s.grp? g with
    | none => s
    | some r =>
      match r.regBad n with
      | some sub => s.laneTrap g (illegal sub)
      | none =>
        if r.laneStall n then s else
        match k g r s with
        | .done s1 cyc beats => (s1.modGrp g fun x => { x with lpc := r.lpc + w64 len }).laneIssued g cyc beats
        | .jump s1 pc => (s1.modGrp g fun x => { x with lpc := pc }).laneIssued g 1 0
        | .stay s1 => s1
        | .part s1 => s1.laneIssued g 1 0
        | .vend s1 => s1.issued
        | .trap s1 b => s1.laneTrap g b
  | _ => s)

/-- Bytes of an instruction with the shared fields: a prefix word adds 4 (R76). -/
def laneLen (f : LaneF) : Nat := if f.pfx then 16 else 12

/-! ## Operands (R81, R82, R223) -/

/-- Registers of one operand of a type. -/
def tyRegs (t : LType) : Nat := if t.is64 then 2 else 1
/-- Width of an element in bits. -/
def tyWidth (t : LType) : Nat := if t.is64 then 64 else 32 / t.elems

/-- An operand of a type: the register, its count and alignment. -/
def regOf (t : LType) (x : BitVec 10) : Nat × Nat × Nat := (x.toNat, tyRegs t, tyRegs t)

/-- Operand b as a register. -/
def bRegs (f : LaneF) : List (Nat × Nat × Nat) :=
  match f.b with
  | .reg x => [regOf f.ty x]
  | _ => []

/-- The mask of the prefix as a mask that is read. -/
def kRegs (f : LaneF) : List Nat := (f.men.map (·.toNat)).toList

/-- Needs of an instruction with operands of its type: `useA`, `useC`, and whether vd is a mask. -/
def laneNeeds (f : LaneF) (useA : Bool) (toMask : Bool) : LNeeds :=
  { vr := (if useA then [regOf f.ty f.va] else []) ++ bRegs f ++ ((f.vc.map (regOf f.ty)).toList)
    vw := if toMask then [] else [regOf f.ty f.vd]
    kr := kRegs f
    kw := if toMask then [f.vd.toNat % 16] else []
    ctr := none
    sfu := false }

/-- The value of a register operand of a lane: 32 bits, or a pair (R23). -/
def Group.rd (r : Group) (t : LType) (x : BitVec 10) (lane : Nat) : W64 :=
  if t.is64 then (r.vread (x.toNat + 1) lane ++ r.vread x.toNat lane : BitVec 64) else (r.vread x.toNat lane).setWidth 64

/-- FP32 bits widened to FP64 exactly (R81); NaN payloads move with the value. -/
def widen32 (w : W32) : W64 :=
  match fmtF32.dec w.toNat with
  | .fin n m e => if m = 0 then w64 (fmtF64.signBit n) else w64 ((fmtF64.rnd .rn false n m e).1)
  | .inf n => w64 (fmtF64.signBit n + fmtF64.infCode)
  | .nan _ => w64 (fmtF64.signBit w.msb + fmtF64.infCode + w.toNat % 8388608 * 536870912)

/-- Operand b of a lane, widened by the type (R81). -/
def Group.rdB (r : Group) (f : LaneF) (snap : Snap) (lane : Nat) : W64 :=
  match f.b with
  | .reg x => r.rd f.ty x lane
  | .imm w => match f.ty with
    | .i64 => w.signExtend 64
    | .f64 => widen32 w
    | _ => w.setWidth 64
  | .snap n => let v := snap.getD n.toNat 0
    if f.ty.is64 then v else (v.setWidth 32).setWidth 64
  | .none => 0

/-- Operand c of a lane. -/
def Group.rdC (r : Group) (f : LaneF) (lane : Nat) : W64 :=
  match f.vc with
  | some x => r.rd f.ty x lane
  | none => 0

/-- The words of a value of a type. -/
def tyWords (t : LType) (x : W64) : List W32 :=
  if t.is64 then [x.setWidth 32, x.extractLsb' 32 32] else [x.setWidth 32]

/-- Elements of a value, element 0 first (R124). -/
def elemsOf (n w : Nat) (x : W64) : List Nat := (List.range n).map fun e => x.toNat / 2 ^ (w * e) % 2 ^ w
/-- A value from its elements. -/
def ofElems (w : Nat) (l : List Nat) : W64 := w64 (l.foldr (fun e acc => e % 2 ^ w + 2 ^ w * acc) 0)

/-! ## Results (R191, R225, R226, R491) -/

/-- When an instruction's result is written: at the end of each beat's issue cycle; so many cycles after each beat; after the last
beat; by the SFU after the last beat. -/
inductive When where
  | now
  | beat (n : Nat)
  | last (n : Nat)
  | sfu (n : Nat)
  deriving DecidableEq, Repr

/-- The value of one lane: its words, its mask bits (mask number, bit), its flags. -/
structure LVal where
  lane : Nat
  ws : List W32
  ks : List (Nat × Bool)
  fl : BitVec 8
  deriving DecidableEq, Repr

/-- The lanes that take zero: in EXEC, outside the prefix mask, in a beat that issues (R191, R27). (DEDUCED, log 9.) -/
def Group.zeroLanes (r : Group) (f : LaneF) (eff : Mask) : List Nat :=
  if f.zero then (lanesOf r.exec).filter fun l => !eff.getLsbD l && (beatsOf eff).contains (l / 32) else []

/-- Lane-register writes of some lanes: consecutive registers from vd. -/
def vWrites (vd : Nat) (lane : Nat) (ws : List W32) : List (Nat × W32) := ws.mapIdx fun i w => ((vd + i) * 96 + lane, w)

/-- Changes bits of a mask. -/
def setBits (m : Mask) (l : List (Nat × Bool)) : Mask :=
  l.foldl (fun m p => if p.2 then m ||| ((1 : Mask) <<< p.1) else m &&& ~~~((1 : Mask) <<< p.1)) m

/-- What an instruction leaves: lane registers with their keys, masks (number, the bits written, their values), flags. -/
abbrev LaneOut := List (Nat × W32) × List (Nat × Mask × Mask) × BitVec 8

/-- Writes results: lane registers, the written bits of masks, flags ORed in (R30, R191). -/
def Group.results (r : Group) (now : Nat) (vw : List (Nat × W32)) (kw : List (Nat × Mask × Mask)) (fl : BitVec 8) : Group :=
  let v := vw.foldl (fun v p => if r.writable (p.1 / 96) then sset v p.1 p.2 else v) r.v
  let k := kw.foldl (fun (k : Vector Mask 16) p => k.setIfInBounds p.1 ((k.toList.getD p.1 0 &&& ~~~p.2.1) ||| (p.2.2 &&& p.2.1))) r.k
  { r with v := v, k := k }.setFlags now fl

/-- The result of an instruction over some beats. -/
def Group.resultOf (r : Group) (f : LaneF) (eff : Mask) (vd n : Nat) (kws : List Nat) (vals : List LVal) (beats : List Nat) :
    LaneOut :=
  let vs := vals.filter fun v => beats.contains (v.lane / 32)
  let zs := (r.zeroLanes f eff).filter fun l => beats.contains (l / 32)
  (vs.flatMap (fun v => vWrites vd v.lane v.ws) ++ zs.flatMap (fun l => vWrites vd l (List.replicate n 0)),
   kws.map (fun k =>
     let bits := vs.flatMap (fun v => (v.ks.filter (·.1 == k)).map fun b => (v.lane, b.2)) ++ zs.map (·, false)
     (k, setBits 0 (bits.map fun p => (p.1, true)), setBits 0 bits)),
   vs.foldl (fun a v => a ||| v.fl) 0)

/-- Queues a result for a later cycle: its registers are pending until then (R190). -/
def State.later (s : State) (g : Nat) (sfu : Bool) (cycles vd n : Nat) (res : LaneOut) : State :=
  match s.grp? g with
  | none => s
  | some r =>
    let (id, s1) := s.fresh
    let last := (r.lres.filter (·.sfu)).foldl (fun a p => max a p.due) 0
    let due := if sfu then max (s.ccount + cycles) last else s.ccount + cycles
    let pv := (if n = 0 then [] else [(⟨id, false, vd, n, r.lpc⟩ : PendV)]) ++ res.2.1.map fun k => (⟨id, true, k.1, 1, r.lpc⟩ : PendV)
    let r1 := { r with
      lres := r.lres ++ [(⟨id, sfu, res.1, res.2.1, res.2.2, due, r.lpc⟩ : LanePend)]
      pendV := r.pendV ++ pv }
    (s1.setGrp g r1).sched (due - s.ccount) (if sfu then .sfuResultWrite else .laneResultWrite) [g, id]

/-- The end of a data instruction: its beats issue, each for its number of cycles, and its results are written when its row says so: those of
a row without a delay at the end of each beat's last cycle. (DEDUCED, log 9.) (DEDUCED, log 53.) -/
def finish (f : LaneF) (wh : When) (pers : List Nat) (vd n : Nat) (kws : List Nat) (g : Nat) (r : Group) (eff : Mask) (vals : List LVal)
    (s : State) : LRes :=
  let bs := beatsOf eff
  let start := fun (j : Nat) => (pers.take j).sum
  let res := fun (l : List Nat) => r.resultOf f eff vd n kws vals l
  let each := fun (delay : Nat → Nat) => (List.range bs.length).foldl (fun s j =>
    let x := res [bs.getD j 0]
    if delay j = 0 then s.modGrp g fun y => y.results s.ccount x.1 x.2.1 x.2.2 else s.later g false (delay j) vd n x) s
  let lastStart := start (bs.length - 1)
  let s1 := match wh with
    | .now => each fun j => start j + pers.getD j 1 - 1
    | .beat c => each fun j => start j + c
    | .last c => if bs.isEmpty then s else s.later g false (lastStart + c) vd n (res bs)
    | .sfu c => if bs.isEmpty then s else s.later g true (lastStart + c) vd n (res bs)
  .done s1 (start bs.length) bs.length

/-- The cycles of the beats of an instruction: two each for .f64 (R225). -/
def beatCycles (slow : Bool) (eff : Mask) : List Nat := (beatsOf eff).map fun _ => if slow then 2 else 1

/-- A data instruction whose value is computed lane by lane. -/
def dataOp (f : LaneF) (n : LNeeds) (wh : When) (slow : Bool) (vals : Group → Snap → Mask → List LVal) (s : State) : Out :=
  laneOp (laneLen f) n s fun g r s =>
    let eff := r.eff f.men
    let (vd, cnt) := match n.vw with
      | x :: _ => (x.1, x.2.1)
      | [] => (0, 0)
    finish f wh (beatCycles slow eff) vd cnt n.kw g r eff (vals r r.blkSnap eff) s

/-- A pending lane result is written: registers, masks and flags, in one update (R227). -/
def Group.landLane (r : Group) (now id : Nat) : Group :=
  match r.lres.find? (·.id == id) with
  | none => r
  | some p =>
    { r.results now p.vw p.kw p.flags with
      lres := r.lres.filter (·.id != id), pendV := r.pendV.filter (·.id != id) }

/-- LANE_RESULT_WRITE (R225, R491). -/
def execLaneResultWrite (s : State) : Out := .next (s.modGrp s.a0 fun r => r.landLane s.ccount s.a1)
/-- SFU_RESULT_WRITE (R226). -/
def execSfuResultWrite (s : State) : Out := .next (s.modGrp s.a0 fun r => r.landLane s.ccount s.a1)

end Sys2Proof.Machine
end

