-- ==== Sys2Proof/Machine/LaneInt.lean ====
section
/-! DEFINITION. Lane integer, data-movement and mask instructions (spec/06 R192 to R199, R491). -/
namespace Sys2Proof.Machine

/-! ## Elements (R193) -/

/-- A w-bit pattern as a two's complement number. -/
def sInt (w a : Nat) : Int := if a < 2 ^ (w - 1) then (a : Int) else (a : Int) - 2 ^ w
/-- The value of an element under its type. -/
def eInt (t : LType) (w a : Nat) : Int := if t.signed then sInt w a else (a : Int)
/-- The w low bits of an integer. -/
def lowBits (w : Nat) (x : Int) : Nat := (x % (2 ^ w : Nat)).toNat

/-- The smallest and largest value of an integer type of width w. -/
def tyMin (t : LType) (w : Nat) : Int := if t.signed then -(2 ^ (w - 1) : Nat) else 0
def tyMax (t : LType) (w : Nat) : Int := if t.signed then (2 ^ (w - 1) : Nat) - 1 else (2 ^ w : Nat) - 1

/-- An exact result wrapped, or saturated with IOVF (R193). -/
def wrapOrSat (t : LType) (w : Nat) (sat : Bool) (x : Int) : Nat × BitVec 8 :=
  if sat then
    if x < tyMin t w then (lowBits w (tyMin t w), fIOVF)
    else if tyMax t w < x then (lowBits w (tyMax t w), fIOVF)
    else (lowBits w x, 0)
  else (lowBits w x, 0)

/-- Applies an element function (width, a, b, c) to every element of a value (R124). -/
def mapElems (t : LType) (fn : Nat → Nat → Nat → Nat → Nat × BitVec 8) (x y z : W64) : W64 × BitVec 8 :=
  let w := tyWidth t
  let rs := (List.range t.elems).map fun e =>
    fn w (x.toNat / 2 ^ (w * e) % 2 ^ w) (y.toNat / 2 ^ (w * e) % 2 ^ w) (z.toNat / 2 ^ (w * e) % 2 ^ w)
  (ofElems w (rs.map (·.1)), rs.foldl (fun a p => a ||| p.2) 0)

/-- The value of each lane of the effective mask from a function of its operands. -/
def laneVals (f : LaneF) (fn : W64 → W64 → W64 → W64 × BitVec 8) (r : Group) (sn : Snap) (eff : Mask) : List LVal :=
  (lanesOf eff).map fun l =>
    let p := fn (r.rd f.ty f.va l) (r.rdB f sn l) (r.rdC f l)
    ⟨l, tyWords f.ty p.1, [], p.2⟩

/-- An integer instruction on elements. -/
def intOp (f : LaneF) (wh : When) (fn : Nat → Nat → Nat → Nat → Nat × BitVec 8) (s : State) : Out :=
  dataOp f (laneNeeds f true false) wh false (laneVals f (mapElems f.ty fn)) s

/-- When a multiply writes (R491). -/
def mulWhen (t : LType) : When := .beat (if t.is64 then 8 else 4)

/-- The shift count: the low log2(w) bits of b (R193). -/
def shCount (w b : Nat) : Nat := b % w

def execVadd (f : LaneF) (sat : Bool) (s : State) : Out :=
  intOp f .now (fun w a b _ => wrapOrSat f.ty w sat (eInt f.ty w a + eInt f.ty w b)) s
def execVsub (f : LaneF) (sat : Bool) (s : State) : Out :=
  intOp f .now (fun w a b _ => wrapOrSat f.ty w sat (eInt f.ty w a - eInt f.ty w b)) s
def execVmul (f : LaneF) (s : State) : Out := intOp f (mulWhen f.ty) (fun w a b _ => (a * b % 2 ^ w, 0)) s
def execVmulh (f : LaneF) (s : State) : Out :=
  intOp f (mulWhen f.ty) (fun w a b _ => (lowBits w (eInt f.ty w a * eInt f.ty w b / (2 ^ w : Nat)), 0)) s
def execVmad (f : LaneF) (s : State) : Out := intOp f (mulWhen f.ty) (fun w a b c => ((a * b + c) % 2 ^ w, 0)) s
def execVand (f : LaneF) (s : State) : Out := intOp f .now (fun _ a b _ => (a &&& b, 0)) s
def execVor (f : LaneF) (s : State) : Out := intOp f .now (fun _ a b _ => (a ||| b, 0)) s
def execVxor (f : LaneF) (s : State) : Out := intOp f .now (fun _ a b _ => (a ^^^ b, 0)) s
def execVnot (f : LaneF) (s : State) : Out := intOp f .now (fun w a _ _ => (2 ^ w - 1 - a, 0)) s
def execVshl (f : LaneF) (s : State) : Out := intOp f .now (fun w a b _ => (a * 2 ^ shCount w b % 2 ^ w, 0)) s
def execVshr (f : LaneF) (s : State) : Out := intOp f .now (fun w a b _ => (a / 2 ^ shCount w b, 0)) s
def execVsra (f : LaneF) (s : State) : Out := intOp f .now (fun w a b _ => (lowBits w (sInt w a / (2 ^ shCount w b : Nat)), 0)) s
def execVmin (f : LaneF) (s : State) : Out :=
  intOp f .now (fun w a b _ => (if eInt f.ty w a ≤ eInt f.ty w b then a else b, 0)) s
def execVmax (f : LaneF) (s : State) : Out :=
  intOp f .now (fun w a b _ => (if eInt f.ty w a ≤ eInt f.ty w b then b else a, 0)) s
def execVabs (f : LaneF) (sat : Bool) (s : State) : Out :=
  intOp f .now (fun w a _ _ => wrapOrSat f.ty w sat (if sInt w a < 0 then -sInt w a else sInt w a)) s
def execVneg (f : LaneF) (sat : Bool) (s : State) : Out := intOp f .now (fun w a _ _ => wrapOrSat f.ty w sat (-sInt w a)) s
def execVpopc (f : LaneF) (s : State) : Out := intOp f .now (fun w a _ _ => (popW w a, 0)) s
def execVclz (f : LaneF) (s : State) : Out := intOp f .now (fun w a _ _ => (clzW w a, 0)) s

/-- The field of b: position and width used (R194). -/
def fieldOf (b : Nat) : Nat × Nat := (b % 32, min (b / 256 % 64) (32 - b % 32))

def execVbfx (f : LaneF) (s : State) : Out :=
  intOp f .now (fun w a b _ =>
    let (p, q) := fieldOf b
    if q = 0 then (0, 0) else
    let x := a / 2 ^ p % 2 ^ q
    (if f.ty.signed then lowBits w (sInt q x) else x, 0)) s

/-- VBFI (R194) reads vd as a source. -/
def execVbfi (f : LaneF) (s : State) : Out :=
  let n := laneNeeds f true false
  dataOp f { n with vr := regOf f.ty f.vd :: n.vr } .now false (fun r sn eff => (lanesOf eff).map fun l =>
    let a := (r.rd f.ty f.va l).toNat
    let d := (r.rd f.ty f.vd l).toNat
    let (p, q) := fieldOf (r.rdB f sn l).toNat
    let m := (2 ^ q - 1) * 2 ^ p
    let x := if q = 0 then d else (d &&& (4294967295 - m)) ||| (a % 2 ^ q * 2 ^ p)
    ⟨l, [BitVec.ofNat 32 x], [], 0⟩) s

def execVsel (f : LaneF) (k : BitVec 4) (s : State) : Out :=
  let n := laneNeeds f true false
  dataOp f { n with kr := k.toNat :: n.kr } .now false (fun r sn eff => (lanesOf eff).map fun l =>
    ⟨l, tyWords f.ty (if (r.kreg k.toNat).getLsbD l then r.rd f.ty f.va l else r.rdB f sn l), [], 0⟩) s

/-- A condition of VCMP (R195). -/
def vcondHolds (c : VCond) (a b : Int) : Bool :=
  match c with
  | .eq => decide (a = b)
  | .ne => decide (a ≠ b)
  | .lt => decide (a < b)
  | .ge => decide (b ≤ a)
  | .le => decide (a ≤ b)
  | .gt => decide (b < a)

def execVcmp (f : LaneF) (c : VCond) (any : Bool) (s : State) : Out :=
  dataOp f (laneNeeds f true true) .now false (fun r sn eff => (lanesOf eff).map fun l =>
    let w := tyWidth f.ty
    let x := elemsOf f.ty.elems w (r.rd f.ty f.va l)
    let y := elemsOf f.ty.elems w (r.rdB f sn l)
    let hs := (List.range f.ty.elems).map fun e => vcondHolds c (eInt f.ty w (x.getD e 0)) (eInt f.ty w (y.getD e 0))
    ⟨l, [], [(f.vd.toNat % 16, if any then hs.any id else hs.all id)], 0⟩) s

/-- VADDC and VSUBB (R196): the carry mask is read and written. -/
def carryOp (f : LaneF) (k : BitVec 4) (fn : Nat → Nat → Nat → Nat × Bool) (s : State) : Out :=
  let n := laneNeeds f true false
  dataOp f { n with kr := k.toNat :: n.kr, kw := [k.toNat] } .now false (fun r sn eff => (lanesOf eff).map fun l =>
    let p := fn (r.rd f.ty f.va l).toNat (r.rdB f sn l).toNat (if (r.kreg k.toNat).getLsbD l then 1 else 0)
    ⟨l, [BitVec.ofNat 32 p.1], [(k.toNat, p.2)], 0⟩) s

def execVaddc (f : LaneF) (k : BitVec 4) (s : State) : Out :=
  carryOp f k (fun a b c => ((a + b + c) % 4294967296, decide (4294967296 ≤ a + b + c))) s
def execVsubb (f : LaneF) (k : BitVec 4) (s : State) : Out :=
  carryOp f k (fun a b c => ((a + 2 * 4294967296 - b - c) % 4294967296, decide (a < b + c))) s

/-! ## Data movement (R197) -/

def execVmov (f : LaneF) (s : State) : Out :=
  dataOp f (laneNeeds f false false) .now false (fun r sn eff => (lanesOf eff).map fun l =>
    ⟨l, tyWords f.ty (r.rdB f sn l), [], 0⟩) s

/-- The value of a source lane, zero beyond 95. -/
def Group.rdLane (r : Group) (f : LaneF) (j : Nat) : W64 := if j ≤ 95 then r.rd f.ty f.va j else 0

def execVperm (f : LaneF) (s : State) : Out :=
  dataOp f (laneNeeds f true false) (.last 6) false (fun r sn eff => (lanesOf eff).map fun l =>
    ⟨l, tyWords f.ty (r.rdLane f ((r.rdB f sn l).toNat % 128)), [], 0⟩) s

def execVbcast (f : LaneF) (s : State) : Out :=
  dataOp f (laneNeeds f true false) (.last 6) false (fun r sn eff =>
    let j := (r.rdB f sn ((lanesOf eff).headD 0)).toNat % 128
    let v := tyWords f.ty (r.rdLane f j)
    (lanesOf eff).map fun l => ⟨l, v, [], 0⟩) s

def execVballot (f : LaneF) (s : State) : Out :=
  dataOp f (laneNeeds f true true) .now false (fun r _ eff => (lanesOf eff).map fun l =>
    ⟨l, [], [(f.vd.toNat % 16, r.rd f.ty f.va l != 0)], 0⟩) s

/-! ## Reductions (R198) -/

/-- The floating format of a lane type. -/
def fmtOf (t : LType) : Option Fmt :=
  match t with
  | .f16x2 => some fmtF16
  | .bf16x2 => some fmtBF16
  | .f32 => some fmtF32
  | .f64 => some fmtF64
  | _ => none

/-- Rounding mode, FTZ and DAZ of FMODE (R51). -/
def Group.fmodeRM (r : Group) : Mode := Mode.ofRM (r.fmode.toNat % 4)
def Group.ftz (r : Group) : Bool := r.fmode.getLsbD 2
def Group.daz (r : Group) : Bool := r.fmode.getLsbD 3

/-- One step of a reduction on elements. -/
def redStep (r : Group) (t : LType) (op : RedOp) (w a b : Nat) : Nat × BitVec 8 :=
  match fmtOf t with
  | some fm =>
    match op with
    | .add => fm.add r.fmodeRM r.ftz (fm.decD r.daz a) (fm.decD r.daz b)
    | .max => fm.minMax true false r.daz a b
    | _ => fm.minMax false false r.daz a b
  | none =>
    match op with
    | .add => ((a + b) % 2 ^ w, 0)
    | .min => (if eInt t w a ≤ eInt t w b then a else b, 0)
    | .max => (if eInt t w a ≤ eInt t w b then b else a, 0)
    | .and => (a &&& b, 0)
    | .or => (a ||| b, 0)
    | .xor => (a ^^^ b, 0)

/-- The identity of an operation (R198). -/
def redId (t : LType) (op : RedOp) (w : Nat) : Nat :=
  match fmtOf t with
  | some fm =>
    match op with
    | .add => fm.signBit true
    | .max => fm.signBit true + fm.infCode
    | _ => fm.infCode
  | none =>
    match op with
    | .add | .or | .xor => 0
    | .and => 2 ^ w - 1
    | .min => lowBits w (tyMax t w)
    | .max => lowBits w (tyMin t w)

/-- Combines two values element by element. -/
def redPair (r : Group) (t : LType) (op : RedOp) (x y : W64) : W64 × BitVec 8 :=
  mapElems t (fun w a b _ => redStep r t op w a b) x y 0

/-- The combination of the first lane alone: a floating-point value as the operation writes it, so a NaN becomes the default NaN and a
subnormal obeys DAZ and FTZ (R126, R130, R131); an integer as it is. (DEDUCED, log 10.) -/
def redFirst (r : Group) (t : LType) (op : RedOp) (x : W64) : W64 × BitVec 8 :=
  mapElems t (fun w a _ _ =>
    match fmtOf t, op with
    | some fm, .add => fm.narrow r.fmodeRM r.ftz false none (fm.decD r.daz a)
    | some _, _ => redStep r t op w a a
    | none, _ => (a, 0)) x 0 0

/-- The running combinations of a list of values, each with the flags of its step. -/
def scanGo (r : Group) (t : LType) (op : RedOp) : W64 → List W64 → List (W64 × BitVec 8)
  | _, [] => []
  | acc, x :: xs => let p := redPair r t op acc x; p :: scanGo r t op p.1 xs

/-- Combinations over the lanes of the mask, one for each lane, inclusive. -/
def scanAll (r : Group) (f : LaneF) (op : RedOp) (eff : Mask) : List (W64 × BitVec 8) :=
  match (lanesOf eff).map (r.rd f.ty f.va) with
  | [] => []
  | x :: xs => let p := redFirst r f.ty op x; p :: scanGo r f.ty op p.1 xs

def execVred (f : LaneF) (op : RedOp) (s : State) : Out :=
  dataOp f (laneNeeds f true false) (.last 6) (f.ty == .f64) (fun r _ eff =>
    let sc := scanAll r f op eff
    let v := tyWords f.ty ((sc.getLast?.map (·.1)).getD 0)
    let fl := sc.foldl (fun (a : BitVec 8) p => a ||| p.2) 0
    (lanesOf eff).map fun l => ⟨l, v, [], fl⟩) s

/-- VSCAN (R198): with EXCL the last lane's own element enters no sum, so its step sets no flag. (DEDUCED, log 53.) -/
def execVscan (f : LaneF) (op : RedOp) (excl : Bool) (s : State) : Out :=
  dataOp f (laneNeeds f true false) (.last 6) (f.ty == .f64) (fun r _ eff =>
    let w := tyWidth f.ty
    let sc := scanAll r f op eff
    let ident := ofElems w (List.replicate f.ty.elems (redId f.ty op w))
    let vs := if excl then (ident, (0 : BitVec 8)) :: sc.dropLast else sc
    (lanesOf eff).mapIdx fun i l => let p := vs.getD i (0, 0); ⟨l, tyWords f.ty p.1, [], p.2⟩) s

/-! ## Masks (R199) -/

/-- A mask instruction: lanes in EXEC take the bit, the others keep theirs; one issue cycle, no beat. -/
def maskOp (reads : List (BitVec 4)) (d : BitVec 4) (fn : Group → Mask) (s : State) : Out :=
  laneOp 12 ⟨[], [], reads.map (·.toNat), [d.toNat], none, false⟩ s fun g r s =>
    let m := (r.exec &&& fn r) ||| (~~~r.exec &&& r.kreg d.toNat)
    .done (s.setGrp g (r.kset' d.toNat m)) 1 0

def execKand (d a b : BitVec 4) (s : State) : Out := maskOp [a, b] d (fun r => r.kreg a.toNat &&& r.kreg b.toNat) s
def execKor (d a b : BitVec 4) (s : State) : Out := maskOp [a, b] d (fun r => r.kreg a.toNat ||| r.kreg b.toNat) s
def execKxor (d a b : BitVec 4) (s : State) : Out := maskOp [a, b] d (fun r => r.kreg a.toNat ^^^ r.kreg b.toNat) s
def execKnot (d a : BitVec 4) (s : State) : Out := maskOp [a] d (fun r => ~~~(r.kreg a.toNat)) s
def execKmov (d a : BitVec 4) (s : State) : Out := maskOp [a] d (fun r => r.kreg a.toNat) s

end Sys2Proof.Machine
end

