-- ==== Sys2Proof/Machine/LaneFp.lean ====
section
/-! DEFINITION. Lane floating-point, special-function and conversion instructions (spec/07). -/
namespace Sys2Proof.Machine

/-! ## Rounding mode, latency (R224, R225) -/

/-- The rounding mode of an instruction: its prefix, or FMODE (R224). -/
def Group.modeOf (r : Group) (f : LaneF) : Mode :=
  if f.rnd = 0 then r.fmodeRM else Mode.ofRM (f.rnd.toNat - 1)

/-- FP latency of a type. -/
def fpWhen (t : LType) : When := .last (if t = .f64 then 8 else 4)
/-- A .f64 beat takes two cycles. -/
def isSlow (t : LType) : Bool := t == .f64

/-- The format of a floating type; .f32 for the others. -/
def fpFmt (t : LType) : Fmt := (fmtOf t).getD fmtF32

/-- An instruction computed element by element on decoded operands (R223, R228). -/
def fpOp (f : LaneF) (wh : When) (fn : Fmt → Mode → Bool → FVal → FVal → FVal → FRes) (s : State) : Out :=
  let fm := fpFmt f.ty
  dataOp f (laneNeeds f true false) wh (isSlow f.ty) (fun r sn eff =>
    laneVals f (mapElems f.ty fun _ a b c =>
      fn fm (r.modeOf f) r.ftz (fm.decD r.daz a) (fm.decD r.daz b) (fm.decD r.daz c)) r sn eff) s

/-- An instruction computed on the raw codes of each element. -/
def rawOp (f : LaneF) (fn : Fmt → Bool → Nat → Nat → FRes) (s : State) : Out :=
  let fm := fpFmt f.ty
  dataOp f (laneNeeds f true false) (fpWhen f.ty) (isSlow f.ty) (fun r sn eff =>
    laneVals f (mapElems f.ty fun _ a b _ => fn fm r.daz a b) r sn eff) s

/-! ## Arithmetic (R228 to R234) -/

def execVfadd (f : LaneF) (s : State) : Out := fpOp f (fpWhen f.ty) (fun fm m z a b _ => fm.add m z a b) s
def execVfsub (f : LaneF) (s : State) : Out := fpOp f (fpWhen f.ty) (fun fm m z a b _ => fm.add m z a b.flip) s
def execVfmul (f : LaneF) (s : State) : Out := fpOp f (fpWhen f.ty) (fun fm m z a b _ => fm.mul m z a b) s
def execVfma (f : LaneF) (s : State) : Out := fpOp f (fpWhen f.ty) (fun fm m z a b c => fm.fma m z a b c) s
def execVfms (f : LaneF) (s : State) : Out := fpOp f (fpWhen f.ty) (fun fm m z a b c => fm.fma m z a b c.flip) s
def execVfnma (f : LaneF) (s : State) : Out := fpOp f (fpWhen f.ty) (fun fm m z a b c => fm.fma m z a.flip b c) s
def execVfmin (f : LaneF) (prop : Bool) (s : State) : Out := rawOp f (fun fm daz a b => fm.minMax false prop daz a b) s
def execVfmax (f : LaneF) (prop : Bool) (s : State) : Out := rawOp f (fun fm daz a b => fm.minMax true prop daz a b) s
def execVfabs (f : LaneF) (s : State) : Out := rawOp f (fun fm _ a _ => (a % fm.signBit true, 0)) s
def execVfneg (f : LaneF) (s : State) : Out :=
  rawOp f (fun fm _ a _ => (if a < fm.signBit true then a + fm.signBit true else a - fm.signBit true, 0)) s
def execVfdiv (f : LaneF) (s : State) : Out :=
  let n := laneNeeds f true false
  let fm := fpFmt f.ty
  dataOp f { n with sfu := true } (.sfu (if f.ty = .f64 then 36 else 18)) (isSlow f.ty) (fun r sn eff =>
    laneVals f (mapElems f.ty fun _ a b _ => fm.div (r.modeOf f) r.ftz (fm.decD r.daz a) (fm.decD r.daz b)) r sn eff) s
def execVfsqrt (f : LaneF) (s : State) : Out :=
  let n := laneNeeds f true false
  let fm := fpFmt f.ty
  dataOp f { n with sfu := true } (.sfu (if f.ty = .f64 then 36 else 18)) (isSlow f.ty) (fun r sn eff =>
    laneVals f (mapElems f.ty fun _ a _ _ => fm.sqrt (r.modeOf f) r.ftz (fm.decD r.daz a)) r sn eff) s

/-- A condition of VFCMP on decoded operands (R231). -/
def fcondHolds (c : FCond) (a b : FVal) : Bool :=
  let uno := a.isNan || b.isNan
  match c with
  | .eq => a.eqv b
  | .ne => uno || !a.eqv b
  | .lt => !uno && a.lt b
  | .le => !uno && !b.lt a
  | .gt => !uno && b.lt a
  | .ge => !uno && !a.lt b
  | .ord => !uno
  | .uno => uno

def execVfcmp (f : LaneF) (c : FCond) (sig any : Bool) (s : State) : Out :=
  let fm := fpFmt f.ty
  dataOp f (laneNeeds f true true) (fpWhen f.ty) (isSlow f.ty) (fun r sn eff => (lanesOf eff).map fun l =>
    let w := tyWidth f.ty
    let x := elemsOf f.ty.elems w (r.rd f.ty f.va l)
    let y := elemsOf f.ty.elems w (r.rdB f sn l)
    let ps := (List.range f.ty.elems).map fun e => (fm.decD r.daz (x.getD e 0), fm.decD r.daz (y.getD e 0))
    let hs := ps.map fun p => fcondHolds c p.1 p.2
    let fl := ps.foldl (fun (a : BitVec 8) p => a ||| (if sig && (p.1.isNan || p.2.isNan) then fIVD else nanFlags [p.1, p.2])) 0
    ⟨l, [], [(f.vd.toNat % 16, if any then hs.any id else hs.all id)], fl⟩) s

/-- The class bit of a code (R233). -/
def fclass (fm : Fmt) (x : Nat) : Nat :=
  let neg := decide (fm.signBit true ≤ x)
  match fm.dec x with
  | .nan s => if s then 1 else 2
  | .inf n => if n then 4 else 512
  | .fin _ m _ =>
    if m = 0 then (if neg then 32 else 64)
    else if fm.isSub x then (if neg then 16 else 128)
    else (if neg then 8 else 256)

def execVfclass (f : LaneF) (s : State) : Out := rawOp f (fun fm _ a _ => (fclass fm a, 0)) s

/-- Rounds to an integral value in the own format (R234). -/
def Fmt.rndInt (fm : Fmt) (mode : Mode) (exact : Bool) (x : FVal) : FRes :=
  match x with
  | .nan s => fm.nan (if s then fIVD else 0)
  | .inf n => fm.inf n 0
  | .fin n m e =>
    if m = 0 then fm.zero n 0 else
    let (v, lost) := roundInt mode n m e
    let fl := if exact && lost then fINX else 0
    if v = 0 then fm.zero n fl else ((fm.rnd .rn false n v.natAbs 0).1, fl)

def execVfrnd (f : LaneF) (exact : Bool) (s : State) : Out :=
  fpOp f (fpWhen f.ty) (fun fm m _ a _ _ => fm.rndInt m exact a) s

/-! ## Special functions (R235, R236) -/

/-- An SFU function on FP32. -/
def sfuOp (f : LaneF) (fn : Bool → FVal → FRes) (s : State) : Out :=
  let n := laneNeeds f true false
  dataOp f { n with sfu := true } (.sfu 20) false (fun r sn eff =>
    laneVals f (mapElems f.ty fun _ a _ _ => fn r.ftz (fmtF32.decD r.daz a)) r sn eff) s

def execVrcp (f : LaneF) (s : State) : Out := sfuOp f sfuRcp s
def execVrsq (f : LaneF) (s : State) : Out := sfuOp f sfuRsq s
def execVsin (f : LaneF) (s : State) : Out := sfuOp f (sfuTrig false) s
def execVcos (f : LaneF) (s : State) : Out := sfuOp f (sfuTrig true) s
def execVexp2 (f : LaneF) (s : State) : Out := sfuOp f sfuExp2 s
def execVlog2 (f : LaneF) (s : State) : Out := sfuOp f sfuLog2 s
def execVtanh (f : LaneF) (s : State) : Out := sfuOp f sfuTanh s

/-! ## Conversions (R237 to R239) -/

/-- A floating value into an integer type (R238). -/
def floatToInt (t : LType) (w : Nat) (mode : Mode) (x : FVal) : FRes :=
  match x with
  | .nan _ => (0, fIVD)
  | .inf n => (lowBits w (if n then tyMin t w else tyMax t w), fIVD)
  | .fin n m e =>
    let (v, lost) := roundInt mode n m e
    if v < tyMin t w then (lowBits w (tyMin t w), fIVD)
    else if tyMax t w < v then (lowBits w (tyMax t w), fIVD)
    else (lowBits w v, if lost then fINX else 0)

/-- One element from a source type to a destination type; DAZ reads every floating operand (R238), that of a conversion into an integer too.
(DEDUCED, log 75.) -/
def cvtElem (r : Group) (f : LaneF) (src : LType) (sat : Bool) (a : Nat) : FRes :=
  let wd := tyWidth f.ty
  match fmtOf src, fmtOf f.ty with
  | some fs, some fd => fd.narrow (r.modeOf f) r.ftz sat none (fs.decD r.daz a)
  | some fs, none => floatToInt f.ty wd (r.modeOf f) (fs.decD r.daz a)
  | none, some fd => fd.ofInt (r.modeOf f) (eInt src (tyWidth src) a)
  | none, none => wrapOrSat f.ty wd sat (eInt src (tyWidth src) a)

/-- VCVT (R238); its beats are those of the destination type (R225). (DEDUCED, log 53.) -/
def execVcvt (f : LaneF) (src : LType) (sat : Bool) (s : State) : Out :=
  let n := laneNeeds f true false
  dataOp f { n with vr := [regOf src f.va] } (.last 4) (isSlow f.ty) (fun r _ eff => (lanesOf eff).map fun l =>
    let rs := (elemsOf src.elems (tyWidth src) (r.rd src f.va l)).map (cvtElem r f src sat)
    ⟨l, tyWords f.ty (ofElems (tyWidth f.ty) (rs.map (·.1))), [], rs.foldl (fun (a : BitVec 8) p => a ||| p.2) 0⟩) s

/-- The seed of a lane for stochastic rounding at an element position (R134, R239). -/
def Group.seedOf (r : Group) (f : LaneF) (lane e : Nat) : Option (BitVec 32 × Nat) :=
  if f.rnd = 5 then (f.vc.map fun c => (r.vread c.toNat lane, e)) else none

/-- An FP32 source register narrowed to a format: FTZ for 16-bit results only (R239). -/
def Group.pack (r : Group) (f : LaneF) (fm : Fmt) (sat : Bool) (lane reg e : Nat) : FRes :=
  fm.narrow (r.modeOf f) (r.ftz && fm.width == 16) sat (r.seedOf f lane e) (fmtF32.decD r.daz (r.vread reg lane).toNat)

/-- Needs of a packing instruction: n sources, the seed, vd where half of it is kept. -/
def packNeeds (f : LaneF) (n : Nat) (keeps : Bool) : LNeeds :=
  { vr := [(f.va.toNat, n, n)] ++ ((f.vc.map fun c => (c.toNat, 1, 1)).toList) ++ (if keeps then [(f.vd.toNat, 1, 1)] else [])
    vw := [(f.vd.toNat, 1, 1)], kr := kRegs f, kw := [], ctr := none, sfu := false }

/-- Packs n sources as elements of width w from bit position `at0` of vd, keeping its other bits where `keeps`. -/
def packOp (f : LaneF) (n : Nat) (fm : Fmt) (w at0 e0 : Nat) (keeps sat : Bool) (s : State) : Out :=
  dataOp f (packNeeds f n keeps) (.last 4) false (fun r _ eff => (lanesOf eff).map fun l =>
    let rs := (List.range n).map fun j => r.pack f fm sat l (f.va.toNat + j) (e0 + j)
    let x := (ofElems w (rs.map (·.1))).toNat
    let old := if keeps then (r.vread f.vd.toNat l).toNat else 0
    let m := (2 ^ (w * n) - 1) * 2 ^ at0
    ⟨l, [BitVec.ofNat 32 ((old &&& (4294967295 - m)) ||| (x * 2 ^ at0))], [], rs.foldl (fun (a : BitVec 8) p => a ||| p.2) 0⟩) s

/-- The format of PackFmt. -/
def packFmt (f : LaneF) (p : PackFmt) : Fmt :=
  match p with
  | .own => fpFmt f.ty
  | .e4m3 => fmtE4M3
  | .e5m2 => fmtE5M2
  | .e2m1 => fmtE2M1

/-- VCVPK2 (R239): a whole 16-bit pair, or two bytes of one half. -/
def execVcvpk2 (f : LaneF) (fmt : PackFmt) (hi sat : Bool) (s : State) : Out :=
  if fmt = .own then packOp f 2 (packFmt f fmt) 16 0 0 false sat s
  else packOp f 2 (packFmt f fmt) 8 (if hi then 16 else 0) (if hi then 2 else 0) true sat s
/-- VCVPK4 (R239): four bytes, or four nibbles of one half. -/
def execVcvpk4 (f : LaneF) (fmt : PackFmt) (hi sat : Bool) (s : State) : Out :=
  if fmt = .e2m1 then packOp f 4 fmtE2M1 4 (if hi then 16 else 0) 0 true sat s
  else packOp f 4 (packFmt f fmt) 8 0 0 false sat s

/-! ## Scales and maxima (R240, R241) -/

/-- emax of a block format (R135). -/
def emaxOf (p : PackFmt) : Int :=
  match p with
  | .e2m1 => 2
  | .e4m3 => 8
  | _ => 15

def execVqscale (f : LaneF) (dst : PackFmt) (mul : Bool) (s : State) : Out :=
  dataOp f (laneNeeds f true false) (.last 4) false (fun r _ eff => (lanesOf eff).map fun l =>
    let (c, fl) := scaleCode (fmtF32.decD r.daz (r.vread f.va.toNat l).toNat).abs (emaxOf dst)
    let v := if !mul then c else if c = 255 then fmtF32.nanCode else (fmtF32.rnd .rn false false 1 (127 - (c : Int))).1
    ⟨l, [BitVec.ofNat 32 v], [], fl⟩) s

/-- The lanes of a span (R241): its size. -/
def spanSize (sp : Span) : Nat :=
  match sp with
  | .all => 96
  | .b32 => 32
  | .b16 => 16

/-- The largest magnitude of a list of values as FP32, with flags. -/
def amaxOf (ftz : Bool) (xs : List FVal) : FRes :=
  if xs.any (·.isNan) then fmtF32.nan (nanFlags xs)
  else
    let m := xs.foldl (fun (a : FVal) x => if a.lt x.abs then x.abs else a) (.fin false 0 0)
    match m with
    | .inf _ => fmtF32.inf false 0
    | .fin _ k e => if k = 0 then (0, 0) else fmtF32.rnd .rn ftz false k e
    | .nan _ => fmtF32.nan 0

def execVamax (f : LaneF) (span : Span) (s : State) : Out :=
  let fm := fpFmt f.ty
  dataOp f (laneNeeds f true false) (.last 6) false (fun r _ eff =>
    let sz := spanSize span
    (List.range (96 / sz)).flatMap fun j =>
      let ls := (lanesOf eff).filter fun l => l / sz == j
      let p := amaxOf r.ftz (ls.flatMap fun l => (elemsOf f.ty.elems (tyWidth f.ty) (r.rd f.ty f.va l)).map (fm.decD r.daz))
      ls.map fun l => ⟨l, [BitVec.ofNat 32 p.1], [], p.2⟩) s

/-! ## Narrow formats (R242, R243) -/

/-- Elements, width and decoded value of a source of VUNPK. -/
def unpkVal (src : UnpkSrc) (daz : Bool) (va idx : Nat) : FVal :=
  let int := fun (w : Nat) => let v := sInt w (va / 2 ^ (w * (idx % (32 / w))) % 2 ^ w); FVal.fin (decide (v < 0)) v.natAbs 0
  let fl := fun (fm : Fmt) (d : Bool) => fm.decD d (va / 2 ^ (fm.width * (idx % (32 / fm.width))) % 2 ^ fm.width)
  match src with
  | .fp16 => fl fmtF16 daz
  | .bf16 => fl fmtBF16 daz
  | .e4m3 => fl fmtE4M3 false
  | .e5m2 => fl fmtE5M2 false
  | .e2m1 => fl fmtE2M1 false
  | .int8 => int 8
  | .int4 => int 4

/-- The result of VUNPK for one lane. -/
def unpk (src : UnpkSrc) (scale : Bool) (mode : Mode) (ftz daz : Bool) (va b : Nat) : FRes :=
  let x := unpkVal src daz va (b % 8)
  let c := b / 256 % 256
  let fl := if src == .e4m3 then 0 else nanFlags [x]
  if x.isNan || (scale && c == 255) then fmtF32.nan fl else
  match x with
  | .inf n => fmtF32.inf n 0
  | .fin n m e => if m = 0 then fmtF32.zero n 0 else fmtF32.rnd mode ftz n m (if scale then e + c - 127 else e)
  | .nan _ => fmtF32.nan fl

def execVunpk (f : LaneF) (src : UnpkSrc) (scale : Bool) (s : State) : Out :=
  dataOp f (laneNeeds f true false) (.last 4) false (fun r sn eff => (lanesOf eff).map fun l =>
    let p := unpk src scale r.fmodeRM r.ftz r.daz (r.vread f.va.toNat l).toNat (r.rdB f sn l).toNat
    ⟨l, [BitVec.ofNat 32 p.1], [], p.2⟩) s

/-- Entry c of a codebook: eight registers of the lane, or four snapshot registers. -/
def codebook (f : LaneF) (r : Group) (sn : Snap) (l c : Nat) : BitVec 16 :=
  match f.b with
  | .reg x => (r.vread (x.toNat + c / 2) l).extractLsb' (16 * (c % 2)) 16
  | .snap n => (sn.getD (n.toNat + c / 4) 0).extractLsb' (16 * (c % 4)) 16
  | _ => 0

def execVlut (f : LaneF) (j : BitVec 3) (pair : Bool) (s : State) : Out :=
  let n := laneNeeds f true false
  let cb := match f.b with
    | .reg x => [(x.toNat, 8, 8)]
    | _ => []
  dataOp f { n with vr := (f.va.toNat, 1, 1) :: cb } (.last 4) false (fun r sn eff => (lanesOf eff).map fun l =>
    let nib := fun (k : Nat) => (r.vread f.va.toNat l).toNat / 2 ^ (4 * k) % 16
    let lo := codebook f r sn l (nib j.toNat)
    let w : W32 := if pair then codebook f r sn l (nib (j.toNat + 1)) ++ lo else lo ++ (0 : BitVec 16)
    ⟨l, [w], [], 0⟩) s

end Sys2Proof.Machine
end

