-- ==== Sys2Proof/Machine/LaneMem.lean ====
section
/-! DEFINITION. Lane memory, scratchpad, atomic, prefetch and Fen instructions (spec/06 R200 to R209; spec/09 R291 to R297). -/
namespace Sys2Proof.Machine

/-! ## Addresses (R200) -/

/-- Needs of an address: a pair for memory, one register for scratchpad and for the snapshot form. -/
def addrRegs (f : LaneF) (mem : Bool) : List (Nat × Nat × Nat) :=
  match f.b with
  | .snap _ => [(f.va.toNat, 1, 1)]
  | _ => if mem then [(f.va.toNat, 2, 2)] else [(f.va.toNat, 1, 1)]

/-- The memory address of a lane. -/
def Group.laneVa (r : Group) (f : LaneF) (sn : Snap) (imm : W32) (l : Nat) : W64 :=
  match f.b with
  | .snap n => sn.getD n.toNat 0 + (r.vread f.va.toNat l).setWidth 64 + imm.signExtend 64
  | _ => (r.vread (f.va.toNat + 1) l ++ r.vread f.va.toNat l : W64) + imm.signExtend 64

/-- The scratchpad offset of a lane. -/
def Group.laneOff (r : Group) (f : LaneF) (sn : Snap) (imm : W32) (l : Nat) : Nat :=
  match f.b with
  | .snap n => (sn.getD n.toNat 0 + (r.vread f.va.toNat l).setWidth 64 + imm.signExtend 64).toNat % 1048576
  | _ => ((r.vread f.va.toNat l).setWidth 64 + imm.signExtend 64 : W64).toNat

/-- Data registers of an access: pairs even, quads multiples of 4 (R82). -/
def dataRegs (vd : BitVec 10) (sz : MSize) : Nat × Nat × Nat := (vd.toNat, mwords sz, mwords sz)

/-! ## Checks (R201) -/

/-- A piece of a lane's access on one page: offset within the access, physical address, length, not cached. -/
abbrev Piece := Nat × Nat × Nat × Bool

/-- The result of checking a lane. -/
inductive LAcc where
  | ok (l : List Piece)
  | wait
  | bad (b : Bad)

/-- Brings an entry of the die's last-level TLB into the core's (R335), so that all lanes of an instruction can be translated in one
cycle. -/
def State.preTlb (s : State) (core ctx : Nat) (va : W64) : State :=
  let asn := s.asnOf ctx
  match tlbFind (s.core core).tlb asn (vaLow va), tlbFind (s.die (dieOf core)).tlb asn (vaLow va) with
  | none, some e => (s.modDie (dieOf core) fun x => { x with tlb := tlbUse x.tlb e 8192 }).modCore core fun c =>
      { c with tlb := tlbUse c.tlb e 128 }
  | _, _ => s

/-- Translates and checks one page of an access. -/
def State.lanePage (s : State) (core ctx : Nat) (va : W64) (need : Need) : Acc × State :=
  (s.preTlb core ctx va).checkVa core ctx va need false

/-- Whether a page's data are not cached: host memory not mapped coherent (R334). -/
def uncPage (e : W64) (pa : Nat) : Bool := paClass pa == 1 && !isCoherentHost e

/-- The alignment of an access (R201). -/
def laneAlign (sz : MSize) (natural : Bool) : Nat :=
  if natural then mbytes sz else
  match sz with
  | .b => 1
  | .h => 2
  | _ => 4

/-- The checks of one lane: alignment, then PAGE, PROT and REGION over both pages that it may touch. `info` is TRAPINFO. -/
def State.laneCheck (s : State) (core ctx : Nat) (va : W64) (n align : Nat) (need : Need) (info : W64) : LAcc × State :=
  if va.toNat % align ≠ 0 then (.bad ⟨cALIGN, va, info, need == .write, false, false⟩, s) else
  let n1 := min n (65536 - va.toNat % 65536)
  match s.lanePage core ctx va need with
  | (.wait, s1) => (.wait, s1)
  | (.bad b, s1) =>
    if n1 = n ∨ b.cause = cPAGE then (.bad { b with info := info }, s1) else
    match s1.lanePage core ctx (va + w64 n1) need with
    | (.wait, s2) => (.wait, s2)
    | (.bad b2, s2) => (.bad { (if b2.cause.toNat < b.cause.toNat then b2 else b) with info := info }, s2)
    | (.ok _ _, s2) => (.bad { b with info := info }, s2)
  | (.ok e pa, s1) =>
    if n1 = n then (.ok [(0, pa, n, uncPage e pa)], s1) else
    match s1.lanePage core ctx (va + w64 n1) need with
    | (.wait, s2) => (.wait, s2)
    | (.bad b2, s2) => (.bad { b2 with info := info }, s2)
    | (.ok e2 pa2, s2) => (.ok [(0, pa, n1, uncPage e pa), (n1, pa2, n - n1, uncPage e2 pa2)], s2)

/-- The result of checking every lane. -/
inductive LAll where
  | ok (l : List (Nat × W64 × List Piece))
  | wait
  | bad (b : Bad)

/-- Checks lanes in ascending order; the first failing lane decides, unless a lower lane still waits for its translation. (DEDUCED, log 30.) -/
def State.laneAll (s : State) (core ctx n align : Nat) (need : Need) (kind : Nat) (extra : W64 → List Piece → Option Bad) :
    List (Nat × W64) → LAll × State
  | [] => (.ok [], s)
  | (l, va) :: rest =>
    match s.laneCheck core ctx va n align need (w64 (l * 256 + kind)) with
    | (.bad b, s1) => (.bad b, s1)
    | (.wait, s1) => (.wait, (s1.laneAll core ctx n align need kind extra rest).2)
    | (.ok ps, s1) =>
      match extra va ps with
      | some b => (.bad { b with info := w64 (l * 256 + kind) }, s1)
      | none =>
        match s1.laneAll core ctx n align need kind extra rest with
        | (.ok xs, s2) => (.ok ((l, va, ps) :: xs), s2)
        | r => r

/-- The lowest poisoned address that a load of a core reads, or an atomic at its home (R342). -/
def State.lanePoison (s : State) (core : Option Nat) (l : List (Nat × W64 × List Piece)) : Option W64 :=
  l.foldl (fun acc x => x.2.2.foldl (fun (acc : Option W64) p =>
    match (match core with | some c => s.poisonRead c p.2.1 p.2.2.1 | none => s.poisonIn p.2.1 p.2.2.1) with
    | some q =>
      let va := x.2.1 + w64 p.1 + w64 (q - p.2.1)
      match acc with
      | some a => some (if va.toNat < a.toNat then va else a)
      | none => some va
    | none => acc) acc) none

/-- Whether a lane may perform an access now: no acquire before it is unbound (R205), and for a release the condition of its
fence (R205, R171). -/
def State.laneMay (s : State) (g : Nat) (r : Group) (ord : MOrder) (sc : Scope) : Bool :=
  !s.laneHeld g && (!(ord == .rel || ord == .acqrel) || (s.fenceHolds g r sc && s.loadsBound g s.nextId 0 true))

/-- Addresses of the lanes of the effective mask. -/
def Group.laneVas (r : Group) (f : LaneF) (imm : W32) (eff : Mask) : List (Nat × W64) :=
  (lanesOf eff).map fun l => (l, r.laneVa f r.blkSnap imm l)

/-- The lanes that a lane Fen instruction, or a lane access to a peer, has still to send: after a restoration not those of LSENT (R392, R400). -/
def Group.toSend (r : Group) (f : LaneF) : Mask := if r.lsentV then r.eff f.men &&& ~~~r.lsent else r.eff f.men

/-- The instruction at LPC issues with the lanes that it has still to send. -/
def Group.sendsRest (r : Group) : Group := { r with lsentV := false, lsent := 0 }

/-- Counts a lane operation: the outstanding operation, and its pending registers. -/
def Group.laneCount (r : Group) (id : Nat) (c : Ctr) (vd n : Nat) : Group :=
  let r1 := r.addOut ⟨id, c, true, true, false, r.lpc, false⟩
  if n = 0 then r1 else { r1 with pendV := r1.pendV ++ [(⟨id, false, vd, n, r.lpc⟩ : PendV)] }

/-- Zeros the lanes that the prefix's zero option clears (R191). -/
def Group.zeroOut (r : Group) (f : LaneF) (eff : Mask) (vd n : Nat) : Group :=
  (r.zeroLanes f eff).foldl (fun r l => r.vput vd l (List.replicate n 0)) r

/-- The operation of a lane access. -/
def laneMemOp (s : State) (g : Nat) (r : Group) (id : Nat) (kind : OpKind) (dest : Dest) (ord : MOrder) (sc : Scope) (fn : AtomFn)
    (size : Nat) (parts : List Part) : MemOp :=
  { kind := kind, agent := .lane g, core := coreOfG g, dest := dest, order := ord, scope := sc, fn := fn, asize := size
    parts := parts, pc := r.lpc, waits := [], performed := false, leaseLen := r.lease.toNat, minFill := r.acqT
    t0 := s.ptime, out := id, pos := r.pos }

/-! ## Loads and stores (R203 to R205) -/

/-- VLD (R204). -/
def execVld (f : LaneF) (size : MSize) (ord : MOrder) (sc : Scope) (imm : W32) (s : State) : Out :=
  laneOp (laneLen f) ⟨addrRegs f true, [dataRegs f.vd size], kRegs f, [], some .ldc, false⟩ s fun g r s =>
    let eff := r.eff f.men
    let bs := (beatsOf eff).length
    if bs = 0 then .done s 1 0
    else if !s.laneMay g r ord sc then .stay s
    else
      let n := mbytes size
      match s.laneAll (coreOfG g) r.ctx n (laneAlign size false) .read 0 (fun _ _ => none) (r.laneVas f imm eff) with
      | (.wait, s1) => .stay s1
      | (.bad b, s1) => .trap s1 b
      | (.ok ls, s1) =>
        match s1.lanePoison (some (coreOfG g)) ls with
        | some a => .trap s1 (bad cECC a 0)
        | none =>
          let (id, s2) := s1.fresh
          let parts := ls.flatMap fun x => x.2.2.flatMap fun p => loadParts x.1 p.1 p.2.1 p.2.2.1 p.2.2.2
          let m := laneMemOp s2 g r id .load (.lanes f.vd.toNat size (f.ty == .i32)) ord sc (.int .add) n parts
          let r1 := (r.laneCount id .ldc f.vd.toNat (mwords size)).zeroOut f eff f.vd.toNat (mwords size)
          .done (((s2.setGrp g r1).setOp id m).performLoad id) bs bs

/-- The bytes a lane stores: its data registers in order. -/
def Group.storeBytes (r : Group) (vd : Nat) (size : MSize) (l : Nat) : List Byte :=
  ((List.range (mwords size)).flatMap fun i => wBytes 4 (r.vread (vd + i) l)).take (mbytes size)

/-- VST (R203, R204). -/
def execVst (f : LaneF) (size : MSize) (ord : MOrder) (sc : Scope) (imm : W32) (s : State) : Out :=
  laneOp (laneLen f) ⟨dataRegs f.vd size :: addrRegs f true, [], kRegs f, [], some .stc, false⟩ s fun g r s =>
    let eff := r.eff f.men
    let bs := (beatsOf eff).length
    if bs = 0 then .done s 1 0
    else if !s.laneMay g r ord sc then .stay s
    else
      let n := mbytes size
      match s.laneAll (coreOfG g) r.ctx n (laneAlign size false) .write 1 (fun _ _ => none) (r.laneVas f imm (r.toSend f)) with
      | (.wait, s1) => .stay s1
      | (.bad b, s1) => .trap s1 b
      | (.ok ls, s1) =>
        let (id, s2) := s1.fresh
        let parts := ls.flatMap fun x =>
          let data := r.storeBytes f.vd.toNat size x.1
          x.2.2.flatMap fun p => storeParts x.1 p.1 p.2.1 ((data.drop p.1).take p.2.2.1) p.2.2.2
        let m := laneMemOp s2 g r id .store .none ord sc (.int .add) n parts
        .done (((s2.setGrp g (r.laneCount id .stc 0 0).sendsRest).setOp id m).tryStore id) bs bs

/-! ## Atomics (R206, R207) -/

/-- The function of a VATOM: floating for .f32 (R206). -/
def vatomFn (t : LType) (op : AtomOp) : AtomFn := if t == .f32 && op != .swap then .f32 op else .int op

/-- VATOM and VCAS: checked for write; old values come back into vd. -/
def laneAtomic (f : LaneF) (size : MSize) (ord : MOrder) (sc : Scope) (imm : W32) (kind : OpKind) (fn : AtomFn) (admitted : Bool)
    (s : State) : Out :=
  let vc := (f.vc.map fun c => dataRegs c size).toList
  laneOp (laneLen f) ⟨addrRegs f true ++ vc, [dataRegs f.vd size], kRegs f, [], some .ldc, false⟩ s fun g r s =>
    let eff := r.eff f.men
    let bs := (beatsOf eff).length
    if bs = 0 then .done s 1 0
    else if !s.laneMay g r ord sc then .stay s
    else
      let n := mbytes size
      let ok := s.hostAtomics && admitted
      match s.laneAll (coreOfG g) r.ctx n n .write 2 (fun va ps =>
          if !ok && ps.any (fun (p : Piece) => paClass p.2.1 == 1) then some ⟨cREGION, va, 0, true, false, false⟩ else none)
          (r.laneVas f imm (r.toSend f)) with
      | (.wait, s1) => .stay s1
      | (.bad b, s1) => .trap s1 b
      | (.ok ls, s1) =>
        match s1.lanePoison none ls with
        | some a => .trap s1 ⟨cECC, a, 0, true, false, false⟩
        | none =>
          let (id, s2) := s1.fresh
          let val := fun (reg : Nat) (l : Nat) => bytesW 64 (r.storeBytes reg size l)
          let parts := ls.flatMap fun x => x.2.2.map fun (p : Piece) =>
            let d := val f.vd.toNat x.1
            let c := match f.vc with
              | some k => val k.toNat x.1
              | none => 0
            (⟨x.1, 0, p.2.1, n, [], if kind == .cas then d else 0, if kind == .cas then c else d, none, false, none, p.2.2.2, false⟩ : Part)
          let m := laneMemOp s2 g r id kind (.lanes f.vd.toNat size false) ord sc fn n parts
          let r1 := (r.laneCount id .ldc f.vd.toNat (mwords size)).zeroOut f eff f.vd.toNat (mwords size) |>.sendsRest
          .done (((s2.setGrp g r1).setOp id m).tryAtomic id) bs bs

def execVatom (f : LaneF) (op : AtomOp) (size : MSize) (ord : MOrder) (sc : Scope) (imm : W32) (s : State) : Out :=
  laneAtomic f size ord sc imm .atomic (vatomFn f.ty op) ((op == .add || op == .swap) && f.ty != .f32) s
def execVcas (f : LaneF) (size : MSize) (ord : MOrder) (sc : Scope) (imm : W32) (s : State) : Out :=
  laneAtomic f size ord sc imm .cas (.int .add) true s

/-! ## Prefetch (R209) -/

/-- The lines that VPREF asks for: lanes whose address passes the checks of a byte load. A miss in the TLBs delays the instruction. -/
def State.prefetch (s : State) (core ctx lease : Nat) : List (Nat × W64) → Bool × State
  | [] => (true, s)
  | (_, va) :: rest =>
    match s.laneCheck core ctx va 1 1 .read 0 with
    | (.wait, s1) => (false, (s1.prefetch core ctx lease rest).2)
    | (.bad _, s1) => s1.prefetch core ctx lease rest
    | (.ok ps, s1) =>
      match ps with
      | (_, pa, _, unc) :: _ =>
        let sec := pa / 64 * 64
        if !cacheable pa unc || (s1.poisonIn pa 1).isSome || (s1.l1Hit core pa 0).isSome ||
            s1.ops.any (fun o => o.2.kind == .fetchOnly && o.2.asize == 0 && o.2.core == core && o.2.parts.any (·.pa == sec))
        then s1.prefetch core ctx lease rest
        else
          let (k, s2) := s1.fresh
          let m : MemOp := { kind := .fetchOnly, agent := .tile core, core := core, dest := .none, order := .relaxed, scope := .grp
                             fn := .int .add, asize := 0, parts := [⟨0, 0, sec, 64, [], 0, 0, none, false, none, false, false⟩], pc := 0
                             waits := [], performed := true, leaseLen := lease, minFill := 0, t0 := s2.ptime, out := 0, pos := 0 }
          ((s2.setOp k m).schedPath .homeRead [k, 0]).prefetch core ctx lease rest
      | [] => s1.prefetch core ctx lease rest

def execVpref (f : LaneF) (imm : W32) (s : State) : Out :=
  laneOp (laneLen f) ⟨addrRegs f true, [], kRegs f, [], none, false⟩ s fun g r s =>
    let eff := r.eff f.men
    let bs := (beatsOf eff).length
    if s.laneHeld g then .stay s else
    match s.prefetch (coreOfG g) r.ctx r.lease.toNat (r.laneVas f imm eff) with
    | (true, s1) => .done s1 (max 1 bs) bs
    | (false, s1) => .stay s1

/-! ## Scratchpad (R208, R343) -/

/-- Cycles of a beat: the largest number of distinct 512-byte rows within one bank (R343). -/
def rowCycles (team : Nat) (n : Nat) (offs : List Nat) : Nat :=
  let words := (offs.flatMap fun o => (List.range ((o % 8 + n + 7) / 8)).map fun i => (team + o) / 8 + i).eraseDups
  (List.range 64).foldl (fun a b => max a ((words.filter fun w => w % 64 == b).length)) 1

/-- Cycles of each beat that issues of a scratchpad access. (DEDUCED, log 40.) -/
def spBeats (t : Team) (n : Nat) (eff : Mask) (offs : List (Nat × Nat)) : List Nat :=
  (beatsOf eff).map fun b => rowCycles t.spBase n ((offs.filter fun p => p.1 / 32 == b).map (·.2))

/-- The first failing lane: alignment to the size, then the bound (R208). -/
def spBad (t : Team) (n kind : Nat) (write : Bool) (offs : List (Nat × Nat)) : Option Bad :=
  offs.findSome? fun p =>
    let e := fun c => some (⟨c, w64 p.2, w64 (p.1 * 256 + kind), write, false, false⟩ : Bad)
    if p.2 % n ≠ 0 then e cALIGN else if !t.spIn p.2 n then e cSPBOUND else none

/-- The lowest poisoned offset that the lanes read (R342). (DEDUCED, log 30.) -/
def spPoisoned (t : Team) (n : Nat) (offs : List (Nat × Nat)) : Option Nat :=
  offs.foldl (fun acc p => (t.poison.filter fun q => decide (q < p.2 + n ∧ p.2 < q + 8)).foldl (fun (a : Option Nat) q =>
    match a with
    | some x => some (min x (max q p.2))
    | none => some (max q p.2)) acc) none

/-- VLDSP (R208). (DEDUCED, log 40.) -/
def execVldsp (f : LaneF) (size : MSize) (imm : W32) (s : State) : Out :=
  laneOp (laneLen f) ⟨addrRegs f false, [dataRegs f.vd size], kRegs f, [], none, false⟩ s fun g r s =>
    match s.teamOf r with
    | none => .stay s
    | some t =>
      let eff := r.eff f.men
      let n := mbytes size
      let offs := (lanesOf eff).map fun l => (l, r.laneOff f r.blkSnap imm l)
      match spBad t n 0 false offs with
      | some b => .trap s b
      | none =>
        match spPoisoned t n offs with
        | some a => .trap s (bad cECC (w64 a) 0)
        | none =>
          let vals := offs.map fun p => (⟨p.1, laneWords size (f.ty == .i32) (t.spGet p.2 n), [], 0⟩ : LVal)
          finish f .now (spBeats t n eff offs) f.vd.toNat (mwords size) [] g r eff vals s

/-- VSTSP (R208): the highest-numbered lane wins on shared bytes; the store is one update of each barrier word it meets. -/
def execVstsp (f : LaneF) (size : MSize) (imm : W32) (s : State) : Out :=
  laneOp (laneLen f) ⟨dataRegs f.vd size :: addrRegs f false, [], kRegs f, [], none, false⟩ s fun g r s =>
    match s.teamOf r with
    | none => .stay s
    | some t =>
      let eff := r.eff f.men
      let n := mbytes size
      let offs := (lanesOf eff).map fun l => (l, r.laneOff f r.blkSnap imm l)
      match spBad t n 1 true offs with
      | some b => .trap s b
      | none =>
        let bs := offs.flatMap fun p => (r.storeBytes f.vd.toNat size p.1).mapIdx fun i b => (p.2 + i, b)
        .done (s.spPut r.team bs (some g)) (spBeats t n eff offs).sum (beatsOf eff).length

/-! ## Lane Fen instructions (R291, R292) -/

/-- The result of the checks of the lanes' handles. -/
inductive FAll where
  | ok (l : List (Nat × Nat × Nat))
  | wait
  | bad (b : Bad)

/-- Checks the region mapping of every lane in ascending order (R287, R291): lane, handle and region number. -/
def State.fenAll (s : State) (core ctx : Nat) (k : FenKind) : List (Nat × W32) → FAll × State
  | [] => (.ok [], s)
  | (l, h) :: rest =>
    match (s.preTlb core ctx (fenVa h)).checkFen core ctx h k with
    | (.bad b, s1) => (.bad { b with info := w64 (l * 256 + 3) }, s1)
    | (.wait, s1) => (.wait, (s1.fenAll core ctx k rest).2)
    | (.ok e _, s1) =>
      match s1.fenAll core ctx k rest with
      | (.ok xs, s2) => (.ok ((l, h.toNat, leafFreg e) :: xs), s2)
      | r => r

/-- A lane Fen instruction: one request for each lane, sent in ascending order, those to the own module all with one path time, those to a peer as
its allowance has a unit, the group parked until every lane is sent (R296); TLC rises once; a blocking one parks the group. After a
restoration the lanes of LSENT, which have their status, send none (R392, R400). -/
def laneFen (f : LaneF) (k : FenKind) (blk : Bool) (sc : Scope) (sel : BitVec 14) (s : State) : Out :=
  let vs : Nat := match f.b with
    | .reg x => x.toNat
    | _ => 0
  let dep := k == .deposit
  let vp := if dep then f.vd.toNat else f.va.toNat
  let win : List (Nat × Nat × Nat) := [(f.vd.toNat, 16, 16)]
  let nd : LNeeds :=
    { vr := if dep then win else win ++ [(f.va.toNat, 16, 16)]
      vw := if dep then [(vs, 1, 1)] else win ++ [(vs, 1, 1)]
      kr := kRegs f, kw := [], ctr := some .tlc, sfu := false }
  laneOp (laneLen f) nd s fun g r s =>
    let all := r.eff f.men
    let eff := r.toSend f
    let bs := (beatsOf all).length
    if bs = 0 then .done s 1 0
    else if dep && (lanesOf eff).any (fun l => (r.vread (f.vd.toNat + 1) l).toNat / 8 != 0) then .trap s (illegal 0x0062)
    else if s.laneHeld g || (dep && !(s.fenceHolds g r sc && s.loadsBound g s.nextId 0 true)) then .stay s
    else
      match s.fenAll (coreOfG g) r.ctx k ((lanesOf eff).map fun l => (l, r.vread (if dep then vs else vp + 1) l)) with
      | (.wait, s1) => .stay s1
      | (.bad b, s1) => .trap s1 b
      | (.ok ls, s1) =>
        let (key, s2) := s1.fresh
        let o : FenOp := { g := g, kind := k, scalar := false, blk := blk, sc := sc, vd := f.vd.toNat, vs := vs, sd := 0, area := 0
                           left := ls.length, pc := r.lpc, fullHandle := none, rid := key }
        let pend : List PendV := (if dep then [] else [⟨key, false, f.vd.toNat, 16, r.lpc⟩]) ++ [⟨key, false, vs, 1, r.lpc⟩]
        let r1 := r.addOut ⟨key, .tlc, true, true, false, r.lpc, false⟩
        let r2 := { r1 with
          pendV := r1.pendV ++ pend, fenOps := r1.fenOps ++ [key], lsentV := false, lsent := if r.lsentV then r.lsent else 0 }
        let r3 := (if dep then r2 else r2.zeroOut f all f.vd.toNat 16).zeroOut f all vs 1
        let r4 := if blk then r3.park .fen else r3
        let s3 := { s2.setGrp g r4 with fenOps := kset s2.fenOps key o }
        let (time, s3) := s3.draw
        let s4 := ls.foldl (fun s x =>
          let l := x.1
          let raw := (List.range 16).map fun w => r.vread (vp + w) l
          let ws := if dep then depositWords raw l (g % 32) (coreOfG g) s.modNum.toNat else raw
          s.fenMake { g := g, op := key, lane := l, kind := k, blk := blk, sc := sc, region := x.2.2
                      dstMod := s.fenModule x.2.2, slice := fenHome x.2.2 (fword raw 0), handle := x.2.1, words := ws
                      masks := (List.range 16).map fun w => r.vread (f.vd.toNat + w) l, sel := sel, code := none
                      copies := 0, reply := [], sent := false, withdrawn := false, fromPeer := none }) s3
        .done (fenPump g time none (s4.fenUnsent g) s4) bs bs

def execFdep (f : LaneF) (blk : Bool) (sc : Scope) (s : State) : Out := laneFen f .deposit blk sc 0 s
def execFcpy (f : LaneF) (blk : Bool) (sc : Scope) (sel : BitVec 14) (s : State) : Out := laneFen f .copy blk sc sel s
def execFtake (f : LaneF) (blk : Bool) (sc : Scope) (sel : BitVec 14) (s : State) : Out := laneFen f .take blk sc sel s

end Sys2Proof.Machine
end

