-- ==== Sys2Proof/Machine/Fetch.lean ====
section
/-! DEFINITION. Fetching and decoding an instruction (spec/02 R90 to R92, R94 to R97; spec/01 R19; spec/11 R340), instruction
breakpoints (spec/15 R444, R389), and what an unassigned word does. -/
namespace Sys2Proof.Machine

/-- What fetching gives. -/
inductive FetchW where
  | word (w : W32)
  | wait
  | bad (b : Bad)
  deriving DecidableEq, Repr

/-- Whether a fill of a sector on its way to a core's instruction cache is outstanding. -/
def State.fetching (s : State) (core sec : Nat) : Bool :=
  s.ops.any fun p => p.2.kind == .fetchOnly && p.2.asize == 1 && p.2.core == core && p.2.parts.any (·.pa == sec)

/-- A fetch of a 64-byte sector for a unit of a core: `dest` 1 the instruction cache, 2 the tile fetch unit. -/
def fetchOp (s : State) (core lease sec : Nat) (unc : Bool) (dest out pos : Nat) : MemOp :=
  { kind := .fetchOnly, agent := .tile core, core := core, dest := .none, order := .relaxed, scope := .grp
    fn := .int .add, asize := dest, parts := loadParts 0 0 sec 64 unc, pc := 0, waits := [], performed := true
    leaseLen := lease, minFill := 0, t0 := s.ptime, out := out, pos := pos }

/-- Asks for a sector of code: from the die's RDC where it has it, else from the home (R340). -/
def State.askCode (s : State) (core lease pa : Nat) (unc : Bool) : State :=
  let sec := pa / 64 * 64
  let m := fetchOp s core lease sec unc 1 0 0
  if s.fetching core sec then s else
  match (rdcDie (dieOf core) pa (!unc)).bind fun d => (s.rdcHit d pa 0).map fun c => (d, c) with
  | some (d, bs, exp, t) => (s.rdcTouch d pa).fillOp m sec bs exp t false
  | none =>
    let (k, s1) := s.fresh
    (s1.setOp k m).schedPath .homeRead [k, 0]

/-- Fetches the word at an address (R90, R94): its page, then the core's instruction cache. -/
def State.fetchWord (s : State) (core ctx lease : Nat) (va : W64) : FetchW × State :=
  match s.checkVa core ctx va .exec false with
  | (.wait, s1) => (.wait, s1)
  | (.bad b, s1) => (.bad b, s1)
  | (.ok e pa, s1) =>
    if paClass pa = 0 ∧ isRegBlock (paLow pa) then (.word (bytesW 32 (s1.homeBytes pa 4)), s1) else
    let l := kgetD (s1.core core).icache (pa / 256) (CLine.new (pa / 256))
    let sec := pa % 256 / 64
    let held := l.valid.getLsbD sec && decide (s1.ptime < l.exp.getD sec 0)
    match (if held then l.poisonIn pa 4 else s1.poisonIn pa 4) with
    | some _ => (.bad ⟨cECC, va, 0, false, true, false⟩, s1)
    | none =>
      if held then (.word (bytesW 32 (sgetL l.data (pa % 256) 4)), s1)
      else (.wait, s1.askCode core lease pa (uncPage e pa))

/-- Fetches the words at consecutive addresses; the lowest failing one decides. A word that waits lets the later ones start. (DEDUCED, log 26.) (DESIGN CHOICE, log 34.) -/
def State.fetchWords (s : State) (core ctx lease : Nat) (va : W64) : Nat → List W32 × FetchW × State
  | 0 => ([], .wait, s)
  | n + 1 =>
    match s.fetchWord core ctx lease va with
    | (.word w, s1) =>
      if n = 0 then ([w], .word w, s1) else
      match s1.fetchWords core ctx lease (va + 4) n with
      | (ws, r, s2) => (w :: ws, r, s2)
    | (r, s1) => ([], r, s1)

/-- The result of fetching and decoding one instruction. -/
inductive Fetched where
  | instr (i : Instr)
  | wait
  | bad (b : Bad)
  deriving DecidableEq, Repr

/-- The instruction that words spell; what does not decode is UNASSIGNED_OPCODE (R95, R97). -/
def instrOf (st : StreamId) (ws : List W32) : Instr :=
  match decodeIn st ws with
  | .ok i => i
  | .error e => .unassignedOpcode st e

/-- The unit to which a stream's program counter is aligned (R19). -/
def pcUnit (st : StreamId) : Nat :=
  match st with
  | .team => 8
  | _ => 4

/-- Words of an instruction that begins with a word (R67, R76, R88): a lane instruction has three, four behind a prefix; a first
word of neither class is refused as it stands. (DEDUCED, log 42.) -/
def wordsFrom (st : StreamId) (w : W32) : Nat :=
  match st with
  | .scalar => 1
  | .team => 2
  | .lane => if w.extractLsb' 28 4 = 0xF then 4 else if w.extractLsb' 28 4 = 0xA then 3 else 1

/-- Fetches and decodes the instruction at a program counter: the checks of R19, then every word (step 1 of R97). (DEDUCED, log 26.) -/
def State.fetchAt (s : State) (st : StreamId) (core ctx lease : Nat) (pc : W64) : Fetched × State :=
  if !canonical pc then (.bad ⟨cPAGE, pc, 0, false, true, false⟩, s)
  else if pc.toNat % pcUnit st ≠ 0 then (.bad ⟨cALIGN, pc, 0, false, true, false⟩, s)
  else
    match s.fetchWord core ctx lease pc with
    | (.wait, s1) => (.wait, s1)
    | (.bad b, s1) => (.bad b, s1)
    | (.word w, s1) =>
      if wordsFrom st w = 1 then (.instr (instrOf st [w]), s1) else
      match s1.fetchWords core ctx lease (pc + 4) (wordsFrom st w - 1) with
      | (ws, .word _, s2) => (.instr (instrOf st (w :: ws)), s2)
      | (_, .bad b, s2) => (.bad b, s2)
      | (_, .wait, s2) => (.wait, s2)

/-- Fetch of the instruction that the executing unit would issue. -/
def State.fetchCur (s : State) : Fetched × State :=
  match s.cur with
  | .scalar g => match s.grp? g with
    | some r => s.fetchAt .scalar (coreOfG g) r.ctx r.lease.toNat r.spc
    | none => (.wait, s)
  | .lane g => match s.grp? g with
    | some r => s.fetchAt .lane (coreOfG g) r.ctx r.lease.toNat r.lpc
    | none => (.wait, s)
  | .seq t => match s.team? t with
    | some m => s.fetchAt .team m.core m.ctx 512 m.tpc
    | none => (.wait, s)
  | .none => (.wait, s)

/-! ## Traps of the streams -/

/-- A trap of the executing sequencer at its instruction (R247): while it waits for room for its record (R351) it has not issued. -/
def State.seqTrap (s : State) (t : Nat) (b : Bad) : State :=
  match s.team? t with
  | none => s
  | some m => if recorded b.cause && s.fqWaits (dieOf m.core) then s else (s.seqStop t b).issued

/-- A trap of the executing unit at its own instruction. -/
def State.curTrap (s : State) (b : Bad) : State :=
  match s.cur with
  | .scalar g => s.scalarTrap g b
  | .lane g => s.laneTrap g b
  | .seq t => s.seqTrap t b
  | .none => s

/-- UNASSIGNED_OPCODE (R95, R97): ILLEGAL with its subcode, or XFUNC; the program counter stays at the instruction. -/
def execUnassignedOpcode (_st : StreamId) (e : DecErr) (s : State) : Out := .next (s.curTrap (badOf e))

/-! ## Instruction breakpoints (R389, R444, R448) -/

/-- Whether breakpoint n is set for a stream, an address and an address space. -/
def Ibp.hits (b : Ibp) (stream : Nat) (pc : W64) (asn : Nat) : Bool :=
  b.ctl.getLsbD 0 && (b.ctl.extractLsb' 1 2).toNat == stream && (b.ctl.extractLsb' 16 16).toNat == asn && b.addr == pc

/-- The operand fields of a lane data instruction. -/
def laneF? : Instr → Option LaneF
  | .vadd f _ | .vsub f _ | .vabs f _ | .vneg f _ | .vfmin f _ | .vfmax f _ | .vfrnd f _ => some f
  | .vmul f | .vmulh f | .vmad f | .vand f | .vor f | .vxor f | .vnot f | .vshl f | .vshr f | .vsra f | .vmin f | .vmax f
  | .vpopc f | .vclz f | .vbfx f | .vbfi f | .vmov f | .vperm f | .vbcast f | .vballot f | .vfadd f | .vfsub f | .vfmul f
  | .vfma f | .vfms f | .vfnma f | .vfabs f | .vfneg f | .vfclass f | .vfdiv f | .vfsqrt f | .vrcp f | .vrsq f | .vsin f
  | .vcos f | .vexp2 f | .vlog2 f | .vtanh f => some f
  | .vsel f _ | .vaddc f _ | .vsubb f _ => some f
  | .vcmp f .. | .vfcmp f .. | .vcvt f .. | .vcvpk2 f .. | .vcvpk4 f .. | .vqscale f .. | .vamax f .. | .vunpk f .. | .vlut f ..
  | .vred f .. | .vscan f .. | .vld f .. | .vst f .. | .vldsp f .. | .vstsp f .. | .vatom f .. | .vcas f .. | .vpref f ..
  | .fdep f .. | .fcpy f .. | .ftake f .. => some f
  | _ => none

/-- The effective mask of a lane instruction for a breakpoint: its prefix's mask applies. -/
def menOf (i : Instr) : Option (BitVec 4) := (laneF? i).bind (·.men)

/-- The breakpoint report of the executing unit where a breakpoint is set at its instruction: a lane instruction fires only with a
lane in its effective mask (R389). -/
def State.breakAt (s : State) (i : Instr) : Option (BitVec 256) :=
  let hit := fun stream pc ctx => s.ibps.toList.any fun b => b.hits stream pc (s.asnOf ctx)
  match s.cur with
  | .scalar g => match s.grp? g with
    | some r => if hit 0 r.spc r.ctx then some (breakReport (coreOfG g) (g % 32) 0 r.spc r.exec r.rs.length) else none
    | none => none
  | .lane g => match s.grp? g with
    | some r => if hit 1 r.lpc r.ctx && r.eff (menOf i) != 0 then
        some (breakReport (coreOfG g) (g % 32) 1 r.lpc (r.eff (menOf i)) r.rs.length) else none
    | none => none
  | .seq t => match s.team? t with
    | some m => if hit 2 m.tpc m.ctx then some (breakReport m.core m.sq 2 m.tpc 0 0) else none
    | none => none
  | .none => none

/-- A breakpoint stops the package before its instruction issues; on resume the instruction issues (R389). -/
def State.takeBreak (s : State) (report : BitVec 256) : State :=
  let s1 := s.freeze 1 report
  { s1 with bpSkip := s.cur :: s1.bpSkip }.issued

end Sys2Proof.Machine
end

