-- ==== Sys2Proof/Machine/LaneCtl.lean ====
section
/-! DEFINITION. Lane control flow, the reconvergence stack, regrouping, lane waits and fences (spec/06 R210 to R220; spec/01 R48 to R50,
R59, R60; spec/12 R374; spec/03 R111). -/
namespace Sys2Proof.Machine

/-- Needs of a control instruction that names no register. -/
def noNeeds : LNeeds := ⟨[], [], [], [], none, false⟩

/-- A branch target (R87): the offset from the instruction's own address. -/
def laneTarget (pc : W64) (off : W32) : W64 := pc + off.signExtend 64

/-- The entries that a push by an instruction may not exceed (R49). -/
def rsRoom (r : Group) (n : Nat) : Bool := decide (r.rs.length + n ≤ 31)

/-- A DIV or CALL entry. -/
def rsEntry (k : RKind) (resume reconv : W64) (m : Mask) : RsEntry := ⟨k, resume, reconv, m, 0, Vector.replicate 16 0⟩

/-! ## Divergence (R210, R211) -/

/-- VBR (R211). -/
def execVbr (k : BitVec 4) (inv : Bool) (off : W32) (join : BitVec 30) (s : State) : Out :=
  laneOp 12 { noNeeds with kr := [k.toNat] } s fun g r s =>
    if !rsRoom r 1 then .trap s (bad cRSTACK 0 0) else
    let t := laneTarget r.lpc off
    let j := r.lpc + 4 * join.signExtend 64
    let taken := r.exec &&& (if inv then ~~~(r.kreg k.toNat) else r.kreg k.toNat)
    let fall := r.exec &&& ~~~taken
    let s1 := s.traceDetail g 3 (wBytes 12 taken)
    if fall = 0 then .jump (s1.setGrp g { r with rs := r.rs ++ [rsEntry .div j j 0] }) t
    else if taken = 0 then .jump (s1.setGrp g { r with rs := r.rs ++ [rsEntry .div j j 0] }) (r.lpc + 12)
    else .jump (s1.setGrp g { r with rs := r.rs ++ [rsEntry .div t j taken], exec := fall }) (r.lpc + 12)

/-- VJOIN (R211). -/
def execVjoin (s : State) : Out :=
  laneOp 12 noNeeds s fun g r s =>
    match r.rs.getLast? with
    | none => .trap s (bad cRSTACK 0 0)
    | some e =>
      if e.kind ≠ .div then .trap s (bad cRSTACK 0 0)
      else if e.resume ≠ e.reconv then
        .jump (s.setGrp g { r with rs := r.rs.dropLast ++ [{ e with mask := r.exec, resume := e.reconv }], exec := e.mask }) e.resume
      else .jump (s.setGrp g { r with rs := r.rs.dropLast, exec := r.exec ||| e.mask }) (r.lpc + 12)

/-- VJMP (R210). -/
def execVjmp (off : W32) (s : State) : Out := laneOp 12 noNeeds s fun _ r s => .jump s (laneTarget r.lpc off)

/-! ## Calls (R210, R212, R111) -/

/-- The budget of a function header (R110, R111): an invalid one counts as 1,024. -/
def headerBudget (w : W32) : Nat :=
  let b := (w.extractLsb' 0 10).toNat
  if w.extractLsb' 28 4 = 5 ∧ w.extractLsb' 10 18 = 0 ∧ b % 32 = 0 ∧ 32 ≤ b ∧ b ≤ 768 then b else 1024

/-- The checks of one call target: ALIGN, PAGE, the header's fetch, BUDGET. -/
def State.callCheck (s : State) (g : Nat) (r : Group) (t : W64) : Option (Option Bad) × State :=
  if t.toNat % 4 ≠ 0 then (some (some (bad cALIGN t 0)), s)
  else if !canonical t then (some (some (bad cPAGE t 0)), s)
  else match s.fetchWord (coreOfG g) r.ctx r.lease.toNat (t - 4) with
    | (.wait, s1) => (none, s1)
    | (.bad b, s1) => (some (some b), s1)
    | (.word w, s1) =>
      if r.allot < headerBudget w then (some (some (bad cBUDGET t (w64 (headerBudget w)))), s1) else (some none, s1)

/-- VCALL (R210). -/
def execVcall (off : W32) (s : State) : Out :=
  laneOp 12 noNeeds s fun g r s =>
    if !rsRoom r 1 then .trap s (bad cRSTACK 0 0) else
    match s.callCheck g r (laneTarget r.lpc off) with
    | (none, s1) => .stay s1
    | (some (some b), s1) => .trap s1 b
    | (some none, s1) =>
      .jump (s1.modGrp g fun x => { x with rs := x.rs ++ [rsEntry .call (r.lpc + 12) 0 r.exec] }) (laneTarget r.lpc off)

/-- Inserts a target with its lane into a list of targets in ascending order with their lanes (R212). -/
def insTarget (t : W64) (l : Nat) : List (W64 × Mask) → List (W64 × Mask)
  | [] => [(t, (1 : Mask) <<< l)]
  | (u, m) :: r => if t = u then (u, m ||| ((1 : Mask) <<< l)) :: r
    else if t.toNat < u.toNat then (t, (1 : Mask) <<< l) :: (u, m) :: r else (u, m) :: insTarget t l r

/-- The distinct targets of the lanes in EXEC, ascending, with their lanes (R212). -/
def callTargets (r : Group) (a : BitVec 10) : List (W64 × Mask) :=
  (lanesOf r.exec).foldl (fun acc l => insTarget (r.rd .i64 a l) l acc) []

/-- Checks the targets of a call in ascending order; the first failure decides. -/
def State.callChecks (g : Nat) (r : Group) : List (W64 × Mask) → State → Option (Option Bad) × State
  | [], s => (some none, s)
  | (t, _) :: rest, s =>
    match s.callCheck g r t with
    | (some none, s1) => State.callChecks g r rest s1
    | x => x

/-- VCALLV (R212). -/
def execVcallv (a : BitVec 10) (s : State) : Out :=
  laneOp 12 { noNeeds with vr := [(a.toNat, 2, 2)] } s fun g r s =>
    match callTargets r a with
    | [] => .jump s (r.lpc + 12)
    | (t1, m1) :: rest =>
      let n := rest.length + 1
      if !rsRoom r n then .trap s (bad cRSTACK 0 0) else
      match State.callChecks g r ((t1, m1) :: rest) s with
      | (none, s1) => .stay s1
      | (some (some b), s1) => .trap s1 b
      | (some none, s1) =>
        let es := rsEntry .call (r.lpc + 12) 0 r.exec :: rest.reverse.map fun p => rsEntry .call p.1 0 p.2
        let s2 := s1.traceDetail g 4 (BitVec.ofNat 8 n :: ((t1, m1) :: rest).flatMap fun p => wBytes 8 p.1 ++ wBytes 12 p.2)
        .jump (s2.modGrp g fun x => { x with rs := x.rs ++ es, exec := m1 }) t1

/-- VRET (R210). -/
def execVret (s : State) : Out :=
  laneOp 12 noNeeds s fun g r s =>
    match r.rs.getLast? with
    | none => .trap s (bad cRSTACK 0 0)
    | some e =>
      if e.kind ≠ .call then .trap s (bad cRSTACK 0 0)
      else .jump (s.setGrp g { r with rs := r.rs.dropLast, exec := e.mask }) e.resume

/-- The packets of a block's end: END and SUMMARY (R451, R482). -/
def State.blockTrace (s : State) (g : Nat) : State :=
  match (s.grp? g).bind (·.blk) with
  | none => s
  | some b =>
    (s.traceDetail g 5 (natBytes 4 b.instrs)).tracePut (coreOfG g) 8
      (BitVec.ofNat 8 (g % 32) :: wBytes 8 b.entry ++ natBytes 4 b.instrs ++ natBytes 4 b.beats ++
        natBytes 4 (s.ccount + 1 - b.first.getD s.ccount))

/-- VEND (R210): the block ends; LPC passes it (R20). -/
def execVend (s : State) : Out :=
  laneOp 12 noNeeds s fun g r s =>
    let s1 := ((s.modGrp g fun x => { x with lpc := r.lpc + 12 }).laneIssued g 1 0).blockTrace g
    .vend (s1.modGrp g fun x => { x with blk := x.blk.map fun b => { b with running := false }, hid := [], hidSp := [] })

/-! ## Breaks, traps and VNOP (R213, R210) -/

/-- VBRK (R213, R389): with the debugger attached the package freezes, and the VBRK completes on resume. -/
def execVbrk (code : BitVec 13) (s : State) : Out :=
  laneOp 12 noNeeds s fun g r s =>
    if r.exec = 0 then .done s 1 0
    else if s.bpSkip.contains (.lane g) then .done { s with bpSkip := s.bpSkip.erase (.lane g) } 1 0
    else if s.attach then
      let s1 := s.freeze 2 (breakReport (coreOfG g) (g % 32) 1 r.lpc r.exec r.rs.length)
      .vend { s1 with bpSkip := .lane g :: s1.bpSkip, sent := s1.sent ++ [.debugReport code r.exec] }
    else .trap s (bad cBRK 0 (code.setWidth 64))

/-- VTRAP (R213). -/
def execVtrap (code : BitVec 13) (s : State) : Out :=
  laneOp 12 noNeeds s fun _ r s =>
    if r.exec = 0 then .done s 1 0 else .trap s (bad cBRK 0 (code.setWidth 64 ||| 0x2000))

def execVnop (s : State) : Out := laneOp 12 noNeeds s fun _ _ s => .done s 1 0

/-! ## Lane waits and fences (R219, R220) -/

/-- VWAITC (R219). -/
def execVwaitc (l st c t : BitVec 3) (s : State) : Out :=
  laneOp 12 noNeeds s fun _ r s =>
    if r.ctr .ldc ≤ l.toNat ∧ r.ctr .stc ≤ st.toNat ∧ r.ctr .cpc ≤ c.toNat ∧ r.ctr .tlc ≤ t.toNat then .done s 1 0 else .stay s

/-- VFENCE (R220): the condition of the SFENCE of its scope over the earlier lane accesses and the released scalar effects. (DEDUCED, log 27.) -/
def execVfence (sc : Scope) (s : State) : Out :=
  laneOp 12 noNeeds s fun g r s =>
    if s.fenceHolds g r sc && s.loadsBound g s.nextId 0 true && !s.laneHeld g then .done s 1 0 else .stay s

/-! ## Regrouping (R214 to R218) -/

/-- The live groups of a team, in ascending GID. -/
def State.liveOf (s : State) (t : Nat) : List (Nat × Group) :=
  match s.team? t with
  | some m => m.members.filterMap fun g => (s.grp? g).map fun r => (g, r)
  | none => []

/-- The groups that a step waits for: every participant at REGRP, every host at RJOIN. -/
def State.stepGroups (s : State) (t : Nat) (join : Bool) : List (Nat × Group) :=
  (s.liveOf t).filter fun p => !join || (match p.2.rg with | some w => w.host | none => false)

/-- Starts the next register move of a core, where none runs (R374). -/
def State.startMove (s : State) (core : Nat) : State :=
  match (s.core core).moves with
  | [] => s
  | m :: rest =>
    if m.until_.isSome ∨ s.ccount ≤ m.arrived then s else
    (s.modCore core fun c => { c with moves := { m with until_ := some (s.ccount + m.cycles) } :: rest }).sched m.cycles
      (if m.join then .rjoinMoveComplete else .regrpMoveComplete) [m.team]

/-- Queues a move: by the cycle of the last arrival, then by the sequencer's index; a running move stays first (R374). -/
def insMove (m : RegMove) : List RegMove → List RegMove
  | [] => [m]
  | x :: r => if x.until_.isSome ∨ x.arrived < m.arrived ∨ (x.arrived = m.arrived ∧ x.team ≤ m.team) then x :: insMove m r
    else m :: x :: r

/-- A group whose step is refused: it stands at its instruction again, without the entry of the REGRP (R215). -/
def Group.leaveStep (r : Group) (join : Bool) : Group :=
  { r.leaveRegroup with rgArr := none, rs := if join then r.rs else r.rs.dropLast }

/-- Looks whether every group of a step has arrived; `at_` is the cycle of the last arrival. Arrivals that differ are refused in every
one of them (R215, R216). -/
def State.regroupPoll (s : State) (t : Nat) (join : Bool) (at_ : Nat) : State :=
  let gs := s.stepGroups t join
  let arr := gs.filterMap fun p => p.2.rgArr
  match arr with
  | [] => s
  | a :: rest =>
    if arr.length < gs.length || arr.any (fun x => x.join != join) || ((s.core (coreOfT t)).moves.any (·.team == t)) then s
    else if rest.all fun b => b.pc == a.pc && b.base == a.base && b.count == a.count then
      let cyc := 3 * a.count * (s.liveOf t).length + 12
      s.modCore (coreOfT t) fun c => { c with moves := insMove ⟨t, join, at_, cyc, none⟩ c.moves }
    else
      let s1 := gs.foldl (fun s p => s.modGrp p.1 (·.leaveStep join)) s
      gs.foldl (fun s p => s.raise p.1 true (illegal 0x0041)) s1

/-- REGRP (R214): the checks, then the entry is pushed and the group arrives, once its earlier results are written. (DEDUCED, log 41.) -/
def execRegrp (a base : BitVec 10) (count : BitVec 7) (s : State) : Out :=
  laneOp 12 { noNeeds with vr := [(a.toNat, 1, 1), (base.toNat, count.toNat, 16)] } s fun g r s =>
    if !(r.pendV.isEmpty && r.lres.isEmpty) then .stay s
    else if !rsRoom r 1 then .trap s (bad cRSTACK 0 0)
    else if r.rs.any (·.kind == .regroup) then .trap s (illegal 0x0042)
    else if (lanesOf r.exec).any fun l => decide (7 < (r.vread a.toNat l).toNat) then .trap s (illegal 0x0040)
    else
      let r1 := { r.parkStep with
        rs := r.rs ++ [rsEntry .regroup (r.lpc + 12) 0 r.exec]
        rgArr := some ⟨false, r.lpc, a.toNat, base.toNat, count.toNat, s.ccount⟩ }
      .part ((s.setGrp g r1).regroupPoll r.team false s.ccount)

/-- RJOIN (R216): a host arrives. (DEDUCED, log 41.) -/
def execRjoin (s : State) : Out :=
  laneOp 12 noNeeds s fun g r s =>
    if !(r.pendV.isEmpty && r.lres.isEmpty) then .stay s else
    match r.rs.getLast?, r.rg with
    | some e, some w =>
      if e.kind ≠ .regroup then .trap s (bad cRSTACK 0 0) else
      let r1 := { r.parkStep with rgArr := some ⟨true, r.lpc, 0, w.base, w.count, s.ccount⟩ }
      .part ((s.setGrp g r1).regroupPoll r.team true s.ccount)
    | _, _ => .trap s (bad cRSTACK 0 0)

/-- The words of a window: those of `n` registers from `base`; keys are register * 96 + lane, so that a window is one range. -/
def windowOf (v : SMap 32) (base n : Nat) : SMap 32 := v.filter fun p => decide (base * 96 ≤ p.1 ∧ p.1 < (base + n) * 96)

/-- Lane registers with a window replaced by the words of a function. -/
def putWindow (v : SMap 32) (base n : Nat) (f : Nat → Nat → W32) : SMap 32 :=
  (v.filter fun p => decide (p.1 < base * 96)) ++
  ((List.range (n * 96)).filterMap fun i =>
    let x := f (base + i / 96) (i % 96)
    if x = 0 then none else some (base * 96 + i, x)) ++
  v.filter fun p => decide ((base + n) * 96 ≤ p.1)

/-- The placed lanes in order: key, origin GID, origin lane (R215). -/
def placedLanes (gs : List (Nat × Group)) (key : Nat) : List (Nat × Group × Nat) :=
  (List.range 8).flatMap fun k => gs.flatMap fun p =>
    ((lanesOf p.2.exec).filter fun l => (p.2.vread key l).toNat == k).map fun l => (p.1, p.2, l)

/-- A participant after REGRP: `i` is its place among the participants, `hosts` their number, `a` the placed lanes. -/
def Group.regrouped (r : Group) (i hosts : Nat) (a : List (Nat × Group × Nat)) (w : RgArrive) : Group :=
  let mine := (a.drop (96 * i)).take 96
  let part : Regroup :=
    { host := decide (i < hosts), parked := decide (hosts ≤ i), base := w.base, count := w.count, keptK := r.k
      kept := windowOf r.v w.base w.count
      map := (List.range 96).map fun l => match mine[l]? with
        | some x => if i < hosts then (x.2.1.gid.setWidth 16 ||| (BitVec.ofNat 16 x.2.2 <<< 8) ||| 0x8000) else 0
        | none => 0 }
  if i < hosts then
    { r.leaveRegroup with
      v := putWindow r.v w.base w.count fun reg l => match mine[l]? with
        | some x => x.2.1.vget reg x.2.2
        | none => 0
      exec := maskOf fun l => decide (l < mine.length)
      k := Vector.replicate 16 0, lpc := w.pc + 12, rg := some part, rgArr := none }
  else { r with exec := 0, rg := some part, rgArr := none }

/-- The REGRP packet (R451). -/
def State.regTrace (s : State) (g : Nat) (join : Bool) : State :=
  match s.grp? g with
  | none => s
  | some r => s.traceDetail g 7 ((if join then 1 else 0) :: wBytes 12 r.exec ++
      (match r.rg with
       | some w => w.map.flatMap (wBytes 2)
       | none => []))

/-- Takes a team's finished move off its core and starts the next (R374). -/
def State.endMove (s : State) (t : Nat) : State :=
  (s.modCore (coreOfT t) fun c => { c with moves := c.moves.filter (·.team != t) }).startMove (coreOfT t)

/-- REGRP_MOVE_COMPLETE (R215): the regroup as one step. -/
def execRegrpMoveComplete (s : State) : Out :=
  let t := s.a0
  .next (
    let gs := s.liveOf t
    match gs.head?.bind fun p => p.2.rgArr with
    | none => s.endMove t
    | some w =>
      let a := placedLanes gs w.key
      let hosts := max 1 ((a.length + 95) / 96)
      let s1 := (gs.mapIdx fun i p => (p.1, p.2.regrouped i hosts a w)).foldl (fun s p => s.setGrp p.1 p.2) s
      (gs.foldl (fun s p => s.regTrace p.1 false) s1).endMove t)

/-- Where a host holds a lane of a participant: the host and the position. -/
def placedAt (gs : List (Nat × Group)) (gid : BitVec 4) (lane : Nat) : Option (Group × Nat) :=
  let code : BitVec 16 := gid.setWidth 16 ||| (BitVec.ofNat 16 lane <<< 8) ||| 0x8000
  gs.findSome? fun p => match p.2.rg with
    | some w => (w.map.findIdx? (· == code)).map fun l => (p.2, l)
    | none => none

/-- A participant after RJOIN (R216): the window of a placed lane comes from its host's position, that of another lane is its own; a
lane whose host has ended has lost it. (DESIGN CHOICE, log 13.) -/
def Group.rejoined (r : Group) (gs : List (Nat × Group)) (pc : W64) : Group :=
  match r.rg with
  | none => r
  | some w =>
    let mask := ((r.rs.getLast?).map (·.mask)).getD r.exec
    let at_ := (List.range 96).map fun l => placedAt gs r.gid l
    { r.leaveRegroup with
      v := putWindow r.v w.base w.count fun reg l => match at_.getD l none with
        | some (h, i) => h.vget reg i
        | none => if mask.getLsbD l then Config.lostWord (reg * 96 + l) else sget w.kept (reg * 96 + l)
      k := w.keptK, exec := mask, rs := r.rs.dropLast, lpc := pc + 12, rg := none, rgArr := none }

/-- RJOIN_MOVE_COMPLETE (R216): every lane's window returns, as one step. -/
def execRjoinMoveComplete (s : State) : Out :=
  let t := s.a0
  .next (
    let gs := s.liveOf t
    match gs.findSome? fun p => p.2.rgArr with
    | none => s.endMove t
    | some w =>
      let s1 := gs.foldl (fun s p => s.setGrp p.1 (p.2.rejoined gs w.pc)) s
      (gs.foldl (fun s p => s.regTrace p.1 true) s1).endMove t)

end Sys2Proof.Machine
end

