-- ==== Sys2Proof/Machine/Team.lean ====
section
/-! DEFINITION. The team sequencer (spec/08 R245 to R251; spec/01 R34): its frame, the w registers, scratchpad accesses, control,
TBARA and TBARW. -/
namespace Sys2Proof.Machine

/-- A w register; w0 reads 0 (R34). -/
def Team.wread (m : Team) (n : BitVec 5) : W64 := if n = 0 then 0 else m.w.getD n.toNat 0
/-- Writes a w register; a write to w0 is discarded (R34). -/
def Team.wwrite (m : Team) (n : BitVec 5) (v : W64) : Team :=
  if n = 0 then m else { m with w := m.w.setIfInBounds n.toNat v }

/-- How a team instruction ends its step: it goes on at TPC + 8; goes to an address; cannot issue yet; has issued and waits; raises a
trap. -/
inductive TRes where
  | done (s : State)
  | jump (s : State) (pc : W64)
  | stay (s : State)
  | part (s : State)
  | trap (s : State) (b : Bad)

/-- The sequencer has issued at its place in this cycle (R245). -/
def State.seqIssued (s : State) (t : Nat) (pc : W64) : State :=
  (s.modTeam t fun m => { m with tpc := pc, lastIssue := s.ccount + 1 }).issued

/-- The frame of every team instruction: the current sequencer, the w registers it waits for (R245), the advance of TPC (R251). -/
def seqOp (regs : List (BitVec 5)) (s : State) (k : Nat → Team → State → TRes) : Out :=
  .next (match s.cur with
  | .seq t =>
    match s.team? t with
    | none => s
    | some m =>
      if m.pendW.any fun p => regs.contains p.reg then s else
      match k t m s with
      | .done s1 => s1.seqIssued t (m.tpc + 8)
      | .jump s1 pc => s1.seqIssued t pc
      | .stay s1 => s1
      | .part s1 => s1.issued
      | .trap s1 b => s1.seqTrap t b
  | _ => s)

/-! ## w registers (R250) -/

/-- An instruction whose result is there in the next cycle. -/
def wOp (d : BitVec 5) (reads : List (BitVec 5)) (f : Team → W64) (s : State) : Out :=
  seqOp (d :: reads) s fun t m s => .done (s.setTeam t (m.wwrite d (f m)))

/-- A result that is written 4 cycles after issue (R245). -/
def State.wLate (s : State) (t : Nat) (d : BitVec 5) (v : W64) : State :=
  if d = 0 then s else
  let (id, s1) := s.fresh
  (s1.modTeam t fun m => { m with pendW := m.pendW ++ [(⟨d, v, id⟩ : PendW)] }).sched 4 .wResultWrite [t, id]

def execWli (d : BitVec 5) (imm : W32) (s : State) : Out := wOp d [] (fun _ => imm.signExtend 64) s
def execWadd (d a b : BitVec 5) (s : State) : Out := wOp d [a, b] (fun m => m.wread a + m.wread b) s
def execWsub (d a b : BitVec 5) (s : State) : Out := wOp d [a, b] (fun m => m.wread a - m.wread b) s
def execWaddi (d a : BitVec 5) (imm : W32) (s : State) : Out := wOp d [a] (fun m => m.wread a + imm.signExtend 64) s
def execWshl (d a b : BitVec 5) (s : State) : Out := wOp d [a, b] (fun m => m.wread a <<< ((m.wread b).toNat % 64)) s
/-- WMUL (R250, R245). (DEDUCED, log 56.) -/
def execWmul (d a b : BitVec 5) (s : State) : Out :=
  seqOp [d, a, b] s fun t m s => .done (s.wLate t d (m.wread a * m.wread b))

/-- W_RESULT_WRITE (R245): a pending w register is written. -/
def execWResultWrite (s : State) : Out :=
  .next (s.modTeam s.a0 fun m =>
    match m.pendW.find? (·.id == s.a1) with
    | some p => { m.wwrite p.reg p.val with pendW := m.pendW.filter (·.id != s.a1) }
    | none => m)

/-! ## Scratchpad (R250, R342) -/

/-- The checks of an 8-byte access of the sequencer. -/
def wspCheck (m : Team) (off : W64) (load : Bool) : Option Bad :=
  if off.toNat % 8 ≠ 0 then some (bad cALIGN off 0)
  else if !m.spIn off.toNat 8 then some (bad cSPBOUND off 0)
  else if load && m.poison.contains off.toNat then some (bad cECC off 0)
  else none

/-- WLDSP (R250). (DEDUCED, log 56.) -/
def execWldsp (d a : BitVec 5) (imm : W32) (s : State) : Out :=
  seqOp [d, a] s fun t m s =>
    let off := m.wread a + imm.signExtend 64
    match wspCheck m off true with
    | some b => .trap s b
    | none => .done (s.wLate t d (bytesW 64 (m.spGet off.toNat 8)))

/-- WSTSP (R250): a plain store, performed as it issues. -/
def execWstsp (b a : BitVec 5) (imm : W32) (s : State) : Out :=
  seqOp [a, b] s fun t m s =>
    let off := m.wread a + imm.signExtend 64
    match wspCheck m off false with
    | some e => .trap s e
    | none => .done (s.spStore t off.toNat (wBytes 8 (m.wread b)))

/-! ## Control (R251) -/

/-- pc + 8 × sext(imm32). -/
def teamTarget (pc : W64) (off : W32) : W64 := pc + (off.signExtend 64 <<< 3)

def execWbr (c : Cond) (a : BitVec 5) (off : W32) (s : State) : Out :=
  seqOp [a] s fun _ m s => if condHolds c (m.wread a) then .jump s (teamTarget m.tpc off) else .done s
def execWjmp (off : W32) (s : State) : Out := seqOp [] s fun _ m s => .jump s (teamTarget m.tpc off)
/-- WLOOP (R251). (DEDUCED, log 57.) -/
def execWloop (a : BitVec 5) (off : W32) (s : State) : Out :=
  seqOp [a] s fun t m s =>
    let v := m.wread a - 1
    let s1 := s.setTeam t (m.wwrite a v)
    if v ≠ 0 then .jump s1 (teamTarget m.tpc off) else .done s1
/-- TEXIT (R246): the team stream ends; the team ends with it where nothing else of it is left (R181). -/
def execTexit (s : State) : Out :=
  seqOp [] s fun t m s =>
    .part ((s.setTeam t { m with seqSt := .exited, lastIssue := s.ccount + 1 }).endTeamIfDone t)

/-! ## Barriers (R248, R249) -/

/-- TBARA (R248): the arrival of the sequencer, with its record. -/
def execTbara (n : BitVec 4) (_sc : Scope) (s : State) : Out :=
  seqOp [] s fun t _ s =>
    match s.seqArrive t n with
    | none => .trap s (illegal 0x0003)
    | some s1 =>
      if ((s1.team? t).map (·.fwdArr)).getD false then .part (s1.modTeam t fun m => { m with lastIssue := s.ccount + 1 }) else .done s1

/-- An acquire of .cl or wider by a sequencer (R249). -/
def Team.acquire (m : Team) (sc : Scope) (now : Nat) : Team :=
  match sc with
  | .cl | .dev | .sys => { m with lastAcq := now }
  | _ => m

/-- MATRIX at an error phase (R248). -/
def matrixBad (w : BarW) (n : BitVec 4) : Bad :=
  bad cMATRIX (w64 (w.pend + w.btarg * 4294967296)) (w64 (w.errcode + n.toNat * 65536))

/-- What TBARW finds in the word (R177, R248): the phase over, an error phase, or a wait. A wait recorded at a cluster home
team that has since ended returns (DEDUCED, log 33). -/
def seqCheck (t : Nat) (m : Team) (n : BitVec 4) (sc : Scope) (w : Option BarW) (target : BitVec 32) (s : State) : TRes :=
  let past := { m with arr := kdel m.arr n.toNat, barTarget := none }
  if waitOver w target then
    match w.filter (·.err) with
    | some x => .trap (s.setTeam t past) (matrixBad x n)
    | none => .done (s.setTeam t (past.acquire sc s.ptime))
  else .part (s.setTeam t { m with seqSt := .barrierWait, barTarget := some target, arr := kset m.arr n.toNat target })

/-- TBARW (R248, R177). -/
def execTbarw (n : BitVec 4) (sc : Scope) (s : State) : Out :=
  seqOp [] s fun t m s =>
    if !(m.bar n).armed && m.barTarget.isNone then .trap s (illegal 0x0003) else
    let rec? := kget m.arr n.toNat
    match m.barTarget with
    | none =>
      if m.forwards t n then
        .part ((s.setTeam t { m with seqSt := .barrierWait, barTarget := some (rec?.getD 0) }).barSend m (.seqWait m.home n.toNat t rec?))
      else seqCheck t m n sc (some (m.bar n)) (rec?.getD (BitVec.ofNat 32 (m.bar n).phase)) s
    | some target => seqCheck t m n sc (s.waitWord t m n) target s

end Sys2Proof.Machine
end

