-- ==== Sys2Proof/Machine/Matrix.lean ====
section
/-! DEFINITION. Matrix arithmetic (spec/04 R136 to R146) and the words that describe operands (spec/08 R252 to R255). -/
namespace Sys2Proof.Machine

/-! ## Shape words and format blocks (R252, R254) -/

def shStride (w : W64) : Nat := (w.extractLsb' 0 28).toNat
def shRows (w : W64) : Nat := (w.extractLsb' 32 8).toNat
def shKlen (w : W64) : Nat := (w.extractLsb' 40 20).toNat

/-- A shape word that R252 admits; `limit` bounds KLEN. -/
def shapeOk (w : W64) (limit : Nat) : Bool :=
  decide (shStride w % 16 = 0) && (w.extractLsb' 28 4 == 0) && (w.extractLsb' 60 4 == 0) &&
  decide (1 ≤ shRows w ∧ shRows w ≤ 128 ∧ 1 ≤ shKlen w ∧ shKlen w ≤ limit)

def fbFmt (b : List Byte) : Nat := fieldN b 0 1 % 16
def fbBlen (b : List Byte) : Nat := fieldN b 1 1
def fbSstride (b : List Byte) : Nat := fieldN b 4 4
def fbSaddr (b : List Byte) : Nat := fieldN b 8 8

/-- The reserved bytes of a format block are 0. -/
def fbReservedOk (b : List Byte) : Bool := decide (fieldN b 0 1 / 16 = 0 ∧ fieldN b 2 2 = 0) && (b.drop 48).all (· == 0)

/-- Integer formats (R137). -/
def isIntFmt (f : Nat) : Bool := decide (f < 2)
/-- Bits of an element (R136). -/
def elemBits (f : Nat) : Nat :=
  match f with
  | 0 | 2 => 4
  | 5 | 6 => 16
  | _ => 8
/-- K-steps in two cycles (R136). -/
def rate2 (f : Nat) : Nat :=
  match f with
  | 0 | 2 => 4
  | 5 | 6 => 1
  | _ => 2

/-- The conditions of R137 on two format blocks. -/
def fmtsOk (a b : List Byte) : Bool :=
  let ok := fun x => decide (fbFmt x < 7) && (fbBlen x == 16 || fbBlen x == 32) && (!isIntFmt (fbFmt x) || fbSaddr x == 0)
  ok a && ok b && isIntFmt (fbFmt a) == isIntFmt (fbFmt b)

/-! ## Element values (R122, R125 to R128, R138) -/

/-- The integer of a code. -/
def intElem (f c : Nat) : Int :=
  if f = 0 then (if c < 8 then (c : Int) else (c : Int) - 16) else if c < 128 then (c : Int) else (c : Int) - 256

/-- The value of a code of a floating operand; a LUT4 code stands for its codebook entry. -/
def floatElem (blk : List Byte) (c : Nat) : FVal :=
  match fbFmt blk with
  | 2 => fmtBF16.dec (fieldN blk (16 + 2 * c) 2)
  | 3 => fmtE4M3.dec c
  | 4 => fmtE5M2.dec c
  | 5 => fmtF16.dec c
  | _ => fmtBF16.dec c

/-! ## Products and groups (R140 to R146) -/

/-- A scaled product with its flags (R140, R142): scale code 0xFF makes it NaN. (DEDUCED, log 64.) -/
def scaledProd (a b : FVal) (sa sb : Nat) : FVal × BitVec 8 :=
  let fl : BitVec 8 := if (a.isInf && b.isZero) || (a.isZero && b.isInf) then fIVD else 0
  if sa = 255 ∨ sb = 255 ∨ a.isNan ∨ b.isNan ∨ fl ≠ 0 then (.nan false, fl) else
  let neg := a.neg? != b.neg?
  match a, b with
  | .fin _ m1 e1, .fin _ m2 e2 => (.fin neg (m1 * m2) (e1 + e2 + (sa : Int) + (sb : Int) - 254), fl)
  | _, _ => (.inf neg, fl)

/-- The weight exponent of the leading bit of a non-zero finite value. -/
def FVal.lead? : FVal → Option Int
  | .fin _ m e => if m = 0 then none else some (e + Nat.log2 m)
  | _ => none

/-- A term of a group sum in units of 2^low, its bits below the window dropped (R143). -/
def groupTerm (low : Int) : FVal → Int
  | .fin n m e =>
    let t : Nat := if low ≤ e then m * 2 ^ (e - low).toNat else m / 2 ^ (low - e).toNat
    if n then -(t : Int) else t
  | _ => 0

/-- The group sum G as FP32 with its flags (R143, R144). (DEDUCED, log 64.) -/
def groupSum (ps : List FVal) : FRes :=
  let pInf := ps.any fun p => p == .inf false
  let nInf := ps.any fun p => p == .inf true
  if pInf && nInf then fmtF32.nan fIVD
  else if ps.any (·.isNan) then fmtF32.nan 0
  else if pInf || nInf then fmtF32.inf nInf 0
  else match ps.filterMap (·.lead?) with
    | [] => fmtF32.zero (ps.all (·.neg?)) 0
    | l :: rest =>
      let low := rest.foldl max l - 47
      let t := (ps.map (groupTerm low)).foldl (· + ·) 0
      if t = 0 then fmtF32.zero false 0 else fmtF32.rnd .rn false (decide (t < 0)) t.natAbs low

/-- One floating update of an accumulator cell (R145). -/
def accFloat (acc : W32) (prods : List (FVal × BitVec 8)) : W32 × BitVec 8 :=
  let fl0 := prods.foldl (fun f p => f ||| p.2) 0
  let (g, fl1) := groupSum (prods.map (·.1))
  let (r, fl2) := fmtF32.add .rn false (fmtF32.dec acc.toNat) (fmtF32.dec g)
  (BitVec.ofNat 32 r, fl0 ||| fl1 ||| fl2)

/-- One integer update of an accumulator cell (R146). -/
def accInt (acc : W32) (g : Int) : W32 × BitVec 8 :=
  let t := acc.toInt + g
  (BitVec.ofInt 32 t, if t < -2147483648 ∨ 2147483647 < t then fIOVF else 0)

/-- The code and the scale code that a step has taken, packed: code + 65,536 × scale. -/
def packStep (code scale : Nat) : Nat := code + 65536 * scale

/-- One block group on one cell: `as` and `bs` hold the steps' codes of row m of A and row n of B. (DEDUCED, log 64.) -/
def groupCell (fa fb : List Byte) (acc : W32) (as bs : List Nat) : W32 × BitVec 8 :=
  if isIntFmt (fbFmt fa) then
    accInt acc ((as.zip bs).foldl (fun t p => t + intElem (fbFmt fa) (p.1 % 65536) * intElem (fbFmt fb) (p.2 % 65536)) 0)
  else
    accFloat acc ((as.zip bs).map fun p =>
      scaledProd (floatElem fa (p.1 % 65536)) (floatElem fb (p.2 % 65536)) (p.1 / 65536) (p.2 / 65536))

/-- The key of a cell of a tile (R35). -/
def accKey (tile m n : Nat) : Nat := tile * 16384 + m * 128 + n

/-- One block group over the whole rectangle: `bufA` and `bufB` hold, for each step in K order, the packed codes of every row. -/
def groupTile (acc : SMap 32) (tile rowsA rowsB : Nat) (fa fb : List Byte) (bufA bufB : List (List Nat)) : SMap 32 × BitVec 8 :=
  (List.range rowsA).foldl (fun st m =>
    let as := bufA.map fun r => r.getD m 0
    (List.range rowsB).foldl (fun (st : SMap 32 × BitVec 8) n =>
      let bs := bufB.map fun r => r.getD n 0
      let (v, fl) := groupCell fa fb (sget st.1 (accKey tile m n)) as bs
      (sset st.1 (accKey tile m n) v, st.2 ||| fl)) st) (acc, 0)

/-! ## Drains (R265, R266) -/

/-- Bytes of a drained element. -/
def ofmtBytes : OFmt → Nat
  | .bf16 | .fp16 => 2
  | _ => 4

/-- Rounding of a drain (R265 RND). -/
def drainMode (rnd : BitVec 2) : Mode :=
  match rnd.toNat with
  | 0 => .rn
  | 1 => .rz
  | 2 => .rd
  | _ => .ru

/-- A drained cell: its bytes and flags. -/
def drainCell (c : DrainCtl) (x : W32) : List Byte × BitVec 8 :=
  let conv := fun (f : Fmt) => let (v, fl) := f.narrow (drainMode c.rnd) false c.sat none (fmtF32.dec x.toNat); (natBytes 2 v, fl)
  match c.ofmt with
  | .bf16 => conv fmtBF16
  | .fp16 => conv fmtF16
  | _ => (wBytes 4 x, 0)

end Sys2Proof.Machine
end

