-- ==== Sys2Proof/Machine/Engines.lean ====
section
/-! DEFINITION. The matrix engine of a core (spec/08 R256 to R271): the issue of its operations, tile fetch and pins, leave requests and
grants (spec/16 R463), MMA steps, drains and add-on-stores, completions, faults and error phases. -/
namespace Sys2Proof.Machine

/-! ## The engine queue (R256) -/

/-- The code of an operation (R89), as op8. -/
def EngKind.op8 : EngKind → Nat
  | .mma => 1
  | .mzero => 2
  | .mdrain => 3
  | .mdraina => 4
  | .mload => 5

/-- The SOURCE of an operation's fault records (R349). -/
def EngKind.source : EngKind → Nat
  | .mdrain | .mdraina => 4
  | _ => 3

def State.modEng (s : State) (core id : Nat) (f : EngOp → EngOp) : State :=
  s.modCore core fun c => { c with eng := c.eng.map fun e => if e.id = id then f e else e }
def State.delEng (s : State) (core id : Nat) : State :=
  s.modCore core fun c => { c with eng := c.eng.filter (·.id != id) }

/-- Operations that have not finished with their tile. -/
def State.engOpen (s : State) (core : Nat) : List EngOp := (s.core core).eng.filter fun e => e.finish.isNone && !e.cancelled

/-- Whether the Willow of a core has received STOP for a team's context (R395). -/
def State.stopping (s : State) (t : Nat) : Bool :=
  match s.team? t with
  | some m => match (s.ctx? m.ctx).bind (·.pre) with
    | some p => p.stopped.contains (willowOf m.core)
    | none => false
  | none => false

/-- Whether an operation may go on under a stop: an add-on-store, a load and a clearing in progress are completed (R270). -/
def State.engRuns (s : State) (e : EngOp) : Bool :=
  !s.stopping e.team || (e.began.isSome && (e.kind == .mdraina || e.kind == .mload || e.kind == .mzero))

/-- The operations that take their turn: the first is at the head (R256). -/
def State.engActive (s : State) (core : Nat) : List EngOp := (s.engOpen core).filter fun e => s.engRuns e

/-- Whether the queue takes an operation of a team: at most 8 in all and 4 of the team. -/
def State.engRoom (s : State) (core t : Nat) : Bool :=
  let q := s.engOpen core
  decide (q.length < 8 ∧ (q.filter (·.team == t)).length < 4)

/-! ## Operand lines (R253, R255, R259) -/

/-- An array that is read: first byte, distance of rows, rows, K, and elements per byte as a fraction. -/
structure Arr where
  start : Nat
  stride : Nat
  rows : Nat
  klen : Nat
  num : Nat
  den : Nat

/-- The bytes of row i that block group j uses: first, and one past the last. -/
def Arr.range (a : Arr) (i j : Nat) : Nat × Nat :=
  let s := a.start + i * a.stride
  (s + 32 * j * a.den / a.num, s + (min (32 * j + 32) a.klen * a.den + a.num - 1) / a.num)

/-- The last block group in which a line is used. -/
def Arr.lastGroup (a : Arr) (line : Nat) : Nat :=
  let len := (a.klen * a.den + a.num - 1) / a.num
  (List.range a.rows).foldl (fun acc i =>
    let s := a.start + i * a.stride
    if s < line * 256 + 256 ∧ line * 256 < s + len then
      let off := min (len - 1) (line * 256 + 255 - s)
      max acc (min (a.klen - 1) ((off + 1) * a.num / a.den - 1) / 32)
    else acc) 0

/-- The lines of a range of bytes, each with its lowest and highest byte used, entered into a map by line. -/
def addLines (m : KMap (Nat × Nat)) (lo hi : Nat) : KMap (Nat × Nat) :=
  (List.range (if lo < hi then (hi - 1) / 256 - lo / 256 + 1 else 0)).foldl (fun m i =>
    let l := lo / 256 + i
    let a := max lo (l * 256)
    let b := min hi (l * 256 + 256)
    match kget m l with
    | some (x, y) => kset m l (min x a, max y b)
    | none => kset m l (a, b)) m

/-- The lines of an array for block group j, ascending. -/
def Arr.lines (a : Arr) (j : Nat) : KMap (Nat × Nat) :=
  (List.range a.rows).foldl (fun m i => addLines m (a.range i j).1 (a.range i j).2) []

/-- The element array of an operand and, where it has one, its scale array. -/
def operandArrs (base shape : W64) (blk : List Byte) : List Arr :=
  ⟨base.toNat, shStride shape, shRows shape, shKlen shape, 8, elemBits (fbFmt blk)⟩ ::
    (if fbSaddr blk = 0 then [] else [⟨fbSaddr blk, fbSstride blk, shRows shape, shKlen shape, fbBlen blk, 1⟩])

def EngOp.reg (e : EngOp) (i : Nat) : W64 := e.regs.getD i 0

/-- The arrays that an operation fetches, in the order of R259. -/
def EngOp.arrs (e : EngOp) : List Arr :=
  match e.kind with
  | .mma => operandArrs (e.reg 0) (e.reg 1) e.fa ++ operandArrs (e.reg 2) (e.reg 3) e.fb
  | .mload => [⟨(e.reg 0).toNat, shStride (e.reg 1), shRows (e.reg 1), shKlen (e.reg 1), 8, 32⟩]
  | _ => []

/-- Block groups of an operation that fetches. -/
def EngOp.groups (e : EngOp) : Nat := (shKlen (e.reg 1) + 31) / 32

/-- The next line to fetch for block group `fetG`: first and last byte used and last group, in the order of R259. -/
def EngOp.nextLine (e : EngOp) : Option (Nat × Nat × Nat) :=
  let arrs := e.arrs
  arrs.findSome? fun a => (a.lines e.fetG).findSome? fun p =>
    if e.fetched.any (·.vline == p.1) then none
    else some (p.2.1, p.2.2, arrs.foldl (fun m b => max m (b.lastGroup p.1)) 0)

/-- The pieces of a line that an operation uses: of each row of its arrays, first byte and one past the last. -/
def EngOp.usesOf (e : EngOp) (vline : Nat) : List (Nat × Nat) :=
  e.arrs.flatMap fun a => (List.range a.rows).filterMap fun i =>
    let lo := max (a.start + i * a.stride) (vline * 256)
    let hi := min (a.start + i * a.stride + (a.klen * a.den + a.num - 1) / a.num) (vline * 256 + 256)
    if lo < hi then some (lo, hi) else none

/-- The sectors of a line that an operation uses (R337). -/
def EngOp.sectorsOf (e : EngOp) (vline : Nat) : List Nat :=
  (List.range 4).filter fun k => (e.usesOf vline).any fun p => decide (p.1 < vline * 256 + 64 * k + 64 ∧ vline * 256 + 64 * k < p.2)

/-- The byte at a virtual address: from the copy, or from the home as it is now (R259). -/
def State.tileByte (s : State) (e : EngOp) (va : Nat) : Byte :=
  match e.fetched.find? (·.vline == va / 256) with
  | some t => if t.copied then t.bytes.getD (va % 256) 0 else s.homeByte (t.pline * 256 + va % 256)
  | none => 0

/-- Pinned lines of a core's tile fetch unit, of an L2 slice and of an RDC (R260). -/
def State.pinsOf (s : State) (core : Nat) : Nat := (s.core core).eng.foldl (fun n e => n + e.fetched.length) 0
def State.pinsWhere (s : State) (f : Nat → TLine → Bool) : Nat :=
  s.cores.foldl (fun n c => c.2.eng.foldl (fun n e => n + (e.fetched.filter (f c.1)).length) n) 0

/-- The fault record of an engine operation (R349). -/
def State.engRecord (s : State) (core : Nat) (e : EngOp) (cause : BitVec 8) (va : W64) (badpte : Bool) : State :=
  s.faultRec (dieOf core) ⟨va, s.ptime, causew cause e.kind.source (e.kind == .mdrain || e.kind == .mdraina) false badpte, core,
    BitVec.ofNat 16 (e.team % 4 * 32), s.asnOf (((s.team? e.team).map (·.ctx)).getD 0),
    BitVec.ofNat 64 (e.n.toNat + 16 * e.kind.op8)⟩

/-- A fault of a fetch or a drain's translation (R269): kept until the operation has done what precedes it. -/
def State.engFault (s : State) (core : Nat) (e : EngOp) (b : Bad) : State :=
  s.modEng core e.id fun e => { e with fault := some ⟨b.cause, b.va, b.badpte⟩, fetching := false }

/-- Poisoned bytes that an engine reads (R342): a record, and the context is halted; the operation goes no further. -/
def State.engEcc (s : State) (core : Nat) (e : EngOp) (va : W64) : State :=
  ((s.modEng core e.id fun e => { e with fault := some ⟨cECC, va, false⟩, fetching := false }).engRecord core e cECC va false).haltCtx
    (((s.team? e.team).map (·.ctx)).getD 0)

/-- Reads sectors of another die's line into the RDC and keeps their bytes (R259): a copy older than the operation's issue is not hit; none while
the RDC or the slice has no way (R338). -/
def State.tileCopy (s : State) (core line minFill : Nat) : List Nat → List Byte → Option (List Byte × State)
  | [], bytes => some (bytes, s)
  | k :: r, bytes =>
    let pa := line * 256 + 64 * k
    let put := fun (bs : List Byte) => bytes.take (64 * k) ++ bs ++ bytes.drop (64 * k + 64)
    match s.rdcHit (dieOf core) pa minFill with
    | some (bs, _, _) => (s.rdcTouch (dieOf core) pa).tileCopy core line minFill r (put bs)
    | none =>
      if !s.l2Room (paLow pa) then none else
      let s1 := s.l2Fill (paLow pa)
      let bs := s1.homeBytes pa 64
      let exp := s1.leaseEnd line 512
      match (s1.recordLease line exp).rdcFill (dieOf core) pa bs exp s1.ptime with
      | some s2 => s2.tileCopy core line minFill r (put bs)
      | none => none

/-- TILE_FETCH_RETURN (R259, R260): the sectors that the operation uses of the line being fetched are translated, read and pinned (R337); a fault is
kept for the operation. It waits for a refresh of the line's channel (R341) and for a way (R338). A line that an add-on-store has reserved is
not cached: it is read at its home (R267). -/
def execTileFetchReturn (s : State) : Out :=
  let core := s.a0
  .next (match (s.core core).eng.find? (·.fetching) with
  | none => s
  | some e =>
    match e.nextLine, s.team? e.team with
    | some (lo, hi, last), some m =>
      if e.fault.isSome || s.stopping e.team then s.modEng core e.id fun e => { e with fetching := false } else
      match s.checkVa core m.ctx (w64 lo) .read false with
      | (.wait, s1) => s1.sched 1 .tileFetchReturn [core]
      | (.bad b, s1) => s1.engFault core e b
      | (.ok en pa, s1) =>
        let wait := s1.sched 1 .tileFetchReturn [core]
        let pline := pa / 256
        let secs := e.sectorsOf (lo / 256)
        let at_ := fun (k : Nat) => pline * 256 + 64 * k
        let copied := paClass pa != 0 || ((rdcDie (dieOf core) pa true).isSome && (s1.homeLine pline).resv.isEmpty)
        let full := decide (512 ≤ s1.pinsOf core ∨ 1024 ≤ s1.pinsWhere fun c t =>
          if copied then t.copied && rdcDie (dieOf c) (t.pline * 256) true == rdcDie (dieOf core) pa true
          else !t.copied && homeSlice (t.pline * 256) == homeSlice (pline * 256))
        match ((e.usesOf (lo / 256)).filterMap fun p => s1.poisonRead core (pline * 256 + p.1 % 256) (p.2 - p.1)).min? with
        | some p => if s1.fqWaits (dieOf core) then wait else s1.engEcc core e (w64 (max lo (lo / 256 * 256 + p % 256)))
        | none =>
          if full || secs.any (fun k => s1.meetsRefresh (at_ k)) then wait
          else
            let add := fun (s : State) (got : BitVec 4) (bs : List Byte) => s.modEng core e.id fun e =>
              { e with fetching := false, fetched := e.fetched ++ [(⟨lo / 256, pline, copied, got, bs, last⟩ : TLine)] }
            if !copied then
              if isRegBlock (paLow pa) then add s1 15 []
              else if secs.all fun k => s1.l2Room (paLow (at_ k)) then add (secs.foldl (fun s k => s.l2Fill (paLow (at_ k))) s1) 15 []
              else wait
            else if paClass pa = 0 then
              match s1.tileCopy core pline e.t0 secs (List.replicate 256 0) with
              | some (bs, s2) => add s2 15 bs
              | none => wait
            else
              let rest := secs.foldl (fun (g : BitVec 4) k => g &&& ~~~((1 : BitVec 4) <<< k)) 15
              secs.foldl (fun s k =>
                let (o, s') := s.fresh
                (s'.setOp o (fetchOp s' core 512 (at_ k) (uncPage en pa) 2 e.id (lo / 256))).schedPath .homeRead [o, 0])
                (add s1 rest (List.replicate 256 0))
    | _, _ => s.modEng core e.id fun e => { e with fetching := false })

/-- Starts the fetch of the next line of an operation, or counts a group whose lines are all there. (DEDUCED, log 44.) -/
def State.fetchStep (s : State) (core : Nat) (e : EngOp) : State :=
  match e.nextLine with
  | some _ => (s.modEng core e.id fun e => { e with fetching := true }).schedPath .tileFetchReturn [core]
  | none => if e.fetched.all (·.got == 15) then s.modEng core e.id fun e => { e with fetG := e.fetG + 1 } else s

/-- Whether an operation still has lines to fetch. -/
def EngOp.wantsLines (e : EngOp) : Bool :=
  (e.kind == .mma || e.kind == .mload) && e.fault.isNone && decide (e.fetG < e.groups ∧ e.doneG < e.groups)

/-- Tile fetch of a core (R256, R259): the operation at the head, then the next one. -/
def State.fetchCycle (s : State) (core : Nat) : State :=
  if (s.core core).eng.any (·.fetching) then s else
  match ((s.engActive core).take 2).find? (·.wantsLines) with
  | some e => s.fetchStep core e
  | none => s

/-! ## Leave (R261, R463) -/

/-- Both operands are LUT4: the product table takes 8 cycles (R141, R262). -/
def EngOp.lut (e : EngOp) : Bool := fbFmt e.fa == 2 && fbFmt e.fb == 2
/-- K-steps in two cycles of an MMA (R136). -/
def EngOp.rate (e : EngOp) : Nat := min (rate2 (fbFmt e.fa)) (rate2 (fbFmt e.fb))
/-- Compute cycles of an MMA (R262). -/
def EngOp.cycles (e : EngOp) : Nat :=
  (2 * shKlen (e.reg 1) + e.rate - 1) / e.rate + (if e.lut then 8 else 0)
/-- The cost of an MMA (R463). -/
def EngOp.cost (e : EngOp) : Int := (e.cycles * (if 2 ≤ e.rate then 4 else 3) : Nat)

/-- The MMA that makes the next request: of the first two positions, in queue order (R261). -/
def State.leaveNext (s : State) (core : Nat) : Option EngOp :=
  if (s.core core).leave.isSome then none
  else ((s.engActive core).take 2).find? fun e => e.kind == .mma && e.leave == .none && decide (e.doneG < e.groups)

/-- LEAVE_REQUEST (R261). -/
def execLeaveRequest (s : State) : Out :=
  let core := s.a0
  .next (match s.leaveNext core with
  | none => s
  | some e => ((s.modEng core e.id fun e => { e with leave := .asked }).modCore core fun c => { c with leave := some e.id }).sched 0
      .leaveGrant [core])

/-- LEAVE_GRANT (R463): the pending request is granted once the balance suffices, and the balance pays for it. -/
def execLeaveGrant (s : State) : Out :=
  let core := s.a0
  .next (match (s.core core).leave with
  | none => s
  | some id =>
    match (s.engOpen core).find? (·.id == id) with
    | none => s.modCore core fun c => { c with leave := none }
    | some e =>
      if min e.cost 65536 ≤ (s.core core).bal then
        let s1 := (s.modEng core id fun e => { e with leave := .granted }).modCore core fun c => { c with
          leave := none, bal := c.bal - e.cost }
        { s1 with alder := { s1.alder with e := s1.alder.e + e.cost.toNat } }.sched 1 .leaveRequest [core]
      else s.sched 1 .leaveGrant [core])

/-! ## Faults (R269) -/

/-- The end of an operation in error: its pins are released, the team's operations behind it are cancelled, a record is written,
for which it waits while the queue holds its 8 (R351). -/
def State.engFail (s : State) (core : Nat) (e : EngOp) : State :=
  match e.fault with
  | none => s
  | some f =>
    let behind := ((s.core core).eng.dropWhile (·.id != e.id)).drop 1
    let s1 := s.modCore core fun c => { c with eng := c.eng.map fun x =>
      if x.id = e.id then { x with finish := some s.ccount, fetched := [], fetching := false }
      else if x.team = e.team ∧ x.finish.isNone ∧ behind.any (·.id == x.id) then
        { x with finish := some s.ccount, cancelled := true, fetched := [], fetching := false }
      else x }
    if f.cause = cECC ∨ s.fqWaits (dieOf core) then s else s1.engRecord core e f.cause f.va f.badpte

/-- The operations that the fault of one has cancelled: those of its team behind it, up to the next that faulted. -/
def cancelledBy (e : EngOp) (q : List EngOp) : List EngOp :=
  ((((q.dropWhile (·.id != e.id)).drop 1).filter (·.team == e.team)).takeWhile fun x => x.cancelled)

/-- An operation that has ended in error and whose error phase is to be delivered (R269). -/
def EngOp.failed (e : EngOp) : Bool := e.fault.isSome && e.finish.isSome

/-- Whether deliveries of some operations wait: those to words that are no longer armed write records (R269), for which there must be room (R351). -/
def State.engHeld (s : State) (core : Nat) (l : List EngOp) : Bool :=
  let n := (l.filter fun e => e.kind != .mzero && match s.team? e.team with
    | some m => !(m.bar e.n).armed
    | none => false).length
  n != 0 && s.fqWaits (dieOf core) n

/-- ERROR_PHASE_DELIVERY (R269, R45): once the writes made before the fault are performed and have returned, the error phase goes to the barrier of the
operation and then to those of the cancelled ones. (DEDUCED, log 44.) -/
def execErrorPhaseDelivery (s : State) : Out :=
  let core := s.a0
  .next (match (s.core core).eng.find? fun e => e.failed && e.writes == 0 && decide (e.gmax ≤ s.ptime) with
  | none => s
  | some e =>
    let gone := cancelledBy e (s.core core).eng
    if s.engHeld core (e :: gone) then s else
    let (cause, va) := match e.fault with
      | some f => (f.cause, f.va)
      | none => (0, 0)
    let s1 := (e :: gone).foldl (fun s x =>
      let s' := if x.kind = .mzero then s else s.engError x.team x.n cause va x.kind.source x.kind.op8
      s'.delEng core x.id) s
    s1.endTeamIfDone e.team)

/-! ## MMA, MZERO, MLOAD (R258, R262 to R264) -/

/-- The packed code that row i of an operand gives at step k (R253, R255). -/
def State.stepCode (s : State) (e : EngOp) (base shape : W64) (blk : List Byte) (i k : Nat) : Nat :=
  let b := elemBits (fbFmt blk)
  let at_ := base.toNat + i * shStride shape + k * b / 8
  let x := (s.tileByte e at_).toNat
  let code := match b with
    | 4 => if k % 2 = 0 then x % 16 else x / 16
    | 8 => x
    | _ => x + 256 * (s.tileByte e (at_ + 1)).toNat
  let sc := if fbSaddr blk = 0 then 127 else (s.tileByte e (fbSaddr blk + i * fbSstride blk + k / fbBlen blk)).toNat
  packStep code sc

/-- The codes of every row at step k. -/
def State.stepRows (s : State) (e : EngOp) (base shape : W64) (blk : List Byte) (k : Nat) : List Nat :=
  (List.range (shRows shape)).map fun i => s.stepCode e base shape blk i k

/-- The K indices that compute cycle i takes. -/
def stepKs (rate klen i : Nat) : List Nat :=
  ((match rate with
    | 4 => [2 * i, 2 * i + 1]
    | 2 => [i]
    | _ => if i % 2 = 0 then [i / 2] else []) : List Nat).filter fun k => decide (k < klen)

/-- A block group is complete: its cells are updated, the lines last used by it are unpinned (R258). -/
def State.mmaGroup (s : State) (core : Nat) (e : EngOp) : State :=
  match s.team? e.team with
  | none => s
  | some m =>
    let (acc, fl) := groupTile m.acc e.tile (shRows (e.reg 1)) (shRows (e.reg 3)) e.fa e.fb e.bufA e.bufB
    let s1 := (s.setTeam e.team { m with acc := acc }).modEng core e.id fun e => { e with
      doneG := e.doneG + 1, bufA := [], bufB := [], flags := e.flags ||| fl
      fetched := e.fetched.filter fun t => decide (e.doneG < t.last) }
    if e.doneG + 1 = e.groups then
      (s1.modEng core e.id fun e => { e with finish := some s.ccount, fetched := [] }).sched 4 .mmaCompletion [core]
    else s1

/-- One cycle of the MMA at the head: the grant comes first, then a fault of the group (R258). -/
def State.mmaCycle (s : State) (core : Nat) (e : EngOp) : State :=
  if e.groups ≤ e.doneG then (s.modEng core e.id fun e => { e with finish := some s.ccount }).sched 4 .mmaCompletion [core]
  else if e.leave ≠ .granted then s
  else if e.fault.isSome ∧ e.fetG ≤ e.doneG then s.engFail core e
  else if e.fetG ≤ e.doneG then s
  else if 0 < e.table then s.modEng core e.id fun e => { e with began := e.began.or (some s.ccount), table := e.table - 1 }
  else
    let ks := stepKs e.rate (shKlen (e.reg 1)) e.steps
    let e1 := { e with
      began := e.began.or (some s.ccount), steps := e.steps + 1
      bufA := e.bufA ++ ks.map fun k => s.stepRows e (e.reg 0) (e.reg 1) e.fa k
      bufB := e.bufB ++ ks.map fun k => s.stepRows e (e.reg 2) (e.reg 3) e.fb k }
    let s1 := s.modEng core e.id fun _ => e1
    if 2 * min (32 * (e.doneG + 1)) (shKlen (e.reg 1)) ≤ e1.steps * e.rate then s1.mmaGroup core e1 else s1

/-- The normal completion of an operation: its arrival, with the flags of the phase (R147, R262); it leaves the queue. -/
def State.engDone (s : State) (core : Nat) (e : EngOp) : State :=
  ((s.delEng core e.id).engArrive e.team e.n e.flags e.kind.source e.kind.op8).endTeamIfDone e.team

/-- MMA_COMPLETION (R262): the completion arrival, 4 cycles after the last accumulation. Under a stop the operation is kept as complete
and arrives after restoration (R271). -/
def execMmaCompletion (s : State) : Out :=
  let core := s.a0
  .next (match (s.core core).eng.find? fun e => e.kind == .mma && e.finish.any (fun c => decide (c + 4 ≤ s.ccount)) && !e.cancelled && e.fault.isNone &&
      !s.stopping e.team with
  | none => s
  | some e => if s.engHeld core [e] then s.sched 1 .mmaCompletion [core] else s.engDone core e)

/-- A tile with every cell 0. -/
def clearTile (acc : SMap 32) (tile : Nat) : SMap 32 :=
  acc.filter fun p => !decide (tile * 16384 ≤ p.1 ∧ p.1 < (tile + 1) * 16384)

/-- The operation of a kind whose 16 cycles are over. -/
def State.engTimed (s : State) (core : Nat) (k : EngKind) : Option EngOp :=
  (s.core core).eng.find? fun e => e.kind == k && e.began.isSome && e.finish.isNone && !e.cancelled

/-- MZERO_COMPLETION (R263). -/
def execMzeroCompletion (s : State) : Out :=
  let core := s.a0
  .next (match s.engTimed core .mzero with
  | none => s
  | some e => ((s.modTeam e.team fun m => { m with acc := clearTile m.acc e.tile }).delEng core e.id).endTeamIfDone e.team)

/-- The tile that an MLOAD leaves (R264). -/
def State.loadTile (s : State) (e : EngOp) (acc : SMap 32) : SMap 32 :=
  (List.range (shRows (e.reg 1))).foldl (fun acc m => (List.range (shKlen (e.reg 1))).foldl (fun (acc : SMap 32) n =>
    let at_ := (e.reg 0).toNat + m * shStride (e.reg 1) + 4 * n
    sset acc (accKey e.tile m n) (bytesW 32 ((List.range 4).map fun i => s.tileByte e (at_ + i)))) acc) acc

/-- MLOAD_COMPLETION (R264). -/
def execMloadCompletion (s : State) : Out :=
  let core := s.a0
  .next (match s.engTimed core .mload with
  | none => s
  | some e => if s.engHeld core [e] then s.sched 1 .mloadCompletion [core]
    else (s.modTeam e.team fun m => { m with acc := s.loadTile e m.acc }).engDone core e)

/-! ## Drains (R265 to R268) -/

/-- The drain-control word of an operation. -/
def EngOp.ctl (e : EngOp) : DrainCtl :=
  match decodeDrainCtl (e.kind == .mdraina) (e.word.setWidth 32) with
  | .ok c => c
  | .error _ => ⟨.fp32, false, false, .grp, 0, false⟩

/-- The pieces of a drain: row, offset in the row, length, address; each row is cut at 256-byte lines (R266). -/
def EngOp.pieces (e : EngOp) : List (Nat × Nat × Nat × Nat) :=
  let w := shKlen (e.reg 1) * ofmtBytes e.ctl.ofmt
  (List.range (shRows (e.reg 1))).flatMap fun m =>
    let a := (e.reg 0).toNat + m * shStride (e.reg 1)
    (List.range ((a + w - 1) / 256 - a / 256 + 1)).map fun i =>
      let lo := max a ((a / 256 + i) * 256)
      let hi := min (a + w) ((a / 256 + i) * 256 + 256)
      (m, lo - a, hi - lo, lo)

/-- The bytes of a piece and the flags of their conversion. -/
def EngOp.pieceData (e : EngOp) (acc : SMap 32) (p : Nat × Nat × Nat × Nat) : List Byte × BitVec 8 :=
  let b := ofmtBytes e.ctl.ofmt
  let cells := (List.range (p.2.2.1 / b)).map fun i => drainCell e.ctl (sget acc (accKey e.tile p.1 (p.2.1 / b + i)))
  (cells.flatMap (·.1), cells.foldl (fun f c => f ||| c.2) 0)

/-- Translates the pieces of a drain for writing: physical addresses, a wait, or the first fault. `own`: only memory of the module is
admitted (R267). -/
def State.drainPages (core ctx : Nat) (own : Bool) : List (Nat × Nat × Nat × Nat) → State → Option (Except Bad (List (Nat × W64))) × State
  | [], s => (some (.ok []), s)
  | p :: rest, s =>
    match s.checkVa core ctx (w64 p.2.2.2) .write false with
    | (.wait, s1) => (none, s1)
    | (.bad b, s1) => (some (.error b), s1)
    | (.ok e pa, s1) =>
      if own && (paClass pa != 0 || isRegBlock (paLow pa)) then (some (.error ⟨cREGION, w64 p.2.2.2, 0, true, false, false⟩), s1) else
      match State.drainPages core ctx own rest s1 with
      | (some (.ok l), s2) => (some (.ok ((pa, e) :: l)), s2)
      | r => r

/-- The drain has sent its last line: with ZERO set the tile stays its own until the completion (R256). -/
def State.drainSent (s : State) (core : Nat) (e : EngOp) : State :=
  if e.ctl.zero then s else s.modEng core e.id fun e => { e with finish := some s.ccount }

/-- One cycle of the MDRAIN at the head: one line is written; a row is begun only when all its lines may be written. A line of a scratchpad
destination is stored behind the issue read of an MMA of the cycle (R271). -/
def State.drainCycle (s : State) (core : Nat) (e : EngOp) (m : Team) : State :=
  let ps := e.pieces
  match ps[e.doneL]? with
  | none => (s.modEng core e.id fun e => { e with began := e.began.or (some s.ccount) }).drainSent core e
  | some p =>
    let (bs, fl) := e.pieceData m.acc p
    let next := fun (s : State) (w : Nat) =>
      let s1 := s.modEng core e.id fun e => { e with
        began := e.began.or (some s.ccount), doneL := e.doneL + 1, flags := e.flags ||| fl, writes := e.writes + w }
      if e.doneL + 1 = ps.length then s1.drainSent core e else s1
    if e.ctl.spd then
      (next (s.modEng core e.id fun e => { e with upd := e.upd ++ [(p.2.2.2, bs)] }) 1).schedR 0 (21 * 4294967296 + core) .mdrainaApply [core, e.id]
    else
    match State.drainPages core m.ctx false (if p.2.1 = 0 then ps.filter (·.1 == p.1) else [p]) s with
    | (none, s1) => s1
    | (some (.error b), s1) => if s1.fqWaits (dieOf core) then s1 else match ((s1.engFault core e b).core core).eng.find? (·.id == e.id) with
      | some e1 => (s1.engFault core e b).engFail core e1
      | none => s1
    | (some (.ok l), s1) =>
      match l with
      | [] => s1
      | (pa, en) :: _ =>
        let (o, s2) := s1.fresh
        let op : MemOp := { kind := .store, agent := .drainer core, core := core, dest := .none, order := .relaxed, scope := .grp
                            fn := .int .add, asize := bs.length
                            parts := (cuts 5 0 pa bs.length).map fun c => ⟨97, c.1, c.2.1, c.2.2, (bs.drop c.1).take c.2.2, 0, 0, none, false, none, uncPage en pa, false⟩
                            pc := 0, waits := [], performed := false, leaseLen := 512, minFill := 0, t0 := s.ptime, out := e.id, pos := 0 }
        next ((s2.setOp o op).performStore o) 1

/-- The first cycle of the MDRAINA at the head (R267 steps 1 and 2): every line is translated, the addends are taken, and each home
slice gets its part. -/
def State.addBegin (s : State) (core : Nat) (e : EngOp) (m : Team) : State :=
  let ps := e.pieces
  let data := ps.map fun p => (e.pieceData m.acc p).1
  if e.ctl.spd then
    s.modEng core e.id fun e => { e with began := some s.ccount, writes := 1, upd := (ps.map (·.2.2.2)).zip data }
  else
    match State.drainPages core m.ctx true ps s with
    | (none, s1) => s1
    | (some (.error b), s1) => if s1.fqWaits (dieOf core) then s1 else match ((s1.engFault core e b).core core).eng.find? (·.id == e.id) with
      | some e1 => (s1.engFault core e b).engFail core e1
      | none => s1
    | (some (.ok l), s1) =>
      let s2 := s1.modEng core e.id fun e => { e with began := some s.ccount, writes := 1, upd := (l.map (·.1)).zip data }
      ((l.map fun x => homeSlice (paLow x.1)).eraseDups).foldl (fun s x =>
        let (n, s') := s.draw
        s'.sched (ps.length + n) .mdrainaReport [core, x]) s2

/-- One cycle of the MDRAINA at the head: a line's update is sent; a scratchpad destination is updated in one cycle, after every plain
access of that cycle (R267). -/
def State.addCycle (s : State) (core : Nat) (e : EngOp) (m : Team) : State :=
  if e.began.isNone then s.addBegin core e m else
  let n := e.upd.length
  if n ≤ e.doneL then s else
  let s1 := s.modEng core e.id fun e => { e with doneL := e.doneL + 1 }
  if e.doneL + 1 < n then s1 else
  (if e.ctl.spd then s1.schedR 0 (endRank + 4294967296 + core * 4 + e.team % 4) .mdrainaApply [core, e.id] else s1).drainSent core e

/-- The part of an add-on-store at a home slice. -/
def EngOp.partAt (e : EngOp) (slice : Nat) : List (Nat × List Byte) := e.upd.filter fun u => homeSlice (paLow u.1) == slice
/-- The slices of an add-on-store. -/
def EngOp.slices (e : EngOp) : List Nat := (e.upd.map fun u => homeSlice (paLow u.1)).eraseDups

/-- MDRAINA_REPORT (R267 steps 2 and 3): a home has reserved its lines; it reports the later of this time and their latest lease.
A pinned copy keeps its lease until its pin is released (R260). -/
def execMdrainaReport (s : State) : Out :=
  let core := s.a0
  let x := s.a1
  .next (match (s.core core).eng.find? fun e => e.kind == .mdraina && e.began.isSome && e.commitT.isNone && !e.ctl.spd &&
      !e.reports.any (·.1 == x) && !(e.partAt x).isEmpty with
  | none => s
  | some e =>
    let lines := ((e.partAt x).map fun u => u.1 / 256).eraseDups
    if lines.any s.pinnedCopy then s.sched 1 .mdrainaReport [core, x] else
    let late := lines.foldl (fun a l => max a (s.homeLine l).lease) s.ptime
    let s1 := { s with lines := lines.foldl (fun m l =>
      let h := kgetD m l ⟨0, [], [], false⟩
      kset m l { h with resv := h.resv ++ [e.id] }) s.lines }
    let s2 := s1.modEng core e.id fun e => { e with reports := e.reports ++ [(x, late)] }
    if e.reports.length + 1 = e.slices.length then s2.schedPath .mdrainaCommit [core] else s2)

/-- MDRAINA_COMMIT (R267 step 4): T is the later of the largest report plus 64 core cycles and now plus 96; the writes stand at their
homes with GWCT T. -/
def execMdrainaCommit (s : State) : Out :=
  let core := s.a0
  .next (match (s.core core).eng.find? fun e => e.kind == .mdraina && e.commitT.isNone && e.began.isSome && !e.ctl.spd &&
      e.reports.length == e.slices.length with
  | none => s
  | some e =>
    let t := max (e.reports.foldl (fun a r => max a r.2) 0 + 64 * s.tpc) (s.ptime + 96 * s.tpc)
    let fp := e.ctl.ofmt == .fp32
    let s1 := e.upd.foldl (fun s u =>
      let new := (List.range (u.2.length / 4)).flatMap fun i =>
        wBytes 4 (addWord fp (bytesW 32 (s.latestBytes (u.1 + 4 * i) 4)) (bytesW 32 ((u.2.drop (4 * i)).take 4)))
      let s' := s.checkWatch u.1 (new.map some) (.drainer core) core t
      let (id, s'') := s'.fresh
      { s'' with writes := kset s''.writes id ⟨u.1, u.2.map some, t, e.id, 0, some fp, core, none⟩ }) s
    (s1.modEng core e.id fun e => { e with commitT := some t }).schedAt t .mdrainaApply [core, e.id])

/-- One add-on-store line is applied to the value at its home. -/
def State.applyAdd (s : State) (id : Nat) (w : PWrite) : State :=
  let n := w.data.length / 4
  let new := (List.range n).flatMap fun i => w.onto (w.pa + 4 * i) (s.homeBytes (w.pa + 4 * i) 4)
  let s1 := ({ s with writes := kdel s.writes id }.homeWrite w.pa (new.map some)).clearPoison w.pa (new.map some)
  s1.wakeLine (homeSlice (paLow w.pa)) (w.pa / 256)

/-- Whether a drain's completion arrival may be made (R268): every write is performed at its home and its GWCT has returned. -/
def State.drainReady (s : State) (e : EngOp) : Bool :=
  (e.kind == .mdrain || e.kind == .mdraina) && e.began.isSome && e.fault.isNone && !e.cancelled && e.writes == 0 &&
  decide ((if e.kind == .mdraina then e.upd.length else e.pieces.length) ≤ e.doneL) &&
  !(e.kind == .mdrain && s.stopping e.team) &&
  (match e.ctl.sc with
   | .grp | .team => decide (e.gmax ≤ s.ptime)
   | .cl | .dev => decide (e.gmax < s.ptime)
   | .sys => decide (e.gmax < s.ptime) && !s.posted.any (·.1 == 1073741824))

/-- The scratchpad lines that a drain has sent in the cycle are stored, those of an add-on-store added to what stands there (R266, R267). -/
def State.drainSp (s : State) (core : Nat) (e : EngOp) : State :=
  match s.team? e.team with
  | none => s
  | some m =>
    let fp := e.ctl.ofmt == .fp32
    let add := e.kind == .mdraina
    let l := e.upd.flatMap fun u => if !add then u.2.mapIdx fun k b => (u.1 + k, b) else
      (List.range (u.2.length / 4)).flatMap fun i =>
        let x : W32 := bytesW 32 (m.spGet (u.1 + 4 * i) 4)
        let y : W32 := bytesW 32 ((u.2.drop (4 * i)).take 4)
        (wBytes 4 (addWord fp x y)).mapIdx fun k b => (u.1 + 4 * i + k, b)
    let s1 := (s.spPut e.team l).modEng core e.id fun e => { e with writes := 0, upd := if add then e.upd else [] }
    match (s1.core core).eng.find? (·.id == e.id) with
    | some e1 => if s1.drainReady e1 then s1.schedOnce 0 .drainCompletion [core, e.id] else s1
    | none => s1

/-- Poisoned bytes that a drain reads in the scratchpad to add to them (R342). -/
def State.drainSpPoison (s : State) (e : EngOp) : Option Nat :=
  if e.kind != .mdraina then none else
  match s.team? e.team with
  | some m => (m.poison.filter fun q => e.upd.any fun u => decide (q < u.1 + u.2.length ∧ u.1 < q + 8)).min?
  | none => none

/-- MDRAINA_APPLY (R267 step 5): every home applies its part at PTIME T; the scratchpad takes its lines. Where a byte to be added to is poisoned,
nothing is written, a record says so and the context is halted (R342). (DEDUCED, log 35.) -/
def execMdrainaApply (s : State) : Out :=
  let core := s.a0
  let id := s.a1
  .next (match (s.core core).eng.find? (·.id == id) with
  | none => s
  | some e =>
    if e.ctl.spd then match s.drainSpPoison e with
      | some q => (s.modEng core id fun e => { e with writes := 0, upd := [] }).engEcc core e (w64 q)
      | none => s.drainSp core e
    else
    let mine := s.writes.filter fun p => p.2.add.isSome && p.2.op == id
    match mine with
    | [] => s
    | (x : Nat × PWrite) :: _ =>
      if s.ptime < x.2.gwct then s.schedAt x.2.gwct .mdrainaApply [core, id] else
      let free : Nat × HomeLine → Nat × HomeLine := fun p => (p.1, { p.2 with resv := p.2.resv.erase id })
      let done := fun (s : State) => ({ s with lines := s.lines.map free }).modEng core id fun e => { e with writes := 0, gmax := x.2.gwct }
      match mine.findSome? fun p => s.poisonIn p.2.pa p.2.data.length with
      | some q =>
        let va := (e.pieces.zip e.upd).findSome? fun u =>
          if u.2.1 ≤ q + 7 ∧ q < u.2.1 + u.2.2.length then some (u.1.2.2.2 + (q - u.2.1)) else none
        (done { s with writes := s.writes.filter fun p => !(p.2.add.isSome && p.2.op == id) }).engEcc core e (w64 (va.getD 0))
      | none =>
        let s1 := mine.foldl (fun (s : State) (p : Nat × PWrite) => (s.applyAdd p.1 p.2).rdcInvalidate (dieOf core) p.2.pa p.2.data.length) s
        (done s1).noteGwct core (((s.team? e.team).map (·.ctx)).getD 0) x.2.gwct)

/-- DRAIN_COMPLETION (R268): the completion arrival; ZERO clears the tile (R265). -/
def execDrainCompletion (s : State) : Out :=
  let core := s.a0
  .next (match (s.core core).eng.find? (·.id == s.a1) with
  | none => s
  | some e =>
    if !s.drainReady e || s.engHeld core [e] then s else
    let s1 := if e.ctl.zero then s.modTeam e.team fun m => { m with acc := clearTile m.acc e.tile } else s
    s1.engDone core e)

/-! ## The engine's cycle -/

/-- What the operation at the head does in a cycle. -/
def State.headCycle (s : State) (core : Nat) (e : EngOp) : State :=
  match s.team? e.team with
  | none => s
  | some m =>
    match e.kind with
    | .mma => s.mmaCycle core e
    | .mzero => if e.began.isNone then (s.modEng core e.id fun e => { e with began := some s.ccount }).sched 15 .mzeroCompletion [core] else s
    | .mload =>
      if e.fault.isSome then s.engFail core e
      else if e.groups ≤ e.fetG ∧ e.began.isNone then
        (s.modEng core e.id fun e => { e with began := some s.ccount }).sched 15 .mloadCompletion [core]
      else s
    | .mdrain => s.drainCycle core e m
    | .mdraina => s.addCycle core e m

/-- A cycle of a core's matrix engine, governor and tile fetch unit: the balance grows (R463), lines are fetched, the head works, and
the events that are due are set off. (DEDUCED, log 44.) -/
def State.engCycle (s : State) (core : Nat) : State :=
  let s := s.fetchCycle core
  let s := match s.engActive core with
    | e :: _ => s.headCycle core e
    | [] => s
  let s := if (s.leaveNext core).isSome then s.schedOnce 0 .leaveRequest [core] else s
  let s := if (s.core core).eng.any fun e => e.failed && e.writes == 0 && decide (e.gmax ≤ s.ptime) then
      s.schedOnce 0 .errorPhaseDelivery [core] else s
  (s.core core).eng.foldl (fun s e => if s.drainReady e then s.schedOnce 0 .drainCompletion [core, e.id] else s) s

/-! ## Issue (R256, R257, R263 to R265) -/

/-- The word of a team instruction. -/
def teamWord (i : Instr) : W64 := let w := encode i; (w.getD 1 0 ++ w.getD 0 0 : BitVec 64)

/-- Hands an operation over to the engine queue; an MMA at the first or second position makes its leave request in this cycle. (DEDUCED, log 44.) -/
def State.handOver (s : State) (t : Nat) (m : Team) (kind : EngKind) (tile : BitVec 3) (n : BitVec 4) (i : Instr) (regs : List W64)
    (fa fb : List Byte) : State :=
  let (id, s1) := s.fresh
  let e : EngOp := { id := id, kind := kind, team := t, tile := tile.toNat, n := n, word := teamWord i, regs := regs, fa := fa, fb := fb
                     t0 := s.ptime, leave := .none, began := none, table := 0, steps := 0, doneG := 0, doneL := 0, fetG := 0
                     fetching := false, fetched := [], bufA := [], bufB := [], upd := [], flags := 0, writes := 0, gmax := 0
                     fault := none, cancelled := false, finish := none, reports := [], commitT := none }
  let s2 := s1.modCore m.core fun c => { c with eng := c.eng ++ [{ e with table := if e.kind == .mma && e.lut then 8 else 0 }] }
  if (s2.leaveNext m.core).isSome then s2.schedOnce 0 .leaveRequest [m.core] else s2

/-- The odd register of a pair. -/
def wPair (a : BitVec 5) : BitVec 5 := a + 1

/-- The checks of step 7 of R97, then room in the queue, then the operation's own checks, then the hand-over. -/
def engOp (t : BitVec 3) (pairs : List (BitVec 5)) (regs : List (BitVec 5)) (s : State) (k : Nat → Team → State → TRes) : Out :=
  seqOp regs s fun q m s =>
    if m.accs ≤ t.toNat then .trap s (illegal 0x0001)
    else if pairs.any (·.getLsbD 0) then .trap s (illegal 0x0002)
    else if !s.engRoom m.core q then .stay s
    else k q m s

/-- MZERO (R263). -/
def execMzero (t : BitVec 3) (s : State) : Out :=
  engOp t [] [] s fun q m s => .done (s.handOver q m .mzero t 0 (.mzero t) [] [] [])

/-- MLOAD (R264). -/
def execMload (t : BitVec 3) (a : BitVec 5) (n : BitVec 4) (s : State) : Out :=
  engOp t [a] [a, wPair a] s fun q m s =>
    if !shapeOk (m.wread (wPair a)) 128 then .trap s (illegal 0x0022)
    else if (m.wread a).toNat % 16 ≠ 0 then .trap s (bad cALIGN (m.wread a) 0)
    else if !(m.bar n).armed then .trap s (illegal 0x0003)
    else .done (s.handOver q m .mload t n (.mload t a n) [m.wread a, m.wread (wPair a)] [] [])

/-- The first failing check of a format block's place: ALIGN, SPBOUND. -/
def blockBad (m : Team) (off : Nat) : Option Bad :=
  if off % 64 ≠ 0 then some (bad cALIGN (w64 off) 0)
  else if !m.spIn off 64 then some (bad cSPBOUND (w64 off) 0)
  else none

/-- The lowest poisoned word of a format block. -/
def blockPoison (m : Team) (off : Nat) : Option Bad :=
  ((List.range 8).find? fun i => m.poison.contains (off + 8 * i)).map fun i => bad cECC (w64 (off + 8 * i)) 0

/-- The first failing check of an MMA (R257). -/
def mmaBad (m : Team) (a b c : BitVec 5) (n : BitVec 4) : Option Bad :=
  let wc := m.wread c
  let oa := (wc.extractLsb' 0 20).toNat
  let ob := (wc.extractLsb' 32 20).toNat
  let fa := m.spGet oa 64
  let fb := m.spGet ob 64
  let sa := m.wread (wPair a)
  let sb := m.wread (wPair b)
  ((blockBad m oa).or (blockBad m ob)).or ((blockPoison m oa).or (blockPoison m ob)) |>.or
  (if wc.extractLsb' 20 12 ≠ 0 ∨ wc.extractLsb' 52 12 ≠ 0 ∨ !fbReservedOk fa ∨ !fbReservedOk fb then some (illegal 0x0021)
  else if !fmtsOk fa fb then some (illegal 0x0020)
  else if !shapeOk sa 1048575 || !shapeOk sb 1048575 || shKlen sa != shKlen sb then some (illegal 0x0022)
  else if (m.wread a).toNat % 16 ≠ 0 then some (bad cALIGN (m.wread a) 0)
  else if (m.wread b).toNat % 16 ≠ 0 then some (bad cALIGN (m.wread b) 0)
  else if !(m.bar n).armed then some (illegal 0x0003)
  else none)

/-- MMA (R257). -/
def execMma (t : BitVec 3) (a b c : BitVec 5) (n : BitVec 4) (s : State) : Out :=
  engOp t [a, b] [a, wPair a, b, wPair b, c] s fun q m s =>
    match mmaBad m a b c n with
    | some e => .trap s e
    | none =>
      let wc := m.wread c
      .done (s.handOver q m .mma t n (.mma t a b c n) [m.wread a, m.wread (wPair a), m.wread b, m.wread (wPair b), wc]
        (m.spGet (wc.extractLsb' 0 20).toNat 64) (m.spGet (wc.extractLsb' 32 20).toNat 64))

/-- The lowest destination byte of a scratchpad drain that lies below 256 or beyond the allocation (R265). -/
def drainSpBad (m : Team) (base shape : W64) (w : Nat) : Option Nat :=
  (List.range (shRows shape)).foldl (fun acc i =>
    let lo := base.toNat + i * shStride shape
    let hi := lo + shKlen shape * w
    let x := if lo < 256 then some lo else if m.spSize < hi then some (max lo m.spSize) else none
    match acc, x with
    | some a, some b => some (min a b)
    | none, y => y
    | y, none => y) none

/-- MDRAIN and MDRAINA at issue (R265): a base is a multiple of 16 (R252), and so of the element width. -/
def drainIssue (kind : EngKind) (i : Instr) (t : BitVec 3) (a : BitVec 5) (n : BitVec 4) (c : DrainCtl) (s : State) : Out :=
  engOp t [a] [a, wPair a] s fun q m s =>
    let base := m.wread a
    let shape := m.wread (wPair a)
    if !shapeOk shape 128 then .trap s (illegal 0x0022)
    else if base.toNat % 16 ≠ 0 then .trap s (bad cALIGN base 0)
    else match if c.spd then drainSpBad m base shape (ofmtBytes c.ofmt) else none with
      | some x => .trap s (bad cSPBOUND (w64 x) 0)
      | none =>
        if !(m.bar n).armed then .trap s (illegal 0x0003)
        else .done (s.handOver q m kind t n i [base, shape] [] [])

/-- MDRAIN (R265, R266). -/
def execMdrain (t : BitVec 3) (a : BitVec 5) (n : BitVec 4) (ctl : DrainCtl) (s : State) : Out :=
  drainIssue .mdrain (.mdrain t a n ctl) t a n ctl s
/-- MDRAINA (R265, R267). -/
def execMdraina (t : BitVec 3) (a : BitVec 5) (n : BitVec 4) (ctl : DrainCtl) (s : State) : Out :=
  drainIssue .mdraina (.mdraina t a n ctl) t a n ctl s

end Sys2Proof.Machine
end

