-- ==== Sys2Proof/Machine/Copy.lean ====
section
/-! DEFINITION. The copy engine and the transfer engine of a core (spec/09 R275 to R286; spec/10 R319, R320). -/
namespace Sys2Proof.Machine

/-! ## Copies (R276 to R278) -/

def State.modCopy (s : State) (core id : Nat) (f : CopyCmd → CopyCmd) : State :=
  s.modCore core fun c => { c with copyQ := c.copyQ.map fun x => if x.id = id then f x else x }

/-- The command that the engine performs: the first of the queue that has not ended and whose context is not being stopped. -/
def State.copyHead (s : State) (core : Nat) : Option CopyCmd :=
  (s.core core).copyQ.find? fun c => !c.ended && !s.stopping c.team

/-- Piece i of a command: its row, first byte in the row and length. -/
def CopyCmd.piece? (c : CopyCmd) (i : Nat) : Option (Nat × Nat × Nat) :=
  let d := descOf c.desc
  d.piece (d.dstRows c.form).2 (d.dstRows c.form).1 0 i

/-- Bit i of the progress bitmap. -/
def progBit (m : Team) (d : CopyDesc) (i : Nat) : Bool := (sget m.sp (d.prog + i / 8)).getLsbD (i % 8)

/-- Checks of some addresses, in ascending order: each with the page it lies on, translated once for each 64 KiB range. -/
inductive Pages where
  | ok (l : List (Nat × W64 × Nat))
  | wait
  | bad (b : Bad)

/-- Inserts the lowest address of a 64 KiB range into a list of such addresses in ascending order. -/
def lowOfPages (l : List Nat) : List Nat :=
  ((l.foldl (fun (m : KMap Nat) a => match kget m (a / 65536) with
    | some x => kset m (a / 65536) (min x a)
    | none => kset m (a / 65536) a) []).map (·.2))

/-- Whether an engine may use a page for copies (R277): no peer memory, host memory only where it is mapped for copies. -/
def copyPageOk (e : W64) (pa : Nat) : Bool := paClass pa == 0 || (paClass pa == 1 && leafCPY e)

/-- Translates the pages of a list of addresses: (page number, leaf, physical base of the 64 KiB range). -/
def State.copyPages (core ctx : Nat) (need : Need) : List Nat → State → Pages × State
  | [], s => (.ok [], s)
  | a :: rest, s =>
    match s.checkVa core ctx (w64 a) need false with
    | (.wait, s1) => (.wait, s1)
    | (.bad b, s1) => (.bad b, s1)
    | (.ok e pa, s1) =>
      if !copyPageOk e pa then (.bad ⟨cREGION, w64 a, 0, need == .write, false, false⟩, s1) else
      match State.copyPages core ctx need rest s1 with
      | (.ok l, s2) => (.ok ((a / 65536, e, pa / 65536 * 65536) :: l), s2)
      | r => r

/-- The physical address of a byte by the pages translated. -/
def paOfByte (l : List (Nat × W64 × Nat)) (a : Nat) : Nat × W64 :=
  match l.find? (·.1 == a / 65536) with
  | some (_, e, base) => (base + a % 65536, e)
  | none => (0, 0)

/-- The record and the skip of a piece that faults (R277): one record for each 64 KiB range and cause of a command. (DEDUCED, log 45.) -/
def State.copyFault (s : State) (core : Nat) (c : CopyCmd) (b : Bad) : State :=
  let page := b.va.toNat / 65536
  let s1 := s.modCopy core c.id fun x => { x with next := x.next + 1, recs := if x.recs.contains (page, b.cause) then x.recs
    else x.recs ++ [(page, b.cause)] }
  if c.recs.contains (page, b.cause) then s1 else
  let ctx := ((s.team? c.team).map (·.ctx)).getD 0
  s1.faultRec (dieOf core) ⟨b.va, s.ptime, causew b.cause 5 b.write false b.badpte, core, BitVec.ofNat 16 (c.g % 32), s.asnOf ctx,
    BitVec.ofNat 64 (c.next + c.doff * 4294967296 + c.batch * 4503599627370496)⟩

/-- The largest GWCT of a piece enters its batch (R319). -/
def Group.batchGwct (r : Group) (b gwct : Nat) : Group :=
  let x := r.batches.getD b ⟨.idle, false, 0, 0, 0⟩
  { r with batches := r.batches.setIfInBounds b { x with gwct := max x.gwct gwct } }

/-- A command of a batch ends (R278, R39). -/
def Group.batchEnd (r : Group) (b : Nat) (fault : Bool) : Group :=
  let x := r.batches.getD b ⟨.idle, false, 0, 0, 0⟩
  let y := { x with live := x.live - 1, fault := x.fault || fault, faults := x.faults + if fault then 1 else 0 }
  { r with batches := r.batches.setIfInBounds b (if y.live = 0 ∧ y.st = .sealed then { y with st := .complete } else y) }

/-- The end of a command (R277, R278): CPC falls, its batch counts it. -/
def State.copyEnd (s : State) (core : Nat) (c : CopyCmd) (m : Team) : State :=
  let d := descOf c.desc
  let fault := !(List.range c.pieces).all fun i => progBit m d i
  (s.modCore core fun k => { k with copyQ := k.copyQ.filter (·.id != c.id) }).modGrp c.g fun r =>
    (r.batchEnd c.batch fault).outDone c.id

/-- The read of a piece's source bytes, in flight or come back (R305, R403). -/
def State.copyRead (s : State) (core : Nat) (c : CopyCmd) : Option (Nat × MemOp) :=
  s.ops.find? fun p => p.2.agent == .copier core && p.2.kind == .load && p.2.out == c.id && p.2.pos == c.next

/-- The time before which copies that a group's engines read must not have been filled: its acquires (R314). -/
def State.acqOf (s : State) (g : Nat) : Nat := ((s.grp? g).map (·.acqT)).getD 0

/-- Writes the bytes of a piece at its destination; a write to memory waits until the loads before the copy have bound (R311). -/
def State.copyWrite (s : State) (core : Nat) (c : CopyCmd) (m : Team) (d : CopyDesc) (row lo : Nat) (bs : List Byte) : State :=
  let dst := d.rowStart row + w64 lo
  let busy := fun (s : State) => s.modCopy core c.id fun x => { x with busy := true }
  if d.dsp then ((busy s).spStore c.team dst.toNat bs).sched 0 .copyPieceDone [core, c.id, c.next, s.ptime] else
  if !s.loadsBound c.g c.key c.pos false then s else
  match State.copyPages core m.ctx .write [dst.toNat] s with
  | (.wait, s1) => s1
  | (.bad b, s1) => s1.copyFault core c b
  | (.ok l, s1) =>
    let (pa, e) := paOfByte l dst.toNat
    let (o, s2) := s1.fresh
    let op : MemOp := { kind := .store, agent := .copier core, core := core, dest := .none, order := .relaxed, scope := .grp
                        fn := .int .add, asize := bs.length, parts := [⟨97, 0, pa, bs.length, bs, 0, 0, none, false, none, uncPage e pa, false⟩]
                        pc := 0, waits := [], performed := false, leaseLen := 512, minFill := 0, t0 := s.ptime, out := c.id, pos := c.next }
    ((busy s2).setOp o op).performStore o

/-- The reads of bytes given one by one with their leaves: consecutive bytes of a sector make one read; the reads go in no order among them. -/
def srcRuns (i : Nat) : List (Nat × W64) → List Part
  | [] => []
  | x :: r =>
    match srcRuns (i + 1) r with
    | q :: l => if q.off = i + 1 ∧ q.pa = x.1 + 1 ∧ q.pa % 64 ≠ 0 then { q with off := i, pa := x.1, len := q.len + 1 } :: l
      else ⟨97 + i, i, x.1, 1, [], 0, 0, none, false, none, uncPage x.2 x.1, false⟩ :: q :: l
    | [] => [⟨97 + i, i, x.1, 1, [], 0, 0, none, false, none, uncPage x.2 x.1, false⟩]

/-- An engine of a core reads bytes of memory: a copy filled for it has a lease of 512 (R305). -/
def State.engineRead (s : State) (core : Nat) (agent : Agent) (g id pos : Nat) (pas : List (Nat × W64)) : State :=
  let (o, s1) := s.fresh
  let op : MemOp := { kind := .load, agent := agent, core := core, dest := .none, order := .relaxed, scope := .grp, fn := .int .add
                      asize := pas.length, parts := srcRuns 0 pas, pc := 0, waits := [], performed := false, leaseLen := 512
                      minFill := s.acqOf g, t0 := s.ptime, out := id, pos := pos }
  (s1.setOp o op).performLoad o

/-- The lowest poisoned address among bytes that an engine of a core reads, given with the physical addresses they lie at (R342). -/
def State.lowPoison (s : State) (core : Nat) (srcs : List Nat) (pas : List (Nat × W64)) : Option Nat :=
  ((srcs.zip pas).filterMap fun x => if (s.poisonRead core x.2.1 1).isSome then some x.1 else none).min?

/-- COPY_PIECE (R277): the engine checks and copies the next piece, or records its fault. (DEDUCED, log 45.) -/
def execCopyPiece (s : State) : Out :=
  let core := s.a0
  .next (match s.copyHead core with
  | none => s
  | some c =>
    match s.team? c.team with
    | none => s
    | some m =>
      let d := descOf c.desc
      if c.busy || s.fqWaits (dieOf core) then s
      else if c.pieces ≤ c.next then s.copyEnd core c m
      else if c.skipBits && progBit m d c.next then s.modCopy core c.id fun x => { x with next := x.next + 1 }
      else match c.piece? c.next with
      | none => s.copyEnd core c m
      | some (row, lo, n) =>
        let srcs := (List.range n).map fun j => (d.srcOf c.form row (lo + j)).toNat
        let dst := (d.rowStart row + w64 lo).toNat
        match s.copyRead core c with
        | some (o, op) => if op.unbound then s else (s.delOp o).copyWrite core c m d row lo (op.parts.flatMap (·.data))
        | none =>
          match if d.ssp then (.ok [], s) else State.copyPages core m.ctx .read (lowOfPages srcs) s with
          | (.wait, s1) => s1
          | (.bad b, s1) => s1.copyFault core c b
          | (.ok l, s1) =>
            match if d.dsp then (.ok [], s1) else State.copyPages core m.ctx .write [dst] s1 with
            | (.wait, s2) => s2
            | (.bad b, s2) => s2.copyFault core c b
            | (.ok _, s2) =>
              let pas := srcs.map fun a => paOfByte l a
              let poison := if d.ssp then (srcs.filter fun a => m.poison.contains (a / 8 * 8)).min? else s2.lowPoison core srcs pas
              match poison with
              | some a => (s2.copyFault core c ⟨cECC, w64 a, 0, false, false, false⟩).haltCtx m.ctx
              | none =>
                if d.ssp then s2.copyWrite core c m d row lo (srcs.map fun a => sget m.sp a)
                else s2.engineRead core (.copier core) c.g c.id c.next pas)

/-- COPY_PIECE_DONE (R277, R319): the write of a piece is performed: its bit is set, its GWCT enters the batch, and its bytes may be
counted into a barrier; an addition that the word refuses is discarded. -/
def execCopyPieceDone (s : State) : Out :=
  let core := s.a0
  let gwct := s.args.getD 3 s.ptime
  .next (if s.ptime < gwct then s.schedAt gwct .copyPieceDone s.args else match (s.core core).copyQ.find? (·.id == s.a1) with
  | none => s
  | some c =>
    match s.team? c.team, c.piece? s.a2 with
    | some m, some (_, _, n) =>
      let d := descOf c.desc
      let old := sget m.sp (d.prog + s.a2 / 8)
      let s1 := (s.spStore c.team (d.prog + s.a2 / 8) [old ||| ((1 : Byte) <<< (s.a2 % 8))]).modGrp c.g fun r => r.batchGwct c.batch gwct
      let s2 := s1.modCopy core c.id fun x => { x with busy := false, next := s.a2 + 1 }
      let s3 := if d.ben then (match s2.barBytes c.team d.nb n 0 with
        | .applied s' => s'
        | .sent s' => s'
        | .refused => s2) else s2
      if s.a2 + 1 = c.pieces then (match s3.team? c.team with
        | some m' => s3.copyEnd core c m'
        | none => s3) else s3
    | _, _ => s)

/-! ## Bulk transfers (R284 to R286) -/

def State.modXfer (s : State) (core id : Nat) (f : Xfer → Xfer) : State :=
  s.modCore core fun c => { c with xferQ := c.xferQ.map fun x => if x.id = id then f x else x }
def State.xfer? (s : State) (core id : Nat) : Option Xfer := (s.core core).xferQ.find? (·.id == id)

/-- The team and the context of a transfer's group. -/
def State.xferCtx (s : State) (x : Xfer) : Nat := ((s.grp? x.g).map (·.ctx)).getD 0
def State.xferTeam (s : State) (x : Xfer) : Nat := ((s.grp? x.g).map (·.team)).getD 0

/-- The status of a transfer (R285). -/
def Xfer.status (x : Xfer) : W64 := w64 (x.code + x.cause.toNat * 256) ||| (w64 x.done <<< 32)

/-- The end of a transfer, once nothing of it is in flight (R285): the status, and TLC falls. -/
def State.xferEnd (s : State) (core id : Nat) : State :=
  match s.xfer? core id with
  | none => s
  | some x =>
    if x.inFlight ≠ 0 ∨ (x.left ≠ 0 ∧ !x.stopped) then s
    else (s.modCore core fun c => { c with xferQ := c.xferQ.filter (·.id != id) }).modGrp x.g fun r => r.replied id x.status

/-- A transfer stops at a fault (R285), with its record where it has a cause: SOURCE 6 at the issuing die, SOURCE 7 at the destination core's die,
which is the core of the selector where it counts bytes. `other`: the other module (R349). (DEDUCED, log 45.) -/
def State.xferStop (s : State) (core : Nat) (x : Xfer) (code other : Nat) (b : Option Bad) : State :=
  let s1 := s.modXfer core x.id fun y => { y with stopped := true, code := code, cause := (b.map (·.cause)).getD 0 }
  let far := (x.sel.extractLsb' 0 9).toNat
  let at_ := if code = 1 ∨ !x.sel.getLsbD 31 ∨ 320 ≤ far then core else far
  let s2 := match b with
    | some b => s1.faultRec (dieOf at_) ⟨b.va, s.ptime, causew b.cause (if code = 1 then 6 else 7) (code == 2) false b.badpte, at_,
        BitVec.ofNat 16 (x.g % 32), s.asnOf (s.xferCtx x), BitVec.ofNat 64 (x.done % 4294967296 + other * 4294967296)⟩
    | none => s1
  s2.xferEnd core x.id

/-- The transfer that may send: the first that is not stopped, has bytes left and whose context is not being stopped. -/
def State.xferHead (s : State) (core : Nat) : Option Xfer :=
  (s.core core).xferQ.find? fun x => !x.stopped && decide (0 < x.left) && !s.stopping (s.xferTeam x)

/-- The packet of a bulk write to a peer: enables of its bytes are not needed, so that the field carries the selector and the byte
count (R410 names operands; the place is the model's, log 14). -/
def bulkBen (sel : W64) (n : Nat) : BitVec 256 := sel.setWidth 256 ||| (BitVec.ofNat 256 n <<< 64)

/-- The read of a packet's source bytes, in flight or come back (R305). -/
def State.xferRead (s : State) (core : Nat) (x : Xfer) : Option (Nat × MemOp) :=
  s.ops.find? fun p => p.2.agent == .xfer core && p.2.kind == .load && p.2.out == x.id

/-- A packet whose bytes have been read leaves: into the masks of its core and to its home of the own module, or with its unit of allowance to a
peer (R284, R307); `none` while it must wait. -/
def State.packetOut (s : State) (core : Nat) (x : Xfer) (dst : Nat) (data : List Byte) : Option State :=
  let n := data.length
  let sent := fun (s : State) => s.modXfer core x.id fun y => { y with
    src := y.src + w64 n, dst := y.dst + w64 n, left := y.left - n, inFlight := y.inFlight + 1, paid := false }
  if paClass dst = 0 then
    let (k, s1) := s.fresh
    (s1.l1Alloc core dst).map fun s2 =>
      sent ({ s2.maskWrite core dst (data.map some) k (.xfer core) none with
        pkts := kset s2.pkts k ⟨core, x.id, dst, data, x.sel, none, none, none⟩ }.schedPath .bulkWrite [k])
  else
    let die := dieOf core
    let dstM := peerModule dst
    let paid := if x.paid then some s
      else if ((s.die die).salWait.any fun w => w.dst == dstM) || s.salRead die dstM < 1 then none else some (s.salTake die dstM 1)
    (paid.bind fun s => s.sendPeer die dstM 9 core (peerAddr dst) x.id n (bulkBen x.sel n) (flitData dst (data.map some))).map sent

/-- BULK_PACKET_SEND (R284): the next packet of a transfer: its source bytes are checked, then its destination; they are read, and it leaves. -/
def execBulkPacketSend (s : State) : Out :=
  let core := s.a0
  .next (match s.xferHead core with
  | none => s
  | some x =>
    if s.fqWaits (dieOf core) then s else
    match s.xferRead core x with
    | some (o, op) => if op.unbound then s else
      (match s.checkVa core (s.xferCtx x) x.dst .write false with
       | (.ok _ pa, s1) => (((s1.delOp o).packetOut core x pa (op.parts.flatMap (·.data)))).getD s1
       | (_, s1) => s1.delOp o)
    | none =>
      let ctx := s.xferCtx x
      let n := min x.left (256 - x.dst.toNat % 256)
      let srcs := (List.range n).map fun j => (x.src + w64 j).toNat
      let other := fun (s : State) => match (s.checkVa core ctx x.dst .write false).1 with
        | .ok _ pa => if paClass pa = 2 then peerModule pa else s.modNum.toNat
        | _ => s.modNum.toNat
      match State.copyPages core ctx .read (lowOfPages srcs) s with
      | (.wait, s1) => s1
      | (.bad b, s1) => s1.xferStop core x 1 (other s1) (some b)
      | (.ok l, s1) =>
        let pas := srcs.map fun a => paOfByte l a
        match ((srcs.zip pas).filterMap fun y => if paClass y.2.1 = 0 then none else some y.1).min?, s1.lowPoison core srcs pas with
        | some a, _ => s1.xferStop core x 1 (other s1) (some ⟨cREGION, w64 a, 0, false, false, false⟩)
        | none, some a => (s1.xferStop core x 1 (other s1) (some ⟨cECC, w64 a, 0, false, false, false⟩)).haltCtx ctx
        | none, none =>
          match s1.checkVa core ctx x.dst .write false with
          | (.wait, s2) => s2
          | (.bad b, s2) => s2.xferStop core x 2 s.modNum.toNat (some b)
          | (.ok _ pa, s2) =>
            if paClass pa = 1 ∨ (paClass pa = 0 ∧ isRegBlock (paLow pa)) then s2.xferStop core x 3 s.modNum.toNat none
            else s2.engineRead core (.xfer core) x.g x.id 0 pas)

/-- The team whose barrier words a selector names: BOFF lies in the first 256 bytes of its allocation (R286). -/
def State.selTeam (s : State) (sel : W64) : Option (Nat × BitVec 4) :=
  let core := (sel.extractLsb' 0 9).toNat
  let off := (sel.extractLsb' 9 20).toNat
  (s.teams.find? fun p => p.2.core == core && !s.savedTeam p.2 && decide (p.2.spBase ≤ off ∧ off < p.2.spBase + 256)).map fun p =>
    (p.1, BitVec.ofNat 4 ((off - p.2.spBase) / 16))

/-- The transfer of a packet of this module. -/
def State.pktXfer (s : State) (p : BulkPkt) : Option Xfer := if p.fromPeer.isSome then none else s.xfer? p.core p.xfer

/-- The record of a refused addition at the destination die (R286, R349): of a transfer of this module with its group, address space, address and
bytes done; of a peer's packet these are not known here. (DEDUCED, log 45.) -/
def State.refuseRecord (s : State) (p : BulkPkt) : State :=
  let core := (p.sel.extractLsb' 0 9).toNat
  let x := s.pktXfer p
  s.faultRec (dieOf core % 4) ⟨0, s.ptime, causew cREGION 7 true false false, core, BitVec.ofNat 16 ((x.map (·.g % 32)).getD 0),
    (x.map fun x => s.asnOf (s.xferCtx x)).getD 0,
    BitVec.ofNat 64 ((x.map (·.done % 4294967296)).getD 0 + (match p.fromPeer with | some q => q.src.toNat | none => s.modNum.toNat) * 4294967296)⟩

/-- The acknowledgement of a bulk packet: to the transfer engine, or as a response to the peer that sent it (R285, R417). -/
def State.bulkAnswer (s : State) (k : Nat) (p : BulkPkt) (code : Nat) : State :=
  let s1 := { s with pkts := kdel s.pkts k }
  match p.fromPeer with
  | none => s1.schedPath .bulkAck [p.core, p.xfer, p.data.length, code, p.gwct.getD 0]
  | some q =>
    let r := respond s.modNum q (p.gwct.getD 0) (BitVec.ofNat 256 code) []
    let port := portFor (homeDie (paLow p.dst) % 4) q.src.toNat
    (s1.answered q r).emit port r

/-- The refusal of a packet's addition: its record, for which it waits while the die holds its 8 (R351), and the answer. -/
def State.bulkRefuse (s : State) (k : Nat) (p : BulkPkt) : State :=
  if s.fqWaits (dieOf (p.sel.extractLsb' 0 9).toNat % 4) then s.sched 1 .bulkWrite [k] else (s.refuseRecord p).bulkAnswer k p 4

/-- BULK_WRITE (R284, R286, R320): the packet is accepted at its home; at its GWCT its bytes are counted into the selected word; then it
is acknowledged. (DEDUCED, log 45.) -/
def execBulkWrite (s : State) : Out :=
  let k := s.a0
  .next (match kget s.pkts k with
  | none => s
  | some p =>
    match p.gwct, p.code with
    | none, _ =>
      let behind := p.fromPeer.isNone && s.earlierWrite p.core 1048576 k p.dst p.data.length
      if behind || s.pinnedCopy (p.dst / 256) then s.sched 1 .bulkWrite [k] else
      let agent : Agent := match p.fromPeer with
        | some q => .peer q.src.toNat
        | none => .xfer p.core
      let s0 := if p.fromPeer.isNone then s.rdcInvalidate (dieOf p.core) p.dst p.data.length else s
      let (g, s1) := s0.acceptWrite p.dst (p.data.map some) k 0 agent p.core
      let s2 := match p.fromPeer with
        | some q => s1.owe q
        | none => s1
      { s2 with pkts := kset s2.pkts k { p with gwct := some g } }.schedAt g .bulkWrite [k]
    | some g, none =>
      if s.ptime < g then s.schedAt g .bulkWrite [k]
      else if !p.sel.getLsbD 31 then s.bulkAnswer k p 0
      else match s.selTeam p.sel with
        | none => s.bulkRefuse k p
        | some (t, n) =>
          match s.barBytes t n p.data.length (k + 1) with
          | .applied s1 => s1.bulkAnswer k p 0
          | .refused => s.bulkRefuse k p
          | .sent s1 => s1
    | some _, some c => if c = 4 then s.bulkRefuse k p else s.bulkAnswer k p c)

/-- BULK_ACK (R285): a packet is performed and counted; with the last one the status is written and TLC falls. -/
def execBulkAck (s : State) : Out :=
  let core := s.a0
  let n := s.a2
  let code := s.args.getD 3 0
  let gwct := s.args.getD 4 0
  .next (match s.xfer? core s.a1 with
  | none => s
  | some x =>
    ((s.noteGwct core (s.xferCtx x) gwct).modXfer core x.id fun y => { y with
      inFlight := y.inFlight - 1, done := y.done + n, code := if y.code = 0 then code else y.code }).xferEnd core x.id)

end Sys2Proof.Machine
end

