-- ==== Sys2Proof/Machine/Image.lean ====
section
/-! DEFINITION. Checkpoint images (spec/13 R396 to R400): the bytes of a saved context, and what a restored team is. -/
namespace Sys2Proof.Machine

/-- n zero bytes. -/
def zeros (n : Nat) : List Byte := List.replicate n 0

/-- Bytes filled up with zeros to a length. -/
def padTo (n : Nat) (bs : List Byte) : List Byte := bs ++ zeros (n - bs.length)

/-- Whether bytes i to i + n - 1 are zero. -/
def zeroAt (bs : List Byte) (i n : Nat) : Bool := ((bs.drop i).take n).all (· == 0)

/-- A field of a list of bytes as a word. -/
def fieldW (w : Nat) (bs : List Byte) (i : Nat) : BitVec w := BitVec.ofNat w (fieldN bs i (w / 8))

/-! ## Group records (R398) -/

/-- The lane queue as it is saved: a running block comes first, with the LPC at which it stopped and its snapshot (R386 saves a
stopped block so). Eight blocks that wait behind it make nine entries; the ninth stands in the bytes from 8,000 on. (DESIGN CHOICE, log 22.) -/
def Group.savedLq (r : Group) : List LqEntry :=
  match r.blk with
  | some b => if b.running then ⟨r.lpc, b.snap, b.pos, b.ck⟩ :: r.lq else r.lq
  | none => r.lq

/-- Arrival records, 4 bytes for each barrier. -/
def arrBytes (f : Nat → Option (BitVec 32)) : List Byte := (List.range 16).flatMap fun n => wBytes 4 ((f n).getD 0)
/-- Which records are valid. -/
def arrValid (f : Nat → Option (BitVec 32)) : BitVec 16 :=
  (List.range 16).foldl (fun a n => if (f n).isSome then a ||| ((1 : BitVec 16) <<< n) else a) 0

/-- GSTATE (R398). `pend`: a block start is pending. -/
def Group.gstate (r : Group) (pend : Bool) : W64 :=
  let part := r.rg.isSome
  let join := match r.rg with | some w => w.parked | none => false
  r.gid.setWidth 64 ||| w64 (r.allotSt.code * 32) ||| bitAt r.xtgtV 7 ||| bitAt part 8 ||| bitAt join 9 ||| bitAt pend 10 |||
    bitAt (r.stop == .escalated) 11 ||| bitAt (r.stop == .deferred) 12

/-- Whether an entry's operands give its result (R157 to R159). -/
def CqEntry.computed (e : CqEntry) : Bool :=
  match decodeScalar e.word with
  | .ok i => (scalarResult i e.x e.y).isSome
  | .error _ => false

/-- The commit queue as it is saved: from its first unreleased entry. A write of EXEC whose value its two operands do not give (a load, a link
address, a time) keeps the value in the place of the first. (DESIGN CHOICE, log 13.) -/
def CqEntry.bytes (e : CqEntry) : List Byte :=
  let x := if e.computed then e.x else e.val.getD e.x
  wBytes 4 e.word ++ natBytes 4 (if e.skip then 1 else 0) ++ natBytes 8 e.pa ++ wBytes 8 x ++ wBytes 8 e.y

/-- A scalar checkpoint (R398); `n` saved entries precede it. -/
def Ckpt.bytes (c : Ckpt) (n : Nat) : List Byte :=
  wBytes 8 c.spc ++ (List.range 60).flatMap (fun k => wBytes 8 (c.s.getD (k + 1) 0)) ++ natBytes 1 c.ldc ++ natBytes 1 c.stc ++
    natBytes 1 c.cpc ++ natBytes 1 c.tlc ++ natBytes 2 n ++ zeros 18

/-- The saved entries that precede a checkpoint. -/
def Group.before (r : Group) (c : Ckpt) : Nat := (r.cq.filter fun e => decide (e.pos < c.pos)).length

/-- The group record (R398). Within a regroup the window stands in host positions and the other registers as kept (R218). (DESIGN CHOICE, log 13.) -/
def Group.record (r : Group) : List Byte :=
  let lq := r.savedLq
  let cks := (lq.map (·.ck)).drop (lq.length - 8)
  let st := fun b : Batch => b.st.code
  let bst := (List.range 16).foldl (fun a n => a + st (r.batches.getD n ⟨.idle, false, 0, 0, 0⟩) * 4 ^ n) 0
  let bflt := (List.range 16).foldl (fun a n => a + (if (r.batches.getD n ⟨.idle, false, 0, 0, 0⟩).fault then 2 ^ n else 0)) 0
  natBytes 8 (17408 + 384 * r.allot) ++ wBytes 8 (r.gstate ((r.blk.map (·.starting)).getD false || (r.rel.isSome && !r.lq.isEmpty))) ++
  wBytes 8 r.spc ++ wBytes 8 r.lpc ++ frameBytes r ++
  wBytes 8 (r.flags.setWidth 64) ++ wBytes 8 (r.ftrapen.setWidth 64) ++ wBytes 8 (r.fmode.setWidth 64) ++ wBytes 8 (r.lease.setWidth 64) ++
  wBytes 8 r.trctl ++ wBytes 8 r.trapcause ++ wBytes 8 r.trapva ++ wBytes 8 r.trapinfo ++ wBytes 8 r.trapspc ++ wBytes 8 r.traplpc ++
  natBytes 1 (r.ctr .ldc) ++ natBytes 1 (r.ctr .stc) ++ natBytes 1 (r.ctr .cpc) ++ natBytes 1 (r.ctr .tlc) ++
  natBytes 1 lq.length ++ natBytes 1 r.rs.length ++ natBytes 1 r.openB ++ zeros 1 ++ natBytes 4 bst ++ natBytes 2 bflt ++
  natBytes 2 r.allot ++ wBytes 8 r.xtgtA ++ wBytes 8 r.xtgtS ++ arrBytes (kget r.arr) ++ wBytes 2 (arrValid (kget r.arr)) ++ zeros 14 ++
  wBytes 12 r.lsent ++ zeros 3 ++ (if r.lsentV then [0x80] else [0]) ++ zeros 16 ++
  padTo 6144 (r.rs.flatMap RsEntry.bytes) ++
  padTo 1280 (lq.flatMap fun e => wBytes 8 e.entry ++ e.snap.toList.flatMap (wBytes 8)) ++
  padTo 2048 (r.cq.flatMap CqEntry.bytes) ++
  (List.range 16).flatMap (fun n => wBytes 12 (r.kreg n)) ++
  (match r.rg with
   | some w => (List.range 16).flatMap (fun n => wBytes 12 (w.keptK.getD n 0)) ++ padTo 192 (w.map.flatMap (wBytes 2))
   | none => zeros 384) ++ zeros 1472 ++
  padTo 4608 (r.ck.bytes (r.before r.ck) ++ cks.flatMap fun c => c.bytes (r.before c)) ++ zeros 512 ++
  (List.range r.allot).flatMap fun reg => (List.range 96).flatMap fun l => wBytes 4 (r.vget reg l)

/-! ## The engine section (R399) -/

/-- The entry of an engine operation: its word, the register values and format blocks read at issue, its progress. -/
def EngOp.entry (e : EngOp) : List Byte :=
  padTo 256 ([1] ++ zeros 7 ++ wBytes 8 e.word ++ padTo 40 (e.regs.flatMap (wBytes 8)) ++
    natBytes 4 (if e.kind == .mma then e.doneG else e.doneL) ++ zeros 4 ++ padTo 64 e.fa ++ padTo 64 e.fb)

/-- The entry of a copy: its group, its descriptor with the form that the engine wrote, batch and offset. -/
def CopyCmd.entry (c : CopyCmd) (gid : BitVec 4) : List Byte :=
  let form : Byte := match c.form with | .c1d => 1 | .c2d => 2 | .ct => 3
  padTo 256 ([2, gid.setWidth 8] ++ zeros 6 ++ c.desc.take 42 ++ [form] ++ padTo 21 (c.desc.drop 43) ++ natBytes 1 c.batch ++ zeros 3 ++
    natBytes 4 c.doff)

/-- The entry of a bulk transfer. -/
def Xfer.entry (x : Xfer) (gid : BitVec 4) : List Byte :=
  let sc := match x.sc with | .grp => 0 | .team => 1 | .cl => 2 | .dev => 3 | .sys => 4
  padTo 256 ([3, gid.setWidth 8] ++ zeros 6 ++ wBytes 8 x.src ++ wBytes 8 x.dst ++ natBytes 4 x.left ++ natBytes 4 x.done ++
    wBytes 8 x.sel ++ natBytes 1 sc ++ natBytes 1 x.reply.toNat)

/-! ## Team records (R397) -/

/-- TSTATE. -/
def Team.tstate (m : Team) : Nat :=
  match m.seqSt with
  | .trapped => 1
  | .exited => 2
  | .idle => 4
  | .barrierWait => 8
  | _ => 0

/-- A tile's bytes: cell (m, p) at 512 m + 4 p. -/
def Team.tileBytes (m : Team) (n : Nat) : List Byte := (List.range 16384).flatMap fun i => wBytes 4 (sget m.acc (n * 16384 + i))

/-- The team record. -/
def State.teamRecord (s : State) (t : Nat) (m : Team) : List Byte :=
  let grp := fun i : Nat => match m.members[i]?.bind fun g => (s.grp? g).map fun r => (g, r) with
    | some (_, r) => if r.team = t then r.record else natBytes 8 256 ++ natBytes 8 (16 + i) ++ zeros 240
    | none => natBytes 8 256 ++ natBytes 8 (16 + i) ++ zeros 240
  let gs := (List.range m.groups).flatMap grp
  let gidOf := fun g => ((s.grp? g).map (·.gid)).getD 0
  let c := s.core m.core
  let eng := c.eng.filter (·.team == t)
  let cps := c.copyQ.filter (·.team == t)
  let xfs := c.xferQ.filter fun x => s.xferTeam x == t
  let es := padTo 256 (natBytes 2 eng.length ++ natBytes 2 cps.length ++ natBytes 2 xfs.length) ++ eng.flatMap EngOp.entry ++
    cps.flatMap (fun x => x.entry (gidOf x.g)) ++ xfs.flatMap fun x => x.entry (gidOf x.g)
  let spOff := 512 + gs.length
  let accOff := spOff + m.spSize
  let engOff := accOff + 65536 * m.accs
  natBytes 8 (engOff + es.length) ++ wBytes 8 m.tid ++ wBytes 8 m.clpos ++ wBytes 8 m.tpc ++ natBytes 2 m.groups ++ natBytes 1 m.accs ++
  natBytes 1 m.tstate ++ natBytes 4 m.spSize ++ natBytes 8 spOff ++ natBytes 8 accOff ++ natBytes 8 engOff ++
  arrBytes (kget m.arr) ++ wBytes 2 (arrValid (kget m.arr)) ++ zeros 6 ++
  (if m.seqSt == .trapped then wBytes 8 m.tcause ++ wBytes 8 m.tva ++ wBytes 8 m.tinfo else zeros 24) ++ zeros 96 ++
  (List.range 32).flatMap (fun n => wBytes 8 (m.wread (BitVec.ofNat 5 n))) ++
  gs ++ m.spGet 0 m.spSize ++ (List.range m.accs).flatMap m.tileBytes ++ es

/-- The header of the image (R396). -/
def State.imageHeader (s : State) (c : Ctx) (p : Preempt) (teams : Nat) : List Byte :=
  natBytes 4 0x53450001 ++ natBytes 4 (p.reason % 8 * 2 + if c.priv then 16 else 0) ++ c.kdesc.take 8 ++ wBytes 8 c.args ++
  natBytes 4 c.gx ++ natBytes 4 c.gy ++ natBytes 4 c.gz ++ natBytes 2 c.asn ++ zeros 2 ++ natBytes 8 c.root ++ natBytes 4 c.tslice ++
  natBytes 4 teams ++ natBytes 4 c.nextCl ++ zeros 4 ++ natBytes 8 s.ptime ++
  (if p.reason = 1 then natBytes 2 p.escCore ++ natBytes 1 p.escAgent ++ natBytes 1 p.escCause else zeros 4) ++ zeros 180

/-! ## Restored teams (R400) -/

/-- A scalar checkpoint of an image; the registers that held replies of saved entries are pending in it. -/
def ckptOf (bs : List Byte) (pend : List PendS) : Ckpt :=
  ⟨fieldW 64 bs 0, Vector.ofFn fun (i : Fin 64) => if i.val = 0 ∨ 60 < i.val then 0 else fieldW 64 bs (8 * i.val),
    fieldN bs 488 1, fieldN bs 489 1, fieldN bs 490 1, fieldN bs 491 1, pend, fieldN bs 492 2⟩

/-- A reconvergence-stack entry of an image; a KIND that is reserved gives none. -/
def rsOf (bs : List Byte) : Option RsEntry :=
  let mk := fun k => some (⟨k, fieldW 64 bs 8, fieldW 64 bs 16, BitVec.ofNat 96 (fieldN bs 24 12), fieldW 64 bs 40,
    Vector.ofFn fun (i : Fin 16) => fieldW 64 bs (48 + 8 * i.val)⟩ : RsEntry)
  match fieldN bs 0 8 with
  | 1 => mk .div
  | 2 => mk .call
  | 3 => mk .trap
  | 4 => mk .regroup
  | _ => none

/-- The load barriers that enter the commit queue (R153, R274, R293, R301). -/
def isLoadBarrier : Instr → Bool
  | .satom .. | .scas .. | .cwaitb .. | .cstat .. | .fstake .. | .fscpy .. | .fcfgCreate .. | .fcfgDelete .. | .fcfgReadCounters .. => true
  | _ => false

/-- A saved commit-queue entry with its outstanding operation: `id` is fresh where the instruction counts or replies. (DESIGN CHOICE, log 13.) -/
def cqOf (bs : List Byte) (pos id : Nat) : CqEntry :=
  let word := fieldW 32 bs 0
  let x := fieldW 64 bs 16
  let y := fieldW 64 bs 24
  let (needs, bar, val) := match decodeScalar word with
    | .ok i => (scalarNeeds i, isLoadBarrier i, (scalarResult i x y).getD x)
    | .error _ => (⟨[], none, none, false, false⟩, false, x)
  let counts := needs.held && (needs.ctr.isSome || needs.dest.isSome || bar)
  let plain := !needs.held && needs.dest.isSome
  ⟨pos, word, Config.restoredPc id, fieldN bs 8 8, x, y, if counts then id else 0, fieldN bs 4 4 % 2 == 1, false, false,
    if plain then some val else none⟩

/-- The outstanding operation of a saved entry, and the register that waits for its reply. -/
def CqEntry.outst (e : CqEntry) : List Outst :=
  match decodeScalar e.word with
  | .ok i => match (scalarNeeds i).held, (scalarNeeds i).ctr with
    | true, some c => [⟨e.id, c, false, false, false, e.pc, false⟩]
    | _, _ => []
  | .error _ => []
def CqEntry.pends (e : CqEntry) : List PendS :=
  match decodeScalar e.word with
  | .ok i => match (scalarNeeds i).held, (scalarNeeds i).dest with
    | true, some d => if d = 0 then [] else [⟨d, e.id, .reply, e.pc, 0⟩]
    | _, _ => []
  | .error _ => []

/-- Whether an entry is a load barrier. -/
def CqEntry.isBarrier (e : CqEntry) : Bool :=
  match decodeScalar e.word with
  | .ok i => isLoadBarrier i
  | .error _ => false

/-- Batch states by code (R279). -/
def batchOf (bst bflt n live : Nat) : Batch :=
  let st : BatchSt := match bst / 4 ^ n % 4 with | 0 => .idle | 1 => .opened | 2 => .sealed | _ => .complete
  let f := bflt / 2 ^ n % 2 == 1
  ⟨st, f, if f then max 1 ((Config.lostWord n).toNat % 256) else 0, live, 0⟩

/-- Whether a group record is well formed (R400), its ninth lane-queue entry aside (log 22); an ended group's is. -/
def groupOk (bs : List Byte) (gid : Nat) : Bool :=
  let st := fieldN bs 8 8
  if st / 16 % 2 = 1 then fieldN bs 0 8 == 256 && st % 16 == gid && decide (st < 32) else
  let a := fieldN bs 638 2
  let lqn := fieldN bs 628 1
  let cks := (List.range 9).all fun k =>
    let b := bs.drop (12288 + 512 * k)
    zeroAt b 494 18 && (decide (k ≤ lqn) || zeroAt b 0 512)
  decide (32 ≤ a ∧ a ≤ 768 ∧ a % 32 = 0) && fieldN bs 0 8 == 17408 + 384 * a && st % 16 == gid && decide (st < 8192 ∧ st / 32 % 4 < 3) &&
  decide (lqn ≤ 9 ∧ fieldN bs 629 1 ≤ 32 ∧ fieldN bs 630 1 < 16) && zeroAt bs 631 1 && zeroAt bs 722 14 && zeroAt bs 748 3 &&
  decide (fieldN bs 751 1 % 128 = 0) && zeroAt bs 752 16 && zeroAt bs (if lqn = 9 then 8136 else 8000) (if lqn = 9 then 56 else 192) &&
  zeroAt bs 10816 1472 && zeroAt bs 16896 512 &&
  cks && (List.range 64).all (fun i => zeroAt bs (8197 + 32 * i) 3 && decide (fieldN bs (8196 + 32 * i) 1 < 2)) &&
  ((List.range (fieldN bs 629 1)).all fun i =>
    let b := bs.drop (768 + 192 * i)
    (rsOf b).isSome && zeroAt b 36 4 && zeroAt b 176 16)

/-- A restored group: its record, the key of its team, its context, the fresh identifiers from `id` on for the entries of its commit
queue, the window of its regroup (which the record does not hold: it is that of the REGRP before its REGROUP entry's RESUME), whether it stands at a
BARAW that has arrived, and the commands of it in the engine section. A host's own window of before the regroup is lost. (DESIGN CHOICE, log 13.) -/
def groupOf (bs : List Byte) (team ctx id : Nat) (win : Nat × Nat) (arrived : Bool) (copies : List CopyCmd) (xfers : List Xfer) : Group :=
  let st := fieldN bs 8 8
  let a := fieldN bs 638 2
  let cqn := ((List.range 64).filter fun i => fieldN bs (8192 + 32 * i) 4 ≠ 0).length
  let cq := (List.range cqn).map fun i => cqOf (bs.drop (8192 + 32 * i)) i (id + i)
  let xs := xfers.filterMap fun x => if x.reply = 0 then none else some (⟨x.reply, x.id, .reply, Config.restoredPc x.id, 0⟩ : PendS)
  let ckAt := fun k : Nat =>
    let b := bs.drop (12288 + 512 * k)
    ckptOf b (xs ++ (cq.take (fieldN b 492 2)).flatMap CqEntry.pends)
  let lqn := fieldN bs 628 1
  let lq := (List.range lqn).map fun i =>
    let b := bs.drop (6912 + 136 * i)
    let c := ckAt (if lqn = 9 then i else i + 1)
    (⟨fieldW 64 b 0, Vector.ofFn fun (j : Fin 16) => fieldW 64 b (8 + 8 * j.val), c.pos, c⟩ : LqEntry)
  let part := st / 256 % 2 = 1
  let join := st / 512 % 2 == 1
  let allotSt : AllotSt := match st / 32 % 4 with | 0 => .prologue | 1 => .waiting | _ => .full
  let map := (List.range 96).map fun l => fieldW 16 bs (10624 + 2 * l)
  let s := Vector.ofFn fun (i : Fin 64) => if i.val = 0 ∨ 60 < i.val then (0 : W64) else fieldW 64 bs (32 + 8 * i.val)
  let ck := ckAt 0
  let rs := (List.range (fieldN bs 629 1)).filterMap fun i => rsOf (bs.drop (768 + 192 * i))
  let v : SMap 32 := ssetL [] 0 ((List.range (96 * a)).map fun i => fieldW 32 bs (17408 + 4 * i))
  let part' : Regroup :=
    { host := !join, parked := join, base := win.1, count := win.2
      keptK := Vector.ofFn fun (i : Fin 16) => BitVec.ofNat 96 (fieldN bs (10432 + 12 * i.val) 12)
      kept := if join then windowOf v win.1 win.2 else putWindow [] win.1 win.2 fun reg l => Config.lostWord (reg * 96 + l)
      map := map }
  { team := team, ctx := ctx, gid := BitVec.ofNat 4 st, age := 0, spc := fieldW 64 bs 16, lpc := fieldW 64 bs 24, s := s
    exec := BitVec.ofNat 96 (fieldN bs (32 + 8 * 61) 4 + fieldN bs (32 + 8 * 62) 4 * 4294967296 + fieldN bs (32 + 8 * 63) 4 * 18446744073709551616)
    v := v
    k := Vector.ofFn fun (i : Fin 16) => BitVec.ofNat 96 (fieldN bs (10240 + 12 * i.val) 12)
    flags := fieldW 8 bs 544, ftrapen := fieldW 8 bs 552, fmode := BitVec.ofNat 4 (fieldN bs 560 1), lease := BitVec.ofNat 17 (fieldN bs 568 3)
    allot := a, allotSt := allotSt
    trapcause := fieldW 64 bs 584, trapva := fieldW 64 bs 592, trapinfo := fieldW 64 bs 600, trapspc := fieldW 64 bs 608
    traplpc := fieldW 64 bs 616, trctl := fieldW 64 bs 576
    outs := copies.map (fun c => ⟨c.id, .cpc, false, true, false, Config.restoredPc c.id, false⟩) ++
      xfers.map (fun x => ⟨x.id, .tlc, false, true, false, Config.restoredPc x.id, false⟩) ++ cq.flatMap CqEntry.outst
    pendS := xs ++ cq.flatMap CqEntry.pends, pendV := [], lres := [], pos := cqn, cq := cq, lq := lq, blk := none, ck := ck, rs := rs
    batches := Vector.ofFn fun (i : Fin 16) => batchOf (fieldN bs 632 4) (fieldN bs 636 2) i.val ((copies.filter (·.batch == i.val)).length)
    openB := fieldN bs 630 1, xtgtA := fieldW 64 bs 640, xtgtS := fieldW 64 bs 648, xtgtV := st / 128 % 2 == 1
    arr := (List.range 16).filterMap fun n => if fieldN bs 720 2 / 2 ^ n % 2 = 1 then some (n, fieldW 32 bs (656 + 4 * n)) else none
    gwctMax := 0
    parked := if st / 32 % 4 = 1 then some Park.grant else if join then some .regroup else none
    drain := false, drained := false, barrierIds := (cq.filter (·.isBarrier)).map (·.id), fwdArr := [], acqT := 0, holdUntil := 0, waitS := 0, waitL := 0
    rg := if part then some part' else none
    rgArr := none, watch := none, barTarget := none, baraw := arrived, trap := none, stop := .runs, preReq := false
    lastDrain := 0, lsent := BitVec.ofNat 96 (fieldN bs 736 12), lsentV := fieldN bs 751 1 == 128, found := none, fenOps := [], rel := none
    relCnt := (0, 0), fset := (0, 0), hid := [], hidSp := [], seen := [] }

/-! ## Restored engine entries -/

/-- An operation goes back to the start of its current block group or line: what it had fetched and computed of the group is gone, its
pins are released, a fault of a fetch is met again, and it asks for leave again (R270). -/
def EngOp.rewind (e : EngOp) : EngOp :=
  { e with
    leave := .none, began := none, table := if e.kind == .mma && e.lut then 8 else 0
    steps := if e.kind == .mma then 2 * 32 * e.doneG / max 1 e.rate else 0
    fetG := e.doneG, fetched := [], bufA := [], bufB := [], finish := none, fault := none }

/-- A restored engine operation; a word that is no engine instruction gives none. The image has no place for the flags of what an operation had
done before the stop, nor for those that wait for a phase: they start at none. (DESIGN CHOICE, log 71.) -/
def engOf (bs : List Byte) (team id now : Nat) : Option EngOp :=
  let word := fieldW 64 bs 8
  let done := fieldN bs 56 4
  let mk := fun (kind : EngKind) (tile : BitVec 3) (n : BitVec 4) =>
    some (({ id := id, kind := kind, team := team, tile := tile.toNat, n := n, word := word
             regs := (List.range 5).map fun i => fieldW 64 bs (16 + 8 * i)
             fa := (bs.drop 64).take 64, fb := (bs.drop 128).take 64, t0 := now, leave := .none, began := none, table := 0, steps := 0
             doneG := if kind == .mma then done else 0, doneL := if kind == .mma then 0 else done, fetG := 0, fetching := false
             fetched := [], bufA := [], bufB := [], upd := [], flags := 0, writes := 0, gmax := 0, fault := none, cancelled := false
             finish := none, reports := [], commitT := none } : EngOp).rewind)
  match decodeTeam word with
  | .ok (.mma t _ _ _ n) => mk .mma t n
  | .ok (.mzero t) => mk .mzero t 0
  | .ok (.mdrain t _ n _) => mk .mdrain t n
  | .ok (.mdraina t _ n _) => mk .mdraina t n
  | .ok (.mload t _ n) => mk .mload t n
  | _ => none

/-- A restored copy: it goes on as if by CPYRES (R280). `g`: the GID until the team is placed. -/
def copyOf (bs : List Byte) (team id : Nat) : Option CopyCmd :=
  let desc := (bs.drop 8).take 64
  let d := descOf desc
  let mk := fun (f : CopyForm) =>
    let rows := d.dstRows f
    some (⟨id, fieldN bs 1 1, team, f, desc, fieldN bs 76 4, fieldN bs 72 1 % 16, 0, d.pieces rows.2 rows.1 0, false, true, [], false, 0, id⟩ : CopyCmd)
  match fieldN desc 42 1 with
  | 1 => mk .c1d
  | 2 => mk .c2d
  | 3 => mk .ct
  | _ => none

/-- A restored bulk transfer. -/
def xferOf (bs : List Byte) (id : Nat) : Xfer :=
  ⟨id, fieldN bs 1 1, fieldW 64 bs 8, fieldW 64 bs 16, fieldN bs 24 4, fieldN bs 28 4, fieldW 64 bs 32, (scopeOf (fieldW 8 bs 40 |>.setWidth 3)).getD .grp,
    BitVec.ofNat 6 (fieldN bs 41 1), 0, 0, 0, false, false⟩

/-- The 256-byte entries of an engine section, by kind. -/
def engEntries (es : List Byte) : List (List Byte) × List (List Byte) × List (List Byte) :=
  let n := fieldN es 0 1
  let c := fieldN es 2 2
  let at_ := fun i => (es.drop (256 + 256 * i)).take 256
  ((List.range n).map at_, (List.range c).map fun i => at_ (n + i), (List.range (fieldN es 4 2)).map fun i => at_ (n + c + i))

/-- Whether a team record is well formed: sizes, offsets and reserved fields (R400). -/
def teamOk (bs : List Byte) : Bool :=
  let size := fieldN bs 0 8
  let groups := fieldN bs 32 2
  let accs := fieldN bs 34 1
  let sp := fieldN bs 36 4
  let spOff := fieldN bs 40 8
  let accOff := fieldN bs 48 8
  let engOff := fieldN bs 56 8
  let es := bs.drop engOff
  let gs := (List.range groups).foldl (fun (st : Nat × Bool) i =>
    let b := bs.drop st.1
    (st.1 + fieldN b 0 8, st.2 && groupOk b i)) (512, true)
  decide (size = bs.length ∧ size % 256 = 0 ∧ 1 ≤ groups ∧ groups ≤ 16 ∧ accs ≤ 8 ∧ fieldN bs 35 1 < 16) &&
  decide (sp % 256 = 0 ∧ 256 ≤ sp ∧ sp ≤ 786432) && gs.2 &&
  decide (gs.1 ≤ spOff ∧ spOff % 256 = 0 ∧ spOff + sp ≤ accOff ∧ accOff % 256 = 0 ∧ accOff + 65536 * accs ≤ engOff ∧ engOff % 256 = 0) &&
  decide (engOff + 256 * (1 + fieldN es 0 1 + fieldN es 2 2 + fieldN es 4 2) ≤ size) && zeroAt es 1 1 && zeroAt es 6 250 &&
  zeroAt bs 130 6 && zeroAt bs 160 96 &&
  (engEntries es).1.all (fun b => fieldN b 0 1 == 1 && zeroAt b 1 7 && zeroAt b 60 4 && zeroAt b 192 64 && (engOf b 0 0 0).isSome) &&
  (engEntries es).2.1.all (fun b => fieldN b 0 1 == 2 && zeroAt b 2 6 && zeroAt b 73 3 && zeroAt b 80 176 && (copyOf b 0 0).isSome) &&
  (engEntries es).2.2.all (fun b => fieldN b 0 1 == 3 && zeroAt b 2 6 && zeroAt b 42 214)

/-- What the kernel descriptor still gives a restored team (R114): its declared full allotment and barriers. -/
structure KDecl where
  fullAllot : Nat
  nbar : Nat

/-- A restored team with its groups and engine commands, not placed yet: groups stand by GID. `win` gives the window of a group's
regroup, `atBaraw` whether it stands at a BARAW that has arrived, `id` is the first of 4,096 fresh identifiers. -/
def restoredTeam (bs : List Byte) (ctx id now : Nat) (k : KDecl) (win : List Byte → Nat × Nat) (atBaraw : List Byte → Bool) :
    Placement :=
  let groups := fieldN bs 32 2
  let accs := fieldN bs 34 1
  let sp := fieldN bs 36 4
  let es := engEntries (bs.drop (fieldN bs 56 8))
  let offs := (List.range groups).foldl (fun (l : List Nat × Nat) _ => (l.1 ++ [l.2], l.2 + fieldN (bs.drop l.2) 0 8)) ([], 512)
  let copies := (es.2.1.mapIdx fun i b => copyOf b 0 (id + 1024 + i)).filterMap fun x => x
  let xfers := es.2.2.mapIdx fun i b => xferOf b (id + 2048 + i)
  let dead := fun i => fieldN (bs.drop (offs.1.getD i 0)) 8 8 / 16 % 2 == 1
  let grps := ((List.range groups).filter fun i => !dead i).map fun i =>
    let b := bs.drop (offs.1.getD i 0)
    (i, groupOf b 0 ctx (id + 64 * i) (win b) (atBaraw b) (copies.filter (·.g == i)) (xfers.filter (·.g == i)))
  let st := fieldN bs 35 1
  let acc := fieldN bs 48 8
  let t : Team :=
    { core := 0, sq := 0, ctx := ctx, tid := fieldW 64 bs 8, clpos := fieldW 64 bs 16, groups := groups, fullAllot := k.fullAllot
      accs := accs, nbar := k.nbar, spBase := 0, spSize := sp, tiles := [], home := 0, handler := none
      members := (List.range groups).map fun i => if dead i then 1048576 else i, ended := (List.range groups).filter dead
      sp := ssetL [] 0 ((bs.drop (fieldN bs 40 8)).take sp)
      acc := ssetL [] 0 ((List.range (16384 * accs)).map fun i => fieldW 32 bs (acc + 4 * i))
      tpc := fieldW 64 bs 24, w := Vector.ofFn fun (i : Fin 32) => if i.val = 0 then 0 else fieldW 64 bs (256 + 8 * i.val), pendW := []
      seqSt := if st / 4 % 2 = 1 then .idle else if st / 2 % 2 = 1 then .exited else .runs
      arr := (List.range 16).filterMap fun n => if fieldN bs 128 2 / 2 ^ n % 2 = 1 then some (n, fieldW 32 bs (64 + 4 * n)) else none
      tcause := 0, tva := 0, tinfo := 0, barTarget := none, flagWait := [], lastAcq := 0, regMove := none, joinMove := false
      remote := [], fwdArr := false, poison := [], lastIssue := 0 }
  ⟨ctx, 0, 0, 0, t, grps, (es.1.mapIdx fun i b => engOf b 0 (id + 3072 + i) now).filterMap fun x => x, copies, xfers⟩

end Sys2Proof.Machine
end

