-- ==== Sys2Proof/Machine/Alder.lean ====
section
/-! DEFINITION. Alder: command queues and completions (spec/14 R405 to R407), RESUME and images (spec/12 R353 to R358, spec/13 R400),
placement (R359 to R368), the start and the end of contexts (R355, R365, R375), trap tables (R381), TLB invalidation (spec/16 R462). -/
namespace Sys2Proof.Machine

/-! ## Alder's own reads (R356) -/

/-- Whether a physical address is memory that Alder reads: module memory or host memory, without poison. -/
def State.alderMay (s : State) (pa : Nat) : Bool :=
  (match paClass pa with
   | 0 => s.backed (paLow pa)
   | 1 => true
   | _ => false) && (s.poisonIn pa 1).isNone

/-- n bytes at a physical address, each at its home; `none` where one cannot be read. -/
def State.alderRead (s : State) (pa n : Nat) : Option (List Byte) :=
  if (List.range n).all fun i => s.alderMay (pa + i) then some (s.homeBytes pa n) else none

/-- n bytes at a virtual address under a root: Alder walks the tables itself, without any TLB (R356). -/
def State.alderVread (s : State) (root : Nat) (priv : Bool) (va : W64) : Nat → Option (List Byte)
  | 0 => some []
  | n + 1 =>
    if !canonical va then none else
    match s.walk root va priv with
    | .bad _ => none
    | .leaf e size =>
      if !leafRD e || isFen e then none else
      match s.alderRead (leafPA e + vaLow va % size) 1, s.alderVread root priv (va + 1) n with
      | some b, some r => some (b ++ r)
      | _, _ => none

/-! ## Completions (R406, R407) -/

/-- The 32 bytes of a completion entry. -/
def Completion.bytes (c : Completion) (now : Nat) : List Byte :=
  wBytes 8 c.cookie ++ natBytes 2 c.ctxid ++ natBytes 2 c.opc ++ natBytes 4 c.status ++ natBytes 8 now ++ zeros 8

def State.queue (s : State) (q : Nat) : HQueue := s.queues.getD q HQueue.reset
def State.modQueue (s : State) (q : Nat) (f : HQueue → HQueue) : State := { s with queues := s.queues.setIfInBounds q (f (s.queue q)) }

/-- SIZE of a queue, and whether it is in range (R405). -/
def HQueue.size (q : HQueue) : Nat := (q.qctl.extractLsb' 0 5).toNat
def HQueue.sized (q : HQueue) : Bool := decide (4 ≤ q.size ∧ q.size ≤ 16)
/-- Whether the completion ring has room (R406). -/
def HQueue.room (q : HQueue) : Bool := q.sized && decide ((q.cqtail - q.cqhead).toNat < 2 ^ q.size)

/-- Writes a queue's waiting completions for which there is room, in order; a command has completed when its entry is written. -/
def flushCompletions (q : Nat) : List Completion → State → State
  | [], s => s.modQueue q fun x => { x with waiting := [] }
  | c :: r, s =>
    let x := s.queue q
    if x.room then
      let at_ := (x.cqbase.extractLsb' 12 40).toNat * 4096 + 32 * (x.cqtail.toNat % 2 ^ x.size)
      let s1 := (s.postHost at_ (c.bytes s.ptime)).modQueue q fun y => { y with cqtail := y.cqtail + 1 }
      let s2 := if x.qctl.getLsbD 9 then s1.send (.msix q) else s1
      flushCompletions q r { s2 with alder := { s2.alder with cmds := s2.alder.cmds.filter (·.id != c.id) } }
    else s.modQueue q fun y => { y with waiting := c :: r }

/-- The fences (R407) that no earlier command holds. -/
def State.openFences (s : State) : List Cmd :=
  s.alder.cmds.filter fun c => c.opc == 5 && !(s.alder.cmds.any fun d => decide (d.id < c.id)) &&
    !(s.queue c.queue).waiting.any (·.id == c.id)

/-- A completion joins its queue's entries. -/
def State.putCompletion (s : State) (c : Cmd) (status : Nat) : State :=
  flushCompletions c.queue ((s.queue c.queue).waiting ++ [⟨c.id, c.queue, c.cookie, c.ctxid, c.opc, status⟩]) s

/-- Completes the fences that have become free, at most n of them. -/
def State.sweepFences (s : State) : Nat → State
  | 0 => s
  | n + 1 => match s.openFences with
    | [] => s
    | c :: _ => (s.putCompletion c 0).sweepFences n

/-- A command completes with a status. -/
def State.complete (s : State) (id status : Nat) : State :=
  match s.alder.cmds.find? (·.id == id) with
  | none => s
  | some c => let s1 := s.putCompletion c status; s1.sweepFences s1.alder.cmds.length

/-- Registers a command that is taken: its identity, the fields every command has (R407). -/
def State.takeCmd (s : State) (q : Nat) (e : List Byte) : Nat × State :=
  let (id, s1) := s.fresh
  let c : Cmd := ⟨id, q, fieldN e 0 2, fieldN e 4 2, fieldW 64 e 24, []⟩
  (id, { s1 with alder := { s1.alder with cmds := s1.alder.cmds ++ [c] } })

/-- CFLAGS of a command: only AFTER (R353, R407). -/
def cflagsOk (e : List Byte) : Bool := decide (fieldN e 2 2 < 2)

/-! ## The commands -/

/-- The command that an entry is (R407). -/
def commandOf (q : Nat) (e : List Byte) : Option Instr :=
  let w : BitVec 512 := fieldW 512 e 0
  match fieldN e 0 2 with
  | 1 => some (.resume q w)
  | 2 => some (.trapset q w)
  | 3 => some (.preempt q w)
  | 4 => some (.tlbinv q w)
  | 5 => some (.qfence q w)
  | _ => none

/-- QUEUE_VISIT (R406): Alder looks at one queue, takes at most one entry, and goes on to the next in ascending index. A RESUME waits while 16
contexts are active (R354) and while the move to full service stands out (R460). (DEDUCED, log 46.) -/
def execQueueVisit (s : State) : Out :=
  let q := s.a0
  .next (if 16 ≤ q then s else
    let s0 := (flushCompletions q (s.queue q).waiting s).sweepFences 16
    let next := fun s : State => s.sched 0 .queueVisit [q + 1]
    let x := s0.queue q
    let ahead := (x.qtail - x.qhead).toNat
    if !(x.qctl.getLsbD 8 && x.room && decide (4 ≤ s0.phase.toNat)) || ahead == 0 then next s0 else
    let at_ := (x.qbase.extractLsb' 12 40).toNat * 4096 + 64 * (x.qhead.toNat % 2 ^ x.size)
    let e := s0.homeBytes (1125899906842624 + at_) 64
    let after := fieldN e 2 2 % 2 = 1
    if after ∧ s0.alder.cmds.any (·.queue == q) then next s0
    else if fieldN e 0 2 = 1 ∧ (16 ≤ s0.alder.ctxs.length ∨ (s0.phase = 5 ∨ (s0.phase = 6 ∧ !s0.full))) then next s0
    else
      let tail := if 2 ^ x.size < ahead then x.qhead + BitVec.ofNat 32 (2 ^ x.size) else x.qtail
      let s1 := s0.modQueue q fun y => { y with qtail := tail, qhead := y.qhead + 1 }
      match commandOf q e with
      | some i => next (s1.sched 0 i)
      | none => let (id, s2) := s1.takeCmd q e; next (s2.complete id 1))

/-- The kernel descriptor that R113 and R114 admit (R357). Of the pointers without a referent FENTAB is not looked at where FENCOUNT is 0, and TENTRY
must be 0 where KFLAGS bit 0 is clear. (DESIGN CHOICE, log 46.) -/
def kdescOk (d : List Byte) : Bool :=
  let groups := fieldN d 24 2
  let cw := fieldN d 26 1
  let ch := fieldN d 27 1
  let full := fieldN d 28 2
  let sp := fieldN d 32 4
  fieldN d 0 4 == 0x4B440001 && decide (fieldN d 4 4 < 2) && (fieldN d 4 4 == 1 || fieldN d 16 8 == 0) &&
  decide (1 ≤ groups ∧ groups ≤ 16 ∧ 1 ≤ cw ∧ cw ≤ 8 ∧ 1 ≤ ch ∧ ch ≤ 10 ∧ cw * ch ≤ 12) &&
  decide (32 ≤ full ∧ full ≤ 768 ∧ full % 32 = 0 ∧ fieldN d 30 1 ≤ 8 ∧ fieldN d 31 1 ≤ 16) &&
  decide (256 ≤ sp ∧ sp ≤ 786432 ∧ sp % 256 = 0) && zeroAt d 48 16

/-- Fields of the descriptor kept with a context (after the 8 bytes of its address). -/
def Ctx.kd (c : Ctx) (i n : Nat) : Nat := fieldN c.kdesc (8 + i) n
def Ctx.cw (c : Ctx) : Nat := c.kd 26 1
def Ctx.ch (c : Ctx) : Nat := c.kd 27 1
/-- Clusters of the grid. -/
def Ctx.clusters (c : Ctx) : Nat := c.gx / max 1 c.cw * (c.gy / max 1 c.ch) * c.gz

/-- Checks the Fen region records of a descriptor, n of them (R357): `none`: all created; otherwise the status. -/
def State.fenTabBad (s : State) (root : Nat) (priv : Bool) (va : W64) : Nat → Option Nat
  | 0 => none
  | n + 1 =>
    match s.alderVread root priv va 32 with
    | none => some 4
    | some r => if s.alder.regions.any fun p => p.2.fbase == fieldW 64 r 0 then s.fenTabBad root priv (va + 32) n else some 1

/-- What the first 64 bytes of an image and its descriptor give: a context that may start, or the status of the refusal (R354 to R358,
R400). (DEDUCED, log 46.) -/
def State.imageOf (s : State) (q : Nat) (e h : List Byte) (id : Nat) : Except Nat Ctx :=
  let fl := fieldN h 4 4
  let seed := fl % 2 = 1
  let priv := fl / 16 % 2 == 1
  let gx := fieldN h 24 4
  let gy := fieldN h 28 4
  let gz := fieldN h 32 4
  let okDim := fun x : Nat => decide (1 ≤ x ∧ x ≤ 2097152)
  if fieldN h 0 4 ≠ 0x53450001 ∨ 32 ≤ fl ∨ (seed ∧ fl / 2 % 8 ≠ 0) then .error 1
  else if !(zeroAt h 38 2 && (if seed then zeroAt h 52 12 else zeroAt h 60 4)) then .error 1
  else if !(okDim gx && okDim gy && okDim gz) || decide (4294967296 < gx * gy * gz) then .error 1
  else if fieldN h 40 8 % 4096 ≠ 0 then .error 1
  else if priv && !(s.queue q).qctl.getLsbD 10 then .error 1
  else
    let root := fieldN h 40 8
    let kva := fieldW 64 h 8
    if kva.toNat % 64 ≠ 0 then .error 1 else
    match s.alderVread root priv kva 64 with
    | none => .error 4
    | some d =>
      if !kdescOk d then .error 1
      else if gx % fieldN d 26 1 ≠ 0 ∨ gy % fieldN d 27 1 ≠ 0 then .error 1
      else match s.fenTabBad root priv (fieldW 64 d 40) (fieldN d 36 4) with
      | some st => .error st
      | none =>
        .ok { id := id, ctxid := fieldN e 4 2, queue := q, cookie := fieldW 64 e 24, image := fieldN e 8 8, save := fieldN e 16 8
              asn := fieldN h 36 2, root := root, priv := priv, tslice := fieldN h 48 4, placedAt := 0, kdesc := (h.drop 8).take 8 ++ d
              args := fieldW 64 h 16, gx := gx, gy := gy, gz := gz, nextCl := if seed then 0 else fieldN h 56 4, restore := []
              live := [], pre := none, halted := false, gmax := 0, freed := false }

/-- The window of the REGRP whose REGROUP entry a group record holds: the REGRP stands 12 bytes before the entry's RESUME. (DESIGN CHOICE, log 13.) -/
def State.regrpWindow (s : State) (root : Nat) (priv : Bool) (b : List Byte) : Nat × Nat :=
  match ((List.range (fieldN b 629 1)).filterMap fun i => rsOf (b.drop (768 + 192 * i))).find? (·.kind == .regroup) with
  | none => (0, 0)
  | some e =>
    match s.alderVread root priv (e.resume - 12) 12 with
    | none => (0, 0)
    | some ws => match decodeLane [fieldW 32 ws 0, fieldW 32 ws 4, fieldW 32 ws 8] with
      | .ok (.regrp _ base count) => (base.toNat, count.toNat)
      | _ => (0, 0)

/-- Whether a saved group stands at a BARAW whose arrival has been made or waits in its commit queue: the record of the barrier that the instruction at
its SPC names is valid. (DESIGN CHOICE, log 13.) -/
def State.atBaraw (s : State) (root : Nat) (priv : Bool) (b : List Byte) : Bool :=
  let isBaraw := fun (w : W32) => match decodeScalar w with
    | .ok (.baraw n _) => some n.toNat
    | _ => none
  (List.range 64).any (fun i => (isBaraw (fieldW 32 b (8192 + 32 * i))).isSome) ||
    match s.alderVread root priv (fieldW 64 b 16) 4 with
    | none => false
    | some w => match isBaraw (fieldW 32 w 0) with
      | some n => fieldN b 720 2 / 2 ^ n % 2 == 1
      | none => false

/-- Reads the n team records of a checkpoint image, the next at `pa` (R396, R400): the teams, or the status of the refusal. -/
def State.teamRecords (s : State) (c : Ctx) (id : Nat) (pa : Nat) : Nat → Except Nat (List Placement)
  | 0 => .ok []
  | n + 1 =>
    match s.alderRead pa 8 with
    | none => .error 4
    | some b8 =>
      let size := fieldN b8 0 8
      if size < 1024 ∨ 268435456 < size then .error 1 else
      match s.alderRead pa size with
      | none => .error 4
      | some bs =>
        if !teamOk bs then .error 1 else
        let p := restoredTeam bs c.id (id + 4096 * n) s.ptime ⟨c.kd 28 2, c.kd 31 1⟩ (s.regrpWindow c.root c.priv) (s.atBaraw c.root c.priv)
        match s.teamRecords c id (pa + size) n with
        | .ok l => .ok (p :: l)
        | .error st => .error st

/-- Puts a context among the active ones; the next pass sees it. -/
def State.activate (s : State) (c : Ctx) : State := { s with alder := { s.alder with ctxs := s.alder.ctxs ++ [c] } }

/-- RESUME (R353 to R358, R400): the command and its image are checked, and the context becomes active. (DEDUCED, log 46.) -/
def execResume (q : Nat) (cmd : BitVec 512) (s : State) : Out :=
  let e := wBytes 64 cmd
  let (id, s1) := s.takeCmd q e
  .next (
    let bad := !cflagsOk e || fieldN e 4 2 == 0 || s1.alder.ctxs.any (·.ctxid == fieldN e 4 2) || !zeroAt e 6 2 || !zeroAt e 32 32 ||
      decide (fieldN e 8 8 % 256 ≠ 0) || decide (fieldN e 16 8 % 256 ≠ 0)
    if bad then s1.complete id 1 else
    match s1.alderRead (fieldN e 8 8) 64 with
    | none => s1.complete id 4
    | some h =>
      match s1.imageOf q e h id with
      | .error st => s1.complete id st
      | .ok c =>
        if fieldN h 4 4 % 2 = 1 then s1.activate c else
        match s1.alderRead (fieldN e 8 8 + 64) 192 with
        | none => s1.complete id 4
        | some h2 =>
          if !zeroAt h2 12 180 then s1.complete id 1 else
          match s1.teamRecords c s1.nextId (fieldN e 8 8 + 256) (fieldN h 52 4) with
          | .error st => s1.complete id st
          | .ok l => { s1 with nextId := s1.nextId + 4096 * l.length }.activate { c with restore := l })

/-- TRAPSET (R381, R407). -/
def execTrapset (q : Nat) (cmd : BitVec 512) (s : State) : Out :=
  let e := wBytes 64 cmd
  let (id, s1) := s.takeCmd q e
  .next (
    let pa := fieldN e 8 8
    if !cflagsOk e || fieldN e 4 2 != 0 || !zeroAt e 6 2 || !zeroAt e 16 8 || !zeroAt e 32 32 || decide (pa % 64 ≠ 0) then s1.complete id 1 else
    match s1.alderRead pa 64 with
    | none => s1.complete id 1
    | some t =>
      let mask := fieldW 32 t 16
      if fieldN t 0 4 ≠ 0x54540001 ∨ !(zeroAt t 6 2 && zeroAt t 20 44) ∨ fieldN t 8 8 % 4 ≠ 0 ∨ mask &&& 0xFFFC9000 ≠ 0 then s1.complete id 1
      else
        let r : TrapTable := ⟨fieldN t 4 2, fieldW 64 t 8, mask⟩
        { s1 with alder := { s1.alder with tables := (s1.alder.tables.filter fun (x : TrapTable) => x.asn != r.asn) ++ [r] } }.complete id 0)

/-- PREEMPT (R407, R391). -/
def execPreempt (q : Nat) (cmd : BitVec 512) (s : State) : Out :=
  let e := wBytes 64 cmd
  let (id, s1) := s.takeCmd q e
  .next (
    match s1.alder.ctxs.find? (·.ctxid == fieldN e 4 2) with
    | none => s1.complete id 1
    | some c =>
      if !cflagsOk e || !zeroAt e 6 18 || !zeroAt e 32 32 then s1.complete id 1
      else (s1.preemptCtx c.id 3 0 0 0).complete id 0)

/-- QFENCE (R407): it completes when every command taken before it has completed. -/
def execQfence (q : Nat) (cmd : BitVec 512) (s : State) : Out :=
  let e := wBytes 64 cmd
  let (id, s1) := s.takeCmd q e
  .next (if !cflagsOk e || !zeroAt e 4 20 || !zeroAt e 32 32 then s1.complete id 1 else s1.sweepFences s1.alder.cmds.length)

/-! ## TLB invalidation (R462) -/

/-- TLBINV: the TINV goes to all 32 Willows in one cycle. -/
def execTlbinv (q : Nat) (cmd : BitVec 512) (s : State) : Out :=
  let e := wBytes 64 cmd
  let (id, s1) := s.takeCmd q e
  .next (
    let kind := fieldN e 10 1
    let va := fieldN e 32 8
    let len := fieldN e 40 8
    let badRange := kind == 1 && (decide (va % 65536 ≠ 0) || decide (len % 65536 ≠ 0) || len == 0)
    if !cflagsOk e || fieldN e 4 2 != 0 || !zeroAt e 6 2 || decide (2 < kind) || !zeroAt e 11 13 || !zeroAt e 48 16 || badRange then
      s1.complete id 1
    else (List.range 32).foldl (fun s w => s.sched (willowDelay w) .willowTinv [w, id, fieldN e 8 2, kind, va, len]) s1)

/-- Whether an invalidation covers a page. -/
def tinvHits (asn kind va len pasn base size : Nat) : Bool :=
  let lo := va % 144115188075855872
  kind == 2 || (asn == pasn && (kind == 0 || decide (base < lo + len ∧ lo < base + size)))

/-- The cores of a Willow's grove (R6). -/
def groveCores (w : Nat) : List Nat := (List.range 320).filter fun c => willowOf c == w

/-- WILLOW_TINV (R462): the matching entries of the grove's L1 TLBs and of the die's last-level TLB are dropped; a walk in flight that
may have read an old entry is repeated (R352); the REPORT follows 4 cycles later. -/
def execWillowTinv (s : State) : Out :=
  let w := s.a0
  let hit := tinvHits s.a2 (s.args.getD 3 0) (s.args.getD 4 0) (s.args.getD 5 0)
  let keep := fun l : List TlbE => l.filter fun e => !hit e.asn e.base e.size
  .next (
    let cores := groveCores w
    let s1 := { s with
      cores := s.cores.map fun (p : Nat × Core) => if cores.contains p.1 then (p.1, { p.2 with tlb := keep p.2.tlb }) else p
      walks := s.walks.map fun (p : Nat × Walk) =>
        if dieOf p.2.core = w / 8 ∧ hit p.2.asn (vaLow p.2.va / 65536 * 65536) 65536 then (p.1, { p.2 with stale := true }) else p
      walkFaults := s.walkFaults.filter fun f => !(cores.contains f.core && hit f.asn (f.page * 65536) 65536) }
    (s1.modDie (w / 8) fun d => { d with tlb := keep d.tlb }).sched (4 + willowDelay w) (.willowReport w (.tinv s.a1)))

/-- A TINV report at Alder (R462): with all 32, and no walk left to repeat, the command completes. -/
def State.tinvReport (s : State) (w cmd : Nat) : State :=
  let add := fun c : Cmd => if c.id = cmd ∧ !c.reports.contains w then { c with reports := w :: c.reports } else c
  let s1 := { s with alder := { s.alder with cmds := s.alder.cmds.map add } }
  match s1.alder.cmds.find? (·.id == cmd) with
  | some c =>
    if c.reports.length < 32 then s1
    else if s1.walks.any (·.2.stale) then s1.sched 1 (.willowReport w (.tinv cmd))
    else s1.complete cmd 0
  | none => s1

/-! ## Placement (R359 to R368) -/

/-- The teams that hold resources of a core: resident ones and placed ones. -/
def State.teamsOn (s : State) (core : Nat) : List Team :=
  (s.teams.filterMap fun p => if p.2.core = core then some p.2 else none) ++
    s.alder.placements.filterMap fun p => if p.2.core = core then some p.2.team else none

/-- Resident group indexes taken on a core. -/
def State.groupsOn (s : State) (core : Nat) : List Nat :=
  (s.groups.filterMap fun p => if coreOfG p.1 = core then some (p.1 % 32) else none) ++
    s.alder.placements.flatMap fun p => if p.2.core = core then p.2.grps.map (·.1 % 32) else []

/-- The lowest-offset free scratchpad range of a size (R363). -/
def freeRange (ts : List Team) (size : Nat) : Option Nat :=
  let ends := sortBy (fun a b => decide (a ≤ b)) (0 :: ts.map fun t => t.spBase + t.spSize)
  ends.find? fun o => decide (o + size ≤ 786432) && ts.all fun t => decide (o + size ≤ t.spBase ∨ t.spBase + t.spSize ≤ o)

/-- The slot with the fewest resident groups that has a place, ties to the lowest, and its lowest free place (R363). -/
def freeIndex (occ : List Nat) : Option Nat :=
  let n := fun slot => (occ.filter fun i => i / 8 == slot).length
  let slot := [1, 2, 3].foldl (fun best x => if n x < n best then x else best) 0
  (List.range 8).findSome? fun k => if occ.contains (8 * slot + k) then none else some (8 * slot + k)

/-- Resident group indexes for n groups in ascending GID. -/
def freeIndexes : List Nat → Nat → Option (List Nat)
  | _, 0 => some []
  | occ, n + 1 => match freeIndex occ with
    | none => none
    | some i => (freeIndexes (i :: occ) n).map (i :: ·)

/-- Registers of a placement's groups. -/
def Placement.regs (p : Placement) : Nat := p.grps.foldl (fun a g => a + g.2.allot) 0

/-- Whether a core can take a team (R361, R368). -/
def State.canTake (s : State) (core : Nat) (p : Placement) : Bool :=
  let ts := s.teamsOn core
  let occ := s.groupsOn core
  decide (ts.length < 4 ∧ occ.length + p.team.groups ≤ 32) && (freeIndexes occ p.grps.length).isSome &&
  (freeRange ts p.team.spSize).isSome && decide (ts.foldl (fun a t => a + t.accs) 0 + p.team.accs ≤ 8) &&
  decide (p.regs + max (s.reserve core) (p.team.fullAllot - 32) ≤ s.freeRegs core)

/-- The lowest-numbered free tiles of a core, n of them. -/
def freeTiles (ts : List Team) (n : Nat) : List Nat := ((List.range 8).filter fun x => !ts.any fun t => t.tiles.contains x).take n

/-- The handler of an ASN's trap table at the time of placement (R381). -/
def State.tableOf (s : State) (asn : Nat) : Option (W64 × BitVec 32) := (s.alder.tables.find? (·.asn == asn)).map fun t => (t.hentry, t.hmask)

/-- A team of a cluster arranged inside a core (R363): sequencer, scratchpad, tiles, resident group indexes. -/
def State.arrange (s : State) (core asn : Nat) (p : Placement) : Placement :=
  let ts := s.teamsOn core
  let sq := ((List.range 4).find? fun q => !ts.any (·.sq == q)).getD 0
  let t := core * 4 + sq
  let idx := (freeIndexes (s.groupsOn core) p.grps.length).getD []
  let grps := p.grps.mapIdx fun i g => (core * 32 + idx.getD i 0, { g.2 with team := t })
  let keyOf := fun gid : Nat => ((grps.find? fun g => g.2.gid.toNat == gid).map (·.1)).getD 1048576
  { p with
    core := core, sq := sq, start := s.ccount + 512
    team := { p.team with
      core := core, sq := sq, spBase := (freeRange ts p.team.spSize).getD 0, tiles := freeTiles ts p.team.accs
      handler := s.tableOf asn, members := (List.range p.team.groups).map keyOf }
    grps := sortBy (fun a b => decide (a.1 ≤ b.1)) grps
    engs := p.engs.map fun e => { e with team := t }
    copies := p.copies.map fun c => { c with team := t, g := keyOf c.g }
    xfers := p.xfers.map fun x => { x with g := keyOf x.g } }

/-- CX and CY of a team (R54). -/
def Team.cpos (t : Team) : Nat × Nat := ((t.clpos.extractLsb' 0 4).toNat, (t.clpos.extractLsb' 4 4).toNat)

/-- The state of a fresh team (R61 to R63): v0 and v1, s1 to s4, w1 and w2. (DEDUCED, log 6.) -/
def Ctx.freshTeam (c : Ctx) (clid cx cy : Nat) : Placement :=
  let nx := c.gx / max 1 c.cw
  let ny := c.gy / max 1 c.ch
  let x := clid % nx * c.cw + cx
  let y := clid / nx % ny * c.ch + cy
  let z := clid / nx / ny
  let tid := w64 (x + y * 2097152 + z * 4398046511104)
  let clpos := w64 (cx + cy * 16 + c.cw * 256 + c.ch * 4096 + clid * 65536)
  let groups := c.kd 24 2
  let lin := x + c.gx * (y + c.gy * z)
  let regs := fun g : Nat => Vector.ofFn fun (i : Fin 64) =>
    if i.val = 1 then c.args else if i.val = 2 then tid else if i.val = 3 then w64 g else if i.val = 4 then clpos else (0 : W64)
  let lanes := fun g : Nat => ssetL (ssetL [] 0 ((List.range 96).map fun i => BitVec.ofNat 32 i)) 96
    ((List.range 96).map fun i => BitVec.ofNat 32 ((lin * groups + g) * 96 + i))
  let grp := fun g : Nat =>
    let s := regs g
    ({ team := 0, ctx := c.id, gid := BitVec.ofNat 4 g, age := 0, spc := w64 (c.kd 8 8), lpc := 0, s := s, exec := maskOf fun _ => true
       v := lanes g, k := Vector.replicate 16 0, flags := 0, ftrapen := 0, fmode := 0, lease := 512, allot := 32, allotSt := .prologue
       trapcause := 0, trapva := 0, trapinfo := 0, trapspc := 0, traplpc := 0, trctl := 0, outs := [], pendS := [], pendV := [], lres := []
       pos := 0, cq := [], lq := [], blk := none, ck := ⟨w64 (c.kd 8 8), s, 0, 0, 0, 0, [], 0⟩, rs := []
       batches := Vector.ofFn fun (i : Fin 16) => ⟨if i.val = 0 then .opened else .idle, false, 0, 0, 0⟩, openB := 0
       xtgtA := 0, xtgtS := 0, xtgtV := false, arr := [], gwctMax := 0, parked := none, drain := false, drained := false, barrierIds := []
       fwdArr := [], acqT := 0, holdUntil := 0, waitS := 0, waitL := 0, rg := none, rgArr := none, watch := none, barTarget := none
       baraw := false, trap := none, stop := .runs, preReq := false, lastDrain := 0, lsent := 0, lsentV := false, found := none, fenOps := []
       rel := none, relCnt := (0, 0), fset := (0, 0), hid := [], hidSp := [], seen := [] } : Group)
  let t : Team :=
    { core := 0, sq := 0, ctx := c.id, tid := tid, clpos := clpos, groups := groups, fullAllot := c.kd 28 2, accs := c.kd 30 1
      nbar := c.kd 31 1, spBase := 0, spSize := c.kd 32 4, tiles := [], home := 0, handler := none, members := [], ended := [], sp := [], acc := []
      tpc := w64 (c.kd 16 8)
      w := Vector.ofFn fun (i : Fin 32) => if i.val = 1 then c.args else if i.val = 2 then tid else (0 : W64)
      pendW := [], seqSt := if c.kd 4 4 = 0 then .idle else .runs, arr := [], tcause := 0, tva := 0, tinfo := 0, barTarget := none
      flagWait := [], lastAcq := 0, regMove := none, joinMove := false, remote := [], fwdArr := false, poison := [], lastIssue := 0 }
  ⟨c.id, 0, 0, 0, t, (List.range groups).map fun g => (g, grp g), [], [], []⟩

/-- The next cluster of a context (R360, R400): the saved teams first, by ascending CLID, then the grid's from NEXTCL on. -/
def Ctx.nextCluster (c : Ctx) : List Placement :=
  match c.restore with
  | [] =>
    if c.clusters ≤ c.nextCl then []
    else (List.range c.ch).flatMap fun cy => (List.range c.cw).map fun cx => c.freshTeam c.nextCl cx cy
  | p :: r =>
    let low := r.foldl (fun m q => min m q.team.clid) p.team.clid
    sortBy (fun a b => decide ((a.team.cpos.2, a.team.cpos.1) = (b.team.cpos.2, b.team.cpos.1) ∨ a.team.cpos.2 < b.team.cpos.2 ∨
      (a.team.cpos.2 = b.team.cpos.2 ∧ a.team.cpos.1 ≤ b.team.cpos.1))) (c.restore.filter fun q => q.team.clid == low)

/-- The context once its next cluster is placed. -/
def Ctx.passed (c : Ctx) (l : List Placement) : Ctx :=
  match c.restore, l with
  | [], _ => { c with nextCl := c.nextCl + 1 }
  | _, p :: _ => { c with restore := c.restore.filter fun q => q.team.clid != p.team.clid }
  | _, [] => c

/-- The core of a cluster's team when the cluster's origin is a core. A team record of an image is placed by its CX and CY whatever they are: R400
validates neither their bounds nor that no two teams name one place. (DESIGN CHOICE, log 13.) -/
def clusterCore (origin : Nat) (p : Placement) : Nat := origin + p.team.cpos.1 + 8 * p.team.cpos.2

/-- The origin for a cluster (R363, R364): of the rectangles inside a die whose cores can take its teams, the one with the fewest hot
cores, then the fewest resident groups, then the lowest origin; in reduced service only on die[0] (R460). -/
def State.chooseOrigin (s : State) (w h : Nat) (l : List Placement) : Option Nat :=
  let origins := (List.range (if s.full then 320 else 80)).filter fun o =>
    decide (o % 8 + w ≤ 8 ∧ o % 80 / 8 + h ≤ 10) && l.all fun p => s.canTake (clusterCore o p) p
  let cores := fun o => (List.range h).flatMap fun y => (List.range w).map fun x => o + x + 8 * y
  let cost := fun o => ((cores o).filter fun c => (s.core c).hot).length * 1048576 +
    (cores o).foldl (fun a c => a + (s.groupsOn c).length) 0
  match origins with
  | [] => none
  | o :: r => some (r.foldl (fun best x => if cost x < cost best then x else best) o)

/-- Places the teams of a cluster, one after the other: the messages to the Willows, the start 512 cycles after the pass. -/
def State.placeTeams (s : State) (origin : Nat) (c : Ctx) : List Placement → State
  | [] => s
  | p :: r =>
    let core := clusterCore origin p
    let q := s.arrange core c.asn p
    let (id, s1) := s.fresh
    let s2 := { s1 with alder := { s1.alder with placements := kset s1.alder.placements id q } }
    let s3 := s2.modCtx c.id fun x => { x with live := x.live ++ [core * 4 + q.sq], placedAt := s.ccount }
    ((s3.sched (willowDelay (willowOf core)) .willowPlace [id]).sched 512 .teamStart [id]).placeTeams origin c r

/-- The home team of the teams of a cluster just placed: that of the origin's core (R47, R364). -/
def State.setHome (s : State) (origin ctx clid : Nat) : State :=
  let mine := fun q : Placement => q.ctx == ctx && q.team.clid == clid
  let home := ((s.alder.placements.find? fun p => mine p.2 && p.2.core == origin).map fun p => origin * 4 + p.2.sq).getD (origin * 4)
  let upd := fun p : Nat × Placement => if mine p.2 then (p.1, { p.2 with team := { p.2.team with home := home } }) else p
  { s with alder := { s.alder with placements := s.alder.placements.map upd } }

/-- Places clusters of a context in dispatch order until one cannot be placed, at most n (R362). -/
def State.placeCtx (s : State) (ctx : Nat) : Nat → State
  | 0 => s
  | n + 1 =>
    match s.ctx? ctx with
    | none => s
    | some c =>
      if c.pre.isSome then s else
      match c.nextCluster with
      | [] => s
      | p :: r =>
        match s.chooseOrigin c.cw c.ch (p :: r) with
        | none => s
        | some o =>
          let s1 := (s.placeTeams o c (p :: r)).setHome o ctx p.team.clid
          (s1.modCtx ctx fun x => x.passed (p :: r)).placeCtx ctx n

/-- PLACEMENT_PASS (R362): the active contexts in acceptance order; the time slice counts from the latest pass that placed (R391). -/
def execPlacementPass (s : State) : Out :=
  .next (s.alder.ctxs.foldl (fun s c =>
    let s1 := s.placeCtx c.id 1281
    let placed := ((s1.ctx? c.id).map (·.placedAt == s.ccount)).getD false
    if placed && c.tslice != 0 then s1.sched c.tslice .timeSliceExpiry [c.id, s.ccount] else s1) s)

/-- WILLOW_PLACE (R455, R94): the message reaches the grove; the core's instruction cache is invalidated. (DESIGN CHOICE, log 34.) -/
def execWillowPlace (s : State) : Out :=
  .next (match kget s.alder.placements s.a0 with
  | none => s
  | some p => s.modCore p.core fun c => { c with icache := [] })

/-- TEAM_START (R365): the placed team's groups and its sequencer start; a Willow that has its context's STOP stops it at once (R392). -/
def execTeamStart (s : State) : Out :=
  .next (match kget s.alder.placements s.a0 with
  | none => s
  | some p =>
    let s1 := { s with alder := { s.alder with placements := kdel s.alder.placements s.a0 } }
    let t := p.core * 4 + p.sq
    let s2 := p.grps.foldl (fun s g => s.setGrp g.1 { g.2 with age := s.ccount }) (s1.setTeam t p.team)
    let stop := s2.stopping t
    let s3 := p.grps.foldl (fun s g => s.modGrp g.1 fun r => { r with preReq := stop }) s2
    s3.modCore p.core fun c => { c with eng := c.eng ++ p.engs, copyQ := c.copyQ ++ p.copies, xferQ := c.xferQ ++ p.xfers })

/-! ## The end of a context (R355, R375) -/

/-- Whether every team of a context has been placed and has ended. -/
def Ctx.over (c : Ctx) : Bool := c.pre.isNone && c.restore.isEmpty && c.live.isEmpty && decide (c.clusters ≤ c.nextCl)

/-- Contexts that are over: the completion is due once PTIME exceeds every GWCT and the posted host writes are flushed. -/
def State.endContexts (s : State) : State :=
  s.alder.ctxs.foldl (fun s c =>
    if (c.over && !c.freed) = true then
      let flushed := s.posted.foldl (fun a p => max a p.2) s.ccount - s.ccount
      (s.modCtx c.id fun x => { x with freed := true }).sched (max (s.cyclesTo (c.gmax + 1)) flushed) .contextCompletion [c.id]
    else s) s

/-- A context leaves the active set. -/
def State.dropCtx (s : State) (ctx : Nat) : State := { s with alder := { s.alder with ctxs := s.alder.ctxs.filter (·.id != ctx) } }

/-- CONTEXT_COMPLETION (R355): status 0, a release at .sys scope over the whole grid. -/
def execContextCompletion (s : State) : Out :=
  let ctx := s.a0
  .next (match s.ctx? ctx with
  | none => s
  | some c =>
    if !c.over then s
    else if s.ptime ≤ c.gmax then s.schedAt (c.gmax + 1) .contextCompletion [ctx]
    else (s.dropCtx ctx).complete ctx 0)

end Sys2Proof.Machine
end

