-- ==== Sys2Proof/Machine/Preempt.lean ====
section
/-! DEFINITION. Entry of traps that waited (spec/13 R382), pre-emption (R390 to R395): requests, stops, acknowledgements, reports, the
image, and its completion. -/
namespace Sys2Proof.Machine

/-- TRAP_ENTRY (R382): a recognised trap is entered once what it waits for has come. (DEDUCED, log 65.) -/
def execTrapEntry (s : State) : Out :=
  let g := s.a0
  .next (match s.grp? g with
  | none => s
  | some r => match r.trap with
    | none => s
    | some t => s.takeTrap g t)

/-- TIME_SLICE_EXPIRY (R391): the slice counts from the context's latest placement pass. -/
def execTimeSliceExpiry (s : State) : Out :=
  .next (match s.ctx? s.a0 with
  | some c => if c.placedAt = s.a1 ∧ c.pre.isNone then s.preemptCtx c.id 2 0 0 0 else s
  | none => s)

/-! ## Stopping (R392, R393) -/

/-- The requests of a group that have no status (R393). -/
def State.fenOpen (s : State) (g : Nat) : List (Nat × FenReq) := s.fenReqs.filter fun p => p.2.g == g && p.2.fromPeer.isNone

/-- A blocking request to the Fen of a peer is taken back by a packet of its own, once (R393, R416). (DESIGN CHOICE, log 14.) -/
def State.fenBack (s : State) (k : Nat) (q : FenReq) : State :=
  let d := dieOf (coreOfG q.g)
  match (s.die d).reqs.find? fun r => r.op == k && r.part == 0 with
  | none => s
  | some r =>
    if (s.die d).reqs.any (fun x => x.op == k && x.part == 1) || s.salRead d q.dstMod < 1 then s
    else ((s.salTake d q.dstMod 1).sendPeer d q.dstMod 4 (coreOfG q.g) 0 k 1 (fenBen q (some r.eseq)) []).getD s

/-- Takes a request of a stopped group back (R392, R393): one that waits at its core is not sent, one that blocks is withdrawn at its home. -/
def State.takeBack (s : State) (k : Nat) (q : FenReq) : State :=
  if q.withdrawn || q.code.isSome then s
  else if !q.sent || s.timed.any (fun e => e.i == .fenRequestRetry && e.args == [k]) then s.modReq k fun q => { q with withdrawn := true }
  else if !q.blk then s
  else if q.dstMod ≠ s.modNum.toNat then s.fenBack k q
  else if (s.slice q.slice).parked.contains k && !s.timed.any (fun e => e.i == .fenWithdrawal && e.args == [k]) then s.schedPath .fenWithdrawal [k]
  else s

/-- What a stopped group gives back at once: its place in the list of an allowance, its watch, its requests without a status (R392, R393). -/
def State.stopGroup (s : State) (g : Nat) : State :=
  match s.grp? g with
  | none => s
  | some r =>
    if !(r.asked && r.stop == .runs) then s else
    let s1 := (s.fenOpen g).foldl (fun s p => s.takeBack p.1 p.2) s
    match r.parked with
    | some (.sal _) =>
      (s1.modDie (dieOf (coreOfG g)) fun d => { d with salWait := d.salWait.filter (·.g != g) }).modGrp g (·.unpark)
    | some .watch =>
      let s2 := match r.watch with
        | some w => s1.setMonTable w.slice ((s1.monTable w.slice).filter (·.gident != g))
        | none => s1
      s2.modGrp g fun r => { r.unpark with watch := none, spc := r.spc + 4, drain := false, drained := false }
    | _ => s1

/-- Whether a release in progress has come to an entry that waits at the head (R392): nothing more leaves in this cycle, and the entry has
not acted, unless it is a SACQ that waits for its grant or a Fen request that is taken back. -/
def State.releaseRests (s : State) (g : Nat) (r : Group) : Bool :=
  r.rel.isNone ||
  (((s.releaseRun g 1).grp? g).map (·.cq.length) == some r.cq.length &&
    match r.cq.head? with
    | some e => !e.acted || e.word == wordOf .sacq || (s.fenOpen g).any fun p => p.2.withdrawn
    | none => true)

/-- Whether a lane access to a peer rests for a stop: every request of it that was sent has its response (R392). -/
def State.peerRests (s : State) (o : Nat) (m : MemOp) : Bool :=
  m.agent.isLane && (List.range m.parts.length).any (fun i => s.unsent o m i) &&
    (m.parts.mapIdx fun i (q : Part) => s.unsent o m i || (q.bound && q.fill.isNone)).all (· == true)

/-- Whether a group has come to its stopping point (R392, R172). -/
def State.groupStopped (s : State) (g : Nat) (r : Group) : Bool :=
  (r.stop != .runs || r.asked) && r.trap.isNone && r.lres.isEmpty &&
  r.pendV.all (fun p => r.fenOps.contains p.id || (s.lanePeerOpen g).any (·.1 == p.id)) &&
  s.ops.all (fun p => p.2.agent.group? != some g || s.peerRests p.1 p.2) && s.releaseRests g r && r.pendS.all (·.why == .reply) &&
  !r.outs.any (fun o => o.ctr == .stc && (o.lane || o.rel) && !o.done && !(s.lanePeerOpen g).any (·.1 == o.id)) && decide (r.gwctMax < s.ptime) && r.fwdArr.isEmpty &&
  (s.fenOpen g).all (fun p => p.2.withdrawn) && !(s.core (coreOfG g)).moves.any (·.team == r.team)

/-- Whether the engines of a core rest for a context (R270, R280, R286, R392). -/
def State.enginesRest (s : State) (core ctx : Nat) (halted : Bool) : Bool :=
  let of := fun t : Nat => ((s.team? t).map (·.ctx)).getD 0 == ctx
  let c := s.core core
  c.eng.all (fun e => !of e.team || (!e.fetching && e.writes == 0 && decide (e.gmax ≤ s.ptime) && !e.cancelled && (e.fault.isNone || halted || e.finish.isNone) &&
    !(e.began.isSome && e.fault.isNone && (e.kind == .mdraina || e.kind == .mload || e.kind == .mzero)))) &&
  c.copyQ.all (fun x => !of x.team || (!x.busy && !s.ops.any fun p => p.2.agent == .copier core && p.2.out == x.id)) &&
  c.xferQ.all fun x => s.xferCtx x != ctx || (x.inFlight == 0 && (s.xferRead core x).isNone)

/-- Whether every engine of a grove that acts for a context has stopped; a team that is placed and has not started has not (log 23). -/
def State.groveStopped (s : State) (w ctx : Nat) : Bool :=
  let halted := ((s.ctx? ctx).map (·.halted)).getD false
  !s.alder.placements.any (fun p => p.2.ctx == ctx && willowOf p.2.core == w) &&
  s.groups.all (fun p => p.2.ctx != ctx || willowOf (coreOfG p.1) != w || s.groupStopped p.1 p.2) &&
  s.teams.all fun p => p.2.ctx != ctx || willowOf p.2.core != w || (p.2.pendW.isEmpty && !p.2.fwdArr && s.enginesRest p.2.core ctx halted)

/-- The operations of a context on a core go back to where they resume (R270). -/
def State.rewindEngines (s : State) (core ctx : Nat) : State :=
  let of := fun t : Nat => ((s.team? t).map (·.ctx)).getD 0 == ctx
  let upd := fun e : EngOp =>
    if of e.team && e.finish.isNone && !e.cancelled && (e.kind == .mma || e.began.isNone) then e.rewind else e
  s.modCore core fun c => { c with eng := c.eng.map upd }

/-- The cores of a grove that hold a team of a context. -/
def State.ctxCores (s : State) (w ctx : Nat) : List Nat :=
  (s.teams.filterMap fun p => if p.2.ctx = ctx ∧ willowOf p.2.core = w then some p.2.core else none).eraseDups

/-- The acknowledgements of a grove as soon as they hold. -/
def State.pollAck (s : State) (w ctx : Nat) : State :=
  if s.groveStopped w ctx then s.schedOnce 0 .engineStopAck [w, ctx] else s

/-- WILLOW_STOP (R392, R395): every engine of the grove acting for the context is stopped. -/
def execWillowStop (s : State) : Out :=
  let w := s.a0
  let ctx := s.a1
  .next (match (s.ctx? ctx).bind (·.pre) with
  | none => s
  | some _ =>
    let s1 := s.modCtx ctx fun c => { c with pre := c.pre.map fun p => { p with stopped := w :: p.stopped } }
    let mine := s1.groups.filterMap fun p => if p.2.ctx = ctx ∧ willowOf (coreOfG p.1) = w then some p.1 else none
    let s2 := mine.foldl (fun s g => (s.modGrp g fun r => { r with preReq := true }).stopGroup g) s1
    ((s2.ctxCores w ctx).foldl (fun s c => s.rewindEngines c ctx) s2).pollAck w ctx)

/-- The polls of a stop in each cycle: groups of a context that recognise the request meanwhile, and the acknowledgements. -/
def State.stopCycle (s : State) : State :=
  s.alder.ctxs.foldl (fun s c =>
    match c.pre with
    | none => s
    | some p =>
      p.stopped.foldl (fun s w =>
        if p.acked.contains w then s else
        let mine := s.groups.filterMap fun q => if q.2.ctx = c.id ∧ willowOf (coreOfG q.1) = w then some q.1 else none
        (mine.foldl (fun s g => s.stopGroup g) s).pollAck w c.id) s) s

/-- The lanes of a lane access all of whose requests to peers have been sent. -/
def State.sentLanes (s : State) (o : Nat) (m : MemOp) : Mask :=
  maskOf fun l => m.parts.any (·.lane == l) &&
    !(List.range m.parts.length).any fun i => s.unsent o m i && (m.parts[i]?.map (·.lane)) == some l

/-- A lane access to a peer with lanes not sent stands at its instruction again, the lanes that were sent in LSENT (R392). -/
def State.restAccess (s : State) (g : Nat) : State :=
  match s.lanePeerOpen g with
  | none => s
  | some (o, m) =>
    let back := fun (r : Group) => { r with
      lpc := m.pc, lsent := r.lsent ||| s.sentLanes o m, lsentV := true, outs := r.outs.filter (·.id != m.out)
      pendV := r.pendV.filter (·.id != m.out) }
    let mine := fun (x : MaskB) => x.id == o && x.acc.isNone
    let s1 : State := m.parts.foldl (fun (s : State) (q : Part) => s.maskDrop m.core (q.pa / 256) mine) (s.delOp o)
    s1.modGrp g back

/-- A Fen instruction with requests taken back stands at its instruction, the lanes that have a status in LSENT (R392, R393). -/
def State.restFen (s : State) (g : Nat) : State :=
  let back := s.fenOpen g
  let s1 : State := { s with
    fenReqs := s.fenReqs.filter fun p => !back.any fun b => b.1 == p.1
    fenOps := s.fenOps.filter fun p => p.2.g != g }
  match back.findSome? fun b => (kget s.fenOps b.2.op).bind fun o => if o.scalar then none else some (b.2.op, o.pc) with
  | none => s1
  | some (key, pc) => s1.modGrp g fun r => { r with
      lpc := pc, lsentV := true, outs := r.outs.filter (·.id != key), pendV := r.pendV.filter (·.id != key)
      fenOps := r.fenOps.filter (· != key), parked := r.unpark.parked }

/-- A REGRP or RJOIN without all arrivals has not executed; a wait on a barrier is made again (R392, R218). -/
def Group.restStep (r : Group) : Group :=
  let r1 := match r.rgArr with
    | some a => { r.leaveStep a.join with lpc := a.pc }
    | none => r
  match r1.parked with
  | some (.barrier _) => r1.unpark
  | _ => r1

/-- A group is put into the form in which it is saved (R392, R398). -/
def State.settle (s : State) (g : Nat) : State :=
  ((s.restFen g).restAccess g).modGrp g fun r =>
    let r1 := { r with cq := match r.cq with
      | e :: rest => { e with acted := false } :: rest
      | [] => [] }
    let r2 := r1.restStep
    { r2 with stop := if r2.stop == .runs then .preempted else r2.stop }

/-- ENGINE_STOP_ACK (R392, R395): the last engine of the grove has stopped; the Willow sends its REPORT 4 cycles later. (DEDUCED, log 23.) -/
def execEngineStopAck (s : State) : Out :=
  let w := s.a0
  let ctx := s.a1
  .next (match (s.ctx? ctx).bind (·.pre) with
  | none => s
  | some p =>
    if p.acked.contains w || !p.stopped.contains w || !s.groveStopped w ctx then s else
    let s1 := s.modCtx ctx fun c => { c with pre := c.pre.map fun p => { p with acked := w :: p.acked } }
    let mine := s1.groups.filterMap fun q => if q.2.ctx = ctx ∧ willowOf (coreOfG q.1) = w then some q.1 else none
    let s2 := mine.foldl (fun s g => s.settle g) s1
    ((s2.ctxCores w ctx).foldl (fun s c => s.rewindEngines c ctx) s2).sched (4 + willowDelay w) (.willowReport w (.stopped ctx)))

/-! ## Reports, the image, the end (R395, R396) -/

/-- A saved team that has not been placed again, put on a core number of no core, so that it is saved again. -/
def State.lodge (s : State) (i : Nat) (p : Placement) : State :=
  let core := 1000 + i
  let t := core * 4
  let key := fun gid : Nat => core * 32 + gid
  let member := fun gid : Nat => if p.grps.any (fun g => g.2.gid.toNat == gid) then key gid else 1048576
  let s1 := s.setTeam t { p.team with core := core, members := (List.range p.team.groups).map member }
  let s2 := p.grps.foldl (fun s g => s.setGrp (key g.2.gid.toNat) { g.2 with team := t }) s1
  s2.modCore core fun c => { c with
    eng := p.engs.map fun e => { e with team := t }
    copyQ := p.copies.map fun x => { x with team := t, g := key x.g }
    xferQ := p.xfers.map fun x => { x with g := key x.g } }

/-- The bytes of a context's checkpoint image (R396). -/
def State.imageBytes (s : State) (c : Ctx) (p : Preempt) : List Byte :=
  let s1 := (c.restore.mapIdx fun i q => (i, q)).foldl (fun s x => s.lodge x.1 x.2) s
  let mine := s1.teams.filter fun t => t.2.ctx == c.id
  s.imageHeader c p mine.length ++ mine.flatMap fun t => s1.teamRecord t.1 t.2

/-- Writes the bytes of an image from an address on, line by line, each accepted at its home; n bounds the lines. -/
def State.writeImage (s : State) (pa : Nat) (bs : List Byte) (gmax : Nat) : Nat → Nat × State
  | 0 => (gmax, s)
  | n + 1 =>
    match bs with
    | [] => (gmax, s)
    | _ =>
      let line := bs.take 256
      if paClass pa = 1 then (s.postHost (paLow pa) line).writeImage (pa + 256) (bs.drop 256) gmax n
      else if paClass pa = 0 ∧ s.backed (paLow pa) then
        let (id, s1) := s.fresh
        let (g, s2) := s1.acceptWrite pa (line.map some) id 0 .host 0
        s2.writeImage (pa + 256) (bs.drop 256) (max gmax g) n
      else s.writeImage (pa + 256) (bs.drop 256) gmax n

/-- What a core keeps of its caches when a context is saved: lines with masked bytes stay as ways without a sector (R18, R339). -/
def Core.forget (c : Core) : Core :=
  { c with
    icache := [], tlb := []
    l1 := c.l1.map fun (p : Nat × CSet) => (p.1, ⟨(p.2.ways.filter fun w => (kget c.masks w.2.line).isSome).map fun w => (w.1, { w.2 with valid := 0 }), 0⟩) }

/-- On the cores that held a team of a context, cache and TLB contents and lease expiries go back to their reset state; in the RDCs of their dies
the pinned lines stay. The governor of a core follows when no team is left on it (R18). (DEDUCED, log 34.) -/
def State.forgetCaches (s : State) (ctx : Nat) : State :=
  let mine := (s.teams.filter fun t => t.2.ctx == ctx).map fun t => t.2.core
  let shared := (s.teams.filter fun t => t.2.ctx != ctx).map fun t => t.2.core
  let s1 := mine.foldl (fun s c => s.modCore c fun x =>
    if shared.contains c then x.forget else { x.forget with bal := Core.reset.bal }) s
  (mine.map dieOf).eraseDups.foldl (fun s d => s.modDie d fun x => { x with
    tlb := []
    rdc := x.rdc.map fun (p : Nat × CSet) => (p.1, ⟨p.2.ways.filter fun w => s.pinnedRdc d w.2.line, 0⟩) }) s1

/-- Frees what a context holds: teams, groups, commands, places in lists, placements (R395). -/
def State.freeCtx (s : State) (ctx : Nat) : State :=
  let of := fun t : Nat => ((s.team? t).map (·.ctx)).getD 0 == ctx
  let ofG := fun g : Nat => ((s.grp? g).map (·.ctx)).getD 0 == ctx
  { s with
    groups := s.groups.filter fun p => p.2.ctx != ctx
    teams := s.teams.filter fun p => p.2.ctx != ctx
    cores := s.cores.map fun (p : Nat × Core) => (p.1, { p.2 with
      eng := p.2.eng.filter fun e => !of e.team
      copyQ := p.2.copyQ.filter fun x => !of x.team
      xferQ := p.2.xferQ.filter fun x => !ofG x.g
      moves := p.2.moves.filter fun m => !of m.team
      ctxG := kdel p.2.ctxG ctx })
    dies := Vector.ofFn fun (i : Fin 4) => { s.die i.val with salWait := (s.die i.val).salWait.filter fun w => !ofG w.g }
    alder := { s.alder with placements := s.alder.placements.filter fun p => p.2.ctx != ctx } }

/-- The end of a pre-empted or halted context: its resources are free, its completion has status 2, or 3 where no image was written. -/
def State.endPreempt (s : State) (ctx status : Nat) : State := ((((s.forgetCaches ctx).freeCtx ctx).dropCtx ctx).complete ctx status)

/-- Alder holds all 32 reports (R395): the image is written; a halted context, or one without a save area, gets none. -/
def State.allReports (s : State) (c : Ctx) (p : Preempt) : State :=
  if c.halted || c.save == 0 then s.endPreempt c.id 3 else
  let bs := s.imageBytes c p
  let (g, s1) := s.writeImage c.save bs 0 (bs.length / 256 + 1)
  (s1.modCtx c.id fun x => { x with pre := x.pre.map fun p => { p with done := true, imgG := g } }).schedAt (g + 1) .preemptCompletion [c.id]

/-- WILLOW_REPORT (R395, R462): a grove's REPORT reaches Alder. -/
def execWillowReport (willow : Nat) (of : ReportOf) (s : State) : Out :=
  .next (match of with
  | .tinv cmd => s.tinvReport willow cmd
  | .stopped ctx =>
    let add := fun p : Preempt => if p.reports.contains willow then p else { p with reports := willow :: p.reports }
    let s1 := s.modCtx ctx fun c => { c with pre := c.pre.map add }
    match s1.ctx? ctx with
    | none => s1
    | some c => match c.pre with
      | none => s1
      | some p => if p.reports.length = 32 ∧ !p.done then s1.allReports c p else s1)

/-- PREEMPT_COMPLETION (R395): PTIME has passed the image's GWCTs: the resources are freed and status 2 is written; a halt that came
meanwhile stands, with status 3 (R390). -/
def execPreemptCompletion (s : State) : Out :=
  let ctx := s.a0
  .next (match s.ctx? ctx with
  | none => s
  | some c => match c.pre with
    | none => s
    | some p =>
      if !p.done then s
      else if s.ptime ≤ p.imgG then s.schedAt (p.imgG + 1) .preemptCompletion [ctx]
      else s.endPreempt ctx (if c.halted then 3 else 2))

end Sys2Proof.Machine
end

