-- ==== Sys2Proof/Machine/Fabric.lean ====
section
/-! DEFINITION. The Poale fabric (spec/14 R410 to R422, R431, R432): what a port receives, requests of peers served at this module's
homes, this module's own requests served by the switch slices (log 14), responses, allowance, resends. -/
namespace Sys2Proof.Machine

/-! ## The window of served requests (R414) -/

/-- The full physical address that a request names: module DST, its module-space address (R328). -/
def podPa (p : Packet) : Nat := 2 * 1125899906842624 + p.dst.toNat * 4398046511104 + p.addr.toNat % 4398046511104

/-- The key of a request's source die in the windows: this module's requests are held by the switch slices, which keep a window for each source die
and the destination that its ESEQs count for (R414). -/
def State.winKey (s : State) (p : Packet) : Nat :=
  if p.src = s.modNum then 2048 + (p.dst.toNat * 512 + switchSlice p.addr.toNat) * 4 + p.score.toNat / 80 % 4 else srcDie p

/-- The guard of a conversion of a PTIME between modules (R432), by a port's latest exchange. -/
def State.guardOf (s : State) (port : Nat) : Nat :=
  let last := match (s.ports.getD port Port.reset).timex with
    | some (_, _, _, _, t) => t
    | none => 0
  (s.ptime - last + 31) / 32 + 240

/-- The unit that a request's acceptance returns to its source die, in a CRED field (R417). -/
def credOne (p : Packet) : BitVec 32 := (1 : BitVec 32) <<< (8 * (p.score.toNat / 80 % 4))

/-- A response is kept in the window and sent: to a peer by a port, to this module's own request through the gate of the port it left by
(R411, R433). -/
def State.answerPeer (s : State) (p r : Packet) : State :=
  let s1 := s.noteSeen (s.winKey p) p (some { r with cred := 0 })
  if p.src = s.modNum then
    let port := portFor (p.score.toNat / 80 % 4) p.dst.toNat
    s1.schedPath (.gateAdmit (1 + port) (.packet r))
  else s1.emit (portFor (homeDie (p.addr.toNat % 4398046511104) % 4) p.src.toNat) r

/-- A request that the window holds is not applied again: its response, once there is one, is sent again (R414). -/
def State.once (s : State) (p : Packet) (f : State → State) : State :=
  match s.served? (s.winKey p) p with
  | some x => match x.resp with
    | some r => s.answerPeer p r
    | none => s
  | none => f s

/-- The address at which a request acts: module space of this module, or the peer memory that the switch slices hold. -/
def State.actsAt (s : State) (p : Packet) : Nat := if p.dst = s.modNum then p.addr.toNat % 4398046511104 else podPa p

/-- Whether a home of this module can serve the address of a request; the switch serves any (R421). -/
def State.servable (s : State) (p : Packet) : Bool := p.dst != s.modNum || s.backed (p.addr.toNat % 4398046511104)

/-- The GWCT or lease end of a response: this module's own value, or the switch's converted to the issuer's PTIME (R432). -/
def State.laterTime (s : State) (p : Packet) (g : Nat) : Nat :=
  if p.dst = s.modNum then g else g + s.guardOf (portFor (p.score.toNat / 80 % 4) p.dst.toNat)
def State.earlierTime (s : State) (p : Packet) (e : Nat) : Nat :=
  if p.dst = s.modNum then e else e - s.guardOf (portFor (p.score.toNat / 80 % 4) p.dst.toNat)

/-- The outstanding request of this module that a packet is. -/
def State.ownReq? (s : State) (p : Packet) : Option PeerReq :=
  (s.peerReq? p.dst.toNat p.eseq.toNat p.addr).map (·.2)

/-- The lease that a read asks for: that of this module's operation, or a switch's (R419). -/
def State.askedLease (s : State) (p : Packet) : Nat :=
  if p.src = s.modNum then (((s.ownReq? p).bind fun r => s.op? r.op).map (·.leaseLen)).getD 0 else Config.switchLease

/-! ## Requests (R411, R418 to R420) -/

/-- PEER_READ (R419): a read or fill is served at its home: 64 bytes and a lease. (DEDUCED, log 51.) -/
def execPeerRead (p : Packet) (s : State) : Out :=
  .next (s.once p fun s =>
    let pa := s.actsAt p / 64 * 64
    if s.meetsRefresh pa then s.sched 1 (.peerRead p)
    else if !s.servable p then s.answerPeer p (respond p.dst p s.ptime 0 (List.replicate 64 0))
    else
      let s1 := if paClass pa = 0 then s.l2Fill (paLow pa) else s
      let exp := s1.leaseEnd (pa / 256) (s1.askedLease p)
      (s1.recordLease (pa / 256) exp).answerPeer p (respond p.dst p (s1.earlierTime p exp) 0 (s1.homeBytes pa 64)))

/-- The enabled bytes of a write packet (R410). -/
def packetData (p : Packet) : List (Option Byte) := p.data.mapIdx fun i b => if p.ben.getLsbD i then some b else none

/-- A write is accepted sector by sector at its homes; the latest GWCT (R306, R317). -/
def State.acceptSectors (agent : Agent) (pa : Nat) (data : List (Option Byte)) : Nat → State → Nat × State
  | 0, s => (s.ptime, s)
  | n + 1, s =>
    let (g1, s1) := s.acceptSectors agent pa data n
    let d := (data.drop (64 * n)).take 64
    if d.any (·.isSome) then
      let (g, s2) := s1.acceptWrite (pa + 64 * n) d 0 0 agent 0
      (max g g1, s2)
    else (g1, s1)

/-- PEER_WRITE (R419, R318, R284): a write is accepted at its homes and its GWCT returned; without an enabled byte it writes nothing and
its GWCT is its time of issue; a bulk write is written and counted (R286). (DEDUCED, log 51.) -/
def execPeerWrite (p : Packet) (s : State) : Out :=
  .next (s.once p fun s =>
    let pa := s.actsAt p / 64 * 64
    let lead := s.actsAt p % 64
    let cred := if p.src = s.modNum then credOne p else 0
    let owe := fun (s : State) => if p.src = s.modNum then s else s.owe p
    if p.kind ≠ 9 ∧ p.ben = 0 then (owe s).answerPeer p { respond p.dst p p.time.toNat 0 [] with cred := cred }
    else if !s.servable p then (owe s).answerPeer p (respond p.dst p s.ptime 0 [])
    else if p.kind = 9 ∧ p.dst = s.modNum then
      let (k, s1) := s.fresh
      let q : BulkPkt := { core := 0, xfer := 0, dst := pa + lead, data := p.data.take (p.ben.extractLsb' 64 32).toNat
                           sel := p.ben.extractLsb' 0 64, gwct := none, code := none, fromPeer := some p }
      { s1 with pkts := kset s1.pkts k q }.noteSeen (s.winKey p) p none |>.sched 0 .bulkWrite [k]
    else if p.kind = 9 then
      let (g, s1) := s.acceptSectors (.peer p.src.toNat) pa (List.replicate lead none ++ (p.data.take (p.ben.extractLsb' 64 32).toNat).map some) 5
      s1.answerPeer p { respond p.dst p (s1.laterTime p g) 0 [] with cred := cred }
    else if s.pinnedCopy (pa / 256) then s.sched 1 (.peerWrite p)
    else
      let (g, s1) := s.acceptSectors (.peer p.src.toNat) pa (List.replicate lead none ++ packetData p) 5
      (owe s1).answerPeer p { respond p.dst p (s1.laterTime p g) 0 [] with cred := cred })

/-- The slice of a switch that holds the hot-word entry of a word (R418): its home switch and slice. (DEDUCED, log 60.) -/
def hotSlice (a : Nat) : Nat := a / 256 % 16 * 32 + a / 4096 % 32

/-- Puts a word in front of a list of hot words. -/
def touchHot (a : Nat) (v : W64) (l : List HotWord) : List HotWord :=
  match l.find? (·.addr == a) with
  | some h => h :: l.filter (·.addr != a)
  | none => ⟨a, v⟩ :: l

/-- The module-space offset of a word of this module by the address peers use; `none` for another module's. -/
def State.ownOffset (s : State) (a : Nat) : Option Nat :=
  if a / 4398046511104 = 512 + s.modNum.toNat then some (a % 4398046511104) else none

/-- A hot word is written back to its home, and its delegation ends (R420). -/
def State.evictHot (s : State) (h : HotWord) : State :=
  let s1 := { s with pod := { s.pod with hot := s.pod.hot.filter (·.addr != h.addr) } }
  let pa := (s1.ownOffset h.addr).getD h.addr
  let l := s1.homeLine (pa / 256)
  let s2 := { s1 with lines := kset s1.lines (pa / 256) { l with deleg := l.deleg.filter (· != pa) } }
  if (s1.ownOffset h.addr).isSome then s2.homeWrite pa ((wBytes 8 h.val).map some) else s2

/-- The slice takes a word into its hot-word cache of 128 entries and the home marks it delegated; the least recently used word of
the slice leaves (R418, R420). (DEDUCED, log 60.) -/
def State.delegate (s : State) (pa key : Nat) : State :=
  let v : W64 := bytesW 64 (s.homeBytes pa 8)
  let l := s.homeLine (pa / 256)
  let s1 := { s with
    pod := { s.pod with hot := touchHot key v s.pod.hot }
    lines := kset s.lines (pa / 256) { l with deleg := if l.deleg.contains pa then l.deleg else pa :: l.deleg } }
  match (s1.pod.hot.filter fun h => hotSlice h.addr == hotSlice key).drop 128 with
  | h :: _ => s1.evictHot h
  | [] => s1

/-- The atomic function of a code of a packet (R410; layout log 14). -/
def atomOfCode (c : Nat) : AtomFn :=
  let op := fun k : Nat => ([AtomOp.add, .and, .or, .xor, .min, .max, .minu, .maxu, .swap].find? fun o => o.code.toNat == k).getD .swap
  if c = 9 then .fadd64 else if c = 10 then .fadd32 else if 16 ≤ c then .f32 (op (c - 16)) else .int (op c)

/-- What an atomic packet writes over old bytes. -/
def atomicNew (p : Packet) (old : List Byte) : Option (List Byte) :=
  let c := (p.ben.extractLsb' 0 8).toNat
  let size := old.length
  let x : W64 := p.ben.extractLsb' 64 64
  let y : W64 := p.ben.extractLsb' 128 64
  let o : W64 := bytesW 64 old
  if c = 255 then (if o.toNat = x.toNat % 256 ^ size then some (wBytes size y) else none)
  else some (wBytes size ((atomOfCode c).apply size o y))

/-- PEER_ATOMIC (R420): performed at the home slice in its hot-word cache; the word is delegated. (DEDUCED, log 51.) -/
def execPeerAtomic (p : Packet) (s : State) : Out :=
  .next (s.once p fun s =>
    let pa := s.actsAt p
    let size := if p.ben.extractLsb' 8 8 = 4 then 4 else 8
    let cred := if p.src = s.modNum then credOne p else 0
    let owe := fun (s : State) => if p.src = s.modNum then s else s.owe p
    if !s.servable p then (owe s).answerPeer p (respond p.dst p s.ptime 0 [])
    else if s.meetsRefresh pa || s.pinnedCopy (pa / 256) then s.sched 1 (.peerAtomic p)
    else
      let s1 := s.delegate (pa / 8 * 8) (podPa p / 8 * 8)
      let old := s1.latestBytes pa size
      let data := match atomicNew p old with
        | some b => b.map some
        | none => List.replicate size none
      let (g, s2) := s1.acceptWrite pa data 0 0 (.peer p.src.toNat) 0
      let old64 : W64 := bytesW 64 old
      (owe s2).answerPeer p { respond p.dst p (s2.laterTime p g) (old64.setWidth 256) [] with cred := cred })

/-- A Fen request of a peer (R294, R410; layout log 14): kind, form, selectors, scope, region and handle in BEN; the tuple or pattern
and the masks in its data flits. (DEDUCED, log 61.) -/
def fenOfPacket (own : BitVec 8) (p : Packet) : FenReq :=
  let n := fun lo w : Nat => p.ben.toNat / 2 ^ lo % 2 ^ w
  let ws := fun i : Nat => (List.range 16).map fun k => BitVec.ofNat 32 (fieldN p.data (64 * i + 4 * k) 4)
  let region := n 96 8
  { g := 0, op := 0, lane := 0, kind := match n 0 2 with | 0 => .deposit | 1 => .take | _ => .copy, blk := n 8 1 == 1
    sc := match n 32 3 with | 0 => .grp | 1 => .team | 2 => .cl | 3 => .dev | _ => .sys
    region := region, dstMod := own.toNat, slice := fenHome region (fword (ws 0) 0), handle := n 64 32, words := ws 0, masks := ws 1
    sel := BitVec.ofNat 14 (n 16 14), code := none, copies := 0, reply := [], sent := true, withdrawn := false, fromPeer := some p }

/-- A Fen request of a peer goes to its home slice, once (R414); a withdrawal goes after the request that it names, which it answers with code 255
where it still finds it parked (R393). The packet itself is answered with code 254. (DESIGN CHOICE, log 14.) -/
def State.peerFen (s : State) (p : Packet) : State :=
  s.once p fun s =>
    let s1 := (s.noteSeen (s.winKey p) p none).owe p
    if p.ben.getLsbD 9 then
      let mine := s1.fenReqs.find? fun (x : Nat × FenReq) => match x.2.fromPeer with
        | some o => srcDie o == srcDie p && o.eseq == p.ben.extractLsb' 128 32
        | none => false
      let r : Packet := { respond s.modNum p s.ptime ((fenStatus 254 0).setWidth 256) [] with kind := 5 }
      let s2 := match mine with
        | some (k, _) => s1.schedPath .fenWithdrawal [k]
        | none => s1
      (s2.answered p r).emit (portFor ((mine.map (·.2.slice / 48)).getD 0) p.src.toNat) r
    else
      let q := fenOfPacket s.modNum p
      let (n, s2) := s1.draw
      (s2.fenMake q).fenToSlice s2.nextId q n

/-! ## Responses (R411) -/

/-- Removes the outstanding request that a response answers. -/
def State.delReq (s : State) (d : Nat) (r : PeerReq) : State :=
  s.modDie d fun x => { x with reqs := x.reqs.filter fun y => y.dst != r.dst || y.eseq != r.eseq }

/-- A filled sector that has come from host memory or a peer binds its loads and fills the copies (R305, R338). -/
def State.sectorCame (s : State) (o p : Nat) (bs : List Byte) (exp : Nat) : State :=
  match s.part? o p with
  | none => s
  | some (m, q) =>
    let sec := q.pa / 64 * 64
    let fill := m.kind == .fetchOnly || !m.atHomeRead
    let s1 := if fill && !q.unc || m.kind == .fetchOnly then s.fillOp m sec bs exp s.ptime q.unc else s
    if m.kind == .fetchOnly then s1.delOp o else ((s1.bindSector o m q.pa bs).acquireBinds m).returnIfBound o

/-- The status of a Fen request to a peer arrives (R292, R296); code 255 confirms that it was withdrawn (R393). The packet that took it back (part 1)
has no status of its own. -/
def State.fenCame (s : State) (r : PeerReq) (p : Packet) : State :=
  let code := (p.ben.extractLsb' 0 8).toNat
  if r.part = 1 then s
  else if code = 255 then s.modReq r.op fun q => { q with withdrawn := true }
  else (s.modReq r.op fun q => { q with
    code := some code, copies := (p.ben.extractLsb' 8 8).toNat
    reply := (List.range 16).map fun w => BitVec.ofNat 32 (fieldN p.data (4 * w) 4) }).schedPath .fenStatusReturn [r.op]

/-- The reply of an atomic on a peer: the old value, the GWCT, and the bytes that enter the write masks (R307, R310); an acquire binds (R314). -/
def State.atomCame (s : State) (r : PeerReq) (p : Packet) : State :=
  match s.part? r.op r.part with
  | none => s
  | some (m, q) =>
    let old := (wBytes 8 (p.ben.extractLsb' 0 64 : W64)).take q.len
    let g := p.time.toNat
    ((s.modPart r.op r.part fun q => { q with
        data := old, bound := true, gwct := some g, fill := some ((m.newBytes q old).getD old, g, s.nextId) }).acquireBinds m).schedPath
      .atomicReply [r.op, r.part]

/-- PEER_RESPONSE (R411, R413, R414): the response completes the outstanding request it answers; a second one finds none. -/
def execPeerResponse (p : Packet) (s : State) : Out :=
  .next (match s.peerReq? p.src.toNat p.eseq.toNat p.addr with
  | none => s
  | some (d, r) =>
    let s1 := s.delReq d r
    let g := p.time.toNat
    match r.pkt.kind.toNat with
    | 1 => s1.sectorCame r.op r.part p.data g
    | 3 => s1.atomCame r p
    | 4 => s1.fenCame r p
    | 9 => s1.schedPath .bulkAck [r.pkt.score.toNat, r.op, r.part, (p.ben.extractLsb' 0 8).toNat, g]
    | _ => (s1.modPart r.op r.part fun q => { q with gwct := some g }).schedPath .storeGwctReturn [r.op, r.part])

/-! ## Allowance (R373, R416, R417) -/

/-- The grant of every destination (R416). -/
def salGrant : Nat := 512

/-- Serves the list of groups parked on a destination from its head (R373): each takes its allowance and its request is sent in this cycle (R302),
the lanes of one group one after the other, until one needs more than there is. A group is ready in the cycle after its last one (R372). -/
def serveSal (die dst : Nat) : List SalWait → State → State
  | [], s => s
  | w :: r, s =>
    if w.dst ≠ dst then serveSal die dst r s
    else if s.salRead die dst < w.need then s
    else
      let s0 := s.modDie die fun d => { d with salWait := d.salWait.filter (·.g != w.g) }
      let lanes := s.fenUnsent w.g
      if lanes.isEmpty then
        let pay := fun (q : List CqEntry) => match q with
          | e :: q => { e with paid := true } :: q
          | [] => []
        serveSal die dst r ((((s0.salTake die dst w.need).modGrp w.g fun g => { g with cq := pay g.cq }).schedOnce 0 .commitHeadResume [w.g, 0]).sched 1
          (.groupWake w.g .sal))
      else
        let (n, s1) := s0.draw
        let s2 := fenPump w.g n (some w) lanes s1
        if (s2.die die).salWait.any (·.g == w.g) then (if s2.salRead die dst < 1 then s2 else serveSal die dst r s2)
        else
          let waits := s2.fenOps.any fun (p : Nat × FenOp) => p.2.g == w.g && p.2.blk && !p.2.scalar
          serveSal die dst r (if waits then s2.modGrp w.g (·.park .fen) else s2.sched 1 (.groupWake w.g .sal))

/-- CREDIT_RETURN (R373, R417, R302): returned units are added, up to the grant, and the parked list is served. An unreachable destination
takes none (R414). -/
def execCreditReturn (s : State) : Out :=
  let die := s.a0
  let dst := s.a1
  .next (if (s.die die).salOff.contains dst then s else
    let n := min salGrant ((sget (s.die die).sal dst).toNat + s.a2)
    let s1 := s.modDie die fun d => { d with sal := sset d.sal dst (BitVec.ofNat 20 n) }
    serveSal die dst (s1.die die).salWait s1)

/-- CREDIT_PACKET_SEND (R417): the units owed to a module that no packet has carried for 256 cycles leave in a credit packet. -/
def execCreditPacketSend (s : State) : Out :=
  let die := s.a0
  let dst := s.a1
  .next (if s.owed.any (fun o => decide (o.src = dst ∧ o.since + 256 ≤ s.ccount)) = true then
    let (cred, owed) := takeOwed dst s.owed
    let p : Packet := { kind := 7, crit := false, resend := false, dst := BitVec.ofNat 8 dst, src := s.modNum, score := 0xFFFF, eseq := 0
                        cred := cred, addr := 0, time := w64 s.ptime, ben := 0, data := [] }
    { s with owed := owed }.emit (portFor die dst) p
  else s)

/-! ## Resends (R414, R440) -/

/-- Whether a die has had a HOLD of a module within the last 1,024 reference periods (R440). -/
def State.held (s : State) (die dst : Nat) : Bool :=
  (List.range 4).any fun i => match kget (s.ports.getD (4 * die + i) Port.reset).holds dst with
    | some t => decide (s.ptime < t + 1024 * 120)
    | none => false

/-- END_TO_END_RESEND (R414): a request without a response is sent again with RESEND and the same ESEQ, and after 15 resends its destination
is unreachable for the die. A HOLD stops the timer (R440). -/
def execEndToEndResend (s : State) : Out :=
  let die := s.a0
  let dst := s.a1
  .next (match (s.die die).reqs.find? fun r => r.dst == dst && r.eseq == s.a2 with
  | none => s
  | some r =>
    let again := fun (s : State) (t : Nat) => s.schedAt (s.ptime + t) .endToEndResend [die, dst, r.eseq]
    if s.held die dst then again s (1024 * 120)
    else if 15 ≤ r.tries then
      let port := portFor die dst
      let off := fun (d : Die) => { d with salOff := if d.salOff.contains dst then d.salOff else dst :: d.salOff }
      { s.modDie die off with ports := s.ports.setIfInBounds port { s.ports.getD port Port.reset with
          unreach := true, lastd := BitVec.ofNat 8 dst } }
    else
      let p := { r.pkt with resend := true, cred := 0 }
      let upd := fun (x : PeerReq) => if x.dst = dst ∧ x.eseq = r.eseq then { x with tries := x.tries + 1 } else x
      let s1 := again ((s.modDie die fun d => { d with reqs := d.reqs.map upd }).emit (portFor die dst) p) 4800000
      match answerOf p with
      | some i => if (s.ports.getD (portFor die dst) Port.reset).up then s1.schedPath i else s1
      | none => s1)

/-! ## Link level (R412, R413, R415, R431, R440) -/

def State.port (s : State) (x : Nat) : Port := s.ports.getD x Port.reset
def State.modPort (s : State) (x : Nat) (f : Port → Port) : State := { s with ports := s.ports.setIfInBounds x (f (s.port x)) }

/-- A packet from the contents of its flits (R410). -/
def packetOf (bs : List Byte) : Packet :=
  let n := fun i k : Nat => fieldN bs i k
  { kind := BitVec.ofNat 8 (n 0 1), crit := n 1 1 % 2 == 1, resend := n 1 1 / 2 % 2 == 1, dst := BitVec.ofNat 8 (n 2 1)
    src := BitVec.ofNat 8 (n 3 1), score := BitVec.ofNat 16 (n 4 2), eseq := BitVec.ofNat 32 (n 8 4), cred := BitVec.ofNat 32 (n 12 4)
    addr := w64 (n 16 8), time := w64 (n 24 8), ben := BitVec.ofNat 256 (n 32 32), data := (bs.drop 64).take (64 * (n 6 1 % 5)) }

/-- A flit taken in order on a plane: with the last flit of its packet the packet reaches the port's gate; of a critical packet the
first copy is taken and the other discarded by its CSEQ (R413). (DESIGN CHOICE, log 59.) -/
def State.flitTaken (s : State) (port plane : Nat) (f : Flit) : State :=
  let pl := (s.port port).planes.getD plane Plane.fresh
  let rx := pl.rx ++ [f]
  let put := fun (s : State) (rx : List Flit) => s.modPort port fun x => { x with
    planes := x.planes.setIfInBounds plane { pl with inSeq := pl.inSeq + 1, rx := rx, naked := false } }
  let bs := rx.flatMap (·.content)
  if rx.length < 1 + fieldN bs 6 1 then put s rx
  else
    let p := packetOf bs
    let s1 := put s []
    if !p.crit then s1.sched 0 (.gateAdmit (1 + port) (.packet p))
    else
      let t := (s1.port port).taken
      if t.contains f.cseq then s1.modPort port fun x => { x with taken := x.taken.filter (· != f.cseq) }
      else (s1.modPort port fun x => { x with taken := (f.cseq :: x.taken).take 1024 }).sched 0 (.gateAdmit (1 + port) (.packet p))

/-- FLIT_RECEIVE (R412): a flit with a bad CRC or out of sequence is NAKed once and discarded, until the named LSEQ arrives again; bad
CRCs are counted (R415). (DESIGN CHOICE, log 59.) -/
def execFlitReceive (port plane : Nat) (f : Flit) (s : State) : Out :=
  let pl := (s.port port).planes.getD plane Plane.fresh
  let s1 := if flitGood f then s else s.modPort port fun x => { x with crcerr := if x.crcerr = 0xFFFFFFFF then x.crcerr else x.crcerr + 1 }
  .next (if flitGood f && f.lseq == pl.inSeq then s1.flitTaken port plane f
  else if pl.naked then s1
  else (s1.modPort port fun x => { x with planes := x.planes.setIfInBounds plane { pl with naked := true } }).send (.nak port plane pl.inSeq))

/-- NAK_RECEIVE (R412): the flits before the named one have arrived; from it on they are sent again in order. One that the buffer does not hold
has no effect. (DESIGN CHOICE, log 59.) -/
def execNakReceive (port plane : Nat) (lseq : BitVec 12) (s : State) : Out :=
  let pl := (s.port port).planes.getD plane Plane.fresh
  let again := pl.buf.dropWhile (·.lseq != lseq)
  .next (if again.isEmpty then s
  else { s.modPort port fun x => { x with planes := x.planes.setIfInBounds plane { pl with buf := again } } with
    sent := s.sent ++ again.map fun f => .flit port plane f })

/-- LINK_RETRAIN (R412): both planes' replay buffers are discarded; the link is trained again, except in reduced service (R460). (DEDUCED, log 36.) -/
def execLinkRetrain (s : State) : Out :=
  .next (s.modPort s.a0 fun x => { x with
    up := s.full, pl0 := s.full, pl1 := s.full
    planes := x.planes.mapIdx fun _ p => { p with buf := [], rx := [], naked := false } })

/-- TIMEX (R431): the times of an exchange of timing flits on a link are recorded. -/
def execTimex (port : Nat) (mSend sRecv sSend mRecv : BitVec 64) (s : State) : Out :=
  .next (s.modPort port fun x => { x with timex := some (mSend, sRecv, sSend, mRecv, s.ptime) })

/-- HOLD_FLIT (R440): a frozen module's port sends a HOLD flit. -/
def execHoldFlit (s : State) : Out := .next (if s.frozen then s.send (.hold s.a0) else s)

/-- CRCERR_READ (R415): the read of the count clears it. -/
def execCrcerrRead (s : State) : Out := .next (s.modPort s.a0 fun x => { x with crcerr := 0 })

/-- A switch slice registers at the home of a line (R344, R419). -/
def State.watchLine (s : State) (line : Nat) : State := { s with lines := kset s.lines line { s.homeLine line with watch := true } }

/-- A packet that has crossed into the domain: its allowance units (R417), then what its kind is (R410). A packet for another module,
or of a reserved kind, is none of this module's. (DEDUCED, log 52.) -/
def State.packetIn (s : State) (p : Packet) : State :=
  if p.dst ≠ s.modNum then s else
  let s1 := (List.range 4).foldl (fun s d =>
    let n := (p.cred.extractLsb' (8 * d) 8).toNat
    if n = 0 then s else s.sched 0 .creditReturn [d, p.src.toNat, n]) s
  match p.kind.toNat with
  | 1 => s1.schedPath (.peerRead p)
  | 2 | 9 => s1.schedPath (.peerWrite p)
  | 3 => s1.schedPath (.peerAtomic p)
  | 4 => s1.peerFen p
  | 5 | 6 => s1.sched 0 (.peerResponse p)
  | 8 => if p.ben.getLsbD 0 then s1.watchLine (p.addr.toNat % 4398046511104 / 256) else s1.sched 0 .monitorNotice [(2 * 1125899906842624 + p.src.toNat * 4398046511104 + p.addr.toNat % 4398046511104) / 256]
  | _ => s1

end Sys2Proof.Machine
end

