-- ==== Sys2Proof/Machine/Link.lean ====
section
/-! DEFINITION. The host link (spec/14 R401 to R404; spec/16 R458; spec/19 R484): accesses of the host through BAR2, completions of the
device's requests to host memory, flow control, configuration requests, SPDM, link training. -/
namespace Sys2Proof.Machine

/-- The completion statuses of a TLP: successful, Unsupported Request (log 20). -/
def cplOk : Nat := 0
def cplUR : Nat := 1

/-- Whether a range of module space can be accessed through BAR2: memory that is backed, or the register blocks (R402, R329). -/
def State.bar2Ok (s : State) (a n : Nat) : Bool :=
  (s.backed a && s.backed (a + n - 1)) || (isRegBlock a && isRegBlock (a + n - 1))

/-- The completions of a read, 512 bytes at most in each (R401). -/
def State.completeRead (s : State) (tag : Nat) (bs : List Byte) : State :=
  (List.range (max 1 ((bs.length + 511) / 512))).foldl (fun s i => s.send (.completion tag cplOk ((bs.drop (512 * i)).take 512))) s

/-- BAR2_READ (R402, R443): the performed bytes at their homes; unbacked space gives Unsupported Request. A frozen package answers from
DRAM without touching a cache. -/
def execBar2Read (s : State) : Out :=
  let tag := s.a0
  let a := s.a1
  let n := s.a2
  .next (if !s.bar2Ok a n then s.send (.completion tag cplUR [])
  else if s.frozen then s.completeRead tag ((List.range n).map fun i => s.dram (a + i))
  else if isRegBlock a then (s.completeRead tag (s.homeBytes a n)).regReadSide (a - 0x38000000000) n
  else if (List.range (n / 64 + 2)).any fun i => decide (a / 64 * 64 + 64 * i < a + n) && s.meetsRefresh (a / 64 * 64 + 64 * i) then
    s.sched 1 .bar2Read [tag, a, n]
  else
    let s1 := (List.range (n / 64 + 2)).foldl (fun s i => if a / 64 * 64 + 64 * i < a + n then s.l2Fill (a / 64 * 64 + 64 * i) else s) s
    s1.completeRead tag (s1.homeBytes a n))

/-- BAR2_WRITE (R402, R323): the enabled bytes of a sector are accepted at their home; unbacked space discards them, as a frozen package
does (R443). -/
def execBar2Write (addr : Nat) (data : List (BitVec 8)) (ben : List Bool) (s : State) : Out :=
  let bytes := data.mapIdx fun i b => if ben.getD i false then some b else none
  .next (if s.frozen || !s.bar2Ok addr data.length then s
  else if isRegBlock addr then s.homeWrite addr bytes
  else if s.pinnedCopy (addr / 256) then s.sched 1 (.bar2Write addr data ben)
  else (s.acceptSectors .host (addr / 64 * 64) (List.replicate (addr % 64) none ++ bytes) ((addr % 64 + data.length + 63) / 64)).2)

/-- BAR2_ATOMICOP (R402, R401): executed at the home as SATOM or SCAS at .sys scope; the old value is the completion. An AtomicOp that is
not naturally aligned, or to unbacked space, is an Unsupported Request. -/
def execBar2Atomicop (tag addr : Nat) (op : PcieAtomic) (wide : Bool) (x y : BitVec 64) (s : State) : Out :=
  let n := if wide then 8 else 4
  .next (if addr % n ≠ 0 ∨ !s.backed addr then s.send (.completion tag cplUR [])
  else if s.meetsRefresh addr || s.pinnedCopy (addr / 256) then s.sched 1 (.bar2Atomicop tag addr op wide x y)
  else
    let old := s.latestBytes addr n
    let o : W64 := bytesW 64 old
    let new := match op with
      | .fetchAdd => some (wBytes n (o + x))
      | .swap => some (wBytes n x)
      | .cas => if o.toNat = x.toNat % 256 ^ n then some (wBytes n y) else none
    let data := match new with
      | some b => b.map some
      | none => List.replicate n none
    (s.acceptWrite addr data 0 0 .host 0).2.send (.completion tag cplOk old))

/-- ZERO_LENGTH_WRITE (R318): a write without an enabled byte is not translated, raises no fault and writes nothing; its GWCT is its time of
issue. On PCIe a posted write has no acknowledgement. -/
def execZeroLengthWrite (s : State) : Out := .next s

/-- The bytes that completions have brought, in address order (R403). -/
def HostReq.bytes (q : HostReq) : List Byte :=
  (List.range q.len).map fun i => match q.got.find? fun x => decide (x.1 ≤ i ∧ i < x.1 + x.2.length) with
    | some x => x.2.getD (i - x.1) 0
    | none => 0
def HostReq.whole (q : HostReq) : Bool :=
  (List.range q.len).all fun i => q.got.any fun x => decide (x.1 ≤ i ∧ i < x.1 + x.2.length)

/-- HOST_READ_COMPLETION (R403): completions are put together in address order; with the last of them the bytes are bound, and a coherent
host page's sector fills the copies. -/
def execHostReadCompletion (tag offset : Nat) (data : List (BitVec 8)) (s : State) : Out :=
  .next (match kget s.pendingHost tag with
  | none => s
  | some q0 =>
    let q := { q0 with got := q0.got ++ [(offset, data)] }
    if !q.whole then { s with pendingHost := kset s.pendingHost tag q } else
    let s1 := { s with pendingHost := kdel s.pendingHost tag }
    match s1.part? q.op q.part with
    | none => s1
    | some (m, p) =>
      let at_ := paLow (if p.unc then p.pa else p.pa / 64 * 64)
      let s2 := { s1 with hostMem := ssetL s1.hostMem at_ q.bytes }
      if p.unc && m.kind != .fetchOnly then (s2.bindPart q.op q.part m p (List.replicate (p.pa % 64) 0 ++ q.bytes)).returnIfBound q.op
      else
        let exp := s2.leaseEnd (p.pa / 256) m.leaseLen
        (s2.recordLease (p.pa / 256) exp).sectorCame q.op q.part
          (if p.unc then List.replicate (p.pa % 64) 0 ++ q.bytes ++ List.replicate (64 - p.pa % 64 - q.len) 0 else q.bytes) exp)

/-- HOST_ATOMIC_COMPLETION (R404): the old value returns with the AtomicOp's completion. -/
def execHostAtomicCompletion (tag : Nat) (old : BitVec 64) (s : State) : Out :=
  .next (match kget s.pendingHost tag with
  | none => s
  | some q =>
    let s1 := { s with pendingHost := kdel s.pendingHost tag }
    match s1.part? q.op q.part with
    | none => s1
    | some (m, p) =>
      let was := wBytes m.asize old
      let new := (m.newBytes p was).getD []
      let upd := fun x : Part => { x with data := was, bound := true, fill := some (new, x.gwct.getD 0, 0) }
      (({ s1 with hostMem := ssetL s1.hostMem (paLow p.pa) new }.modPart q.op q.part upd).acquireBinds m).schedPath .atomicReply
        [q.op, q.part])

/-- FLOW_CONTROL_UPDATE (R484): a changed credit limit is held. -/
def execFlowControlUpdate (s : State) : Out := .next { s with fcLimits := kset s.fcLimits s.a0 s.a1 }

/-- CONFIG_REQUEST (R484): answered in the always-on domain; what a read gives is a free value (log 16). -/
def execConfigRequest (write : Bool) (off : Nat) (data : BitVec 32) (s : State) : Out :=
  .next ({ s with draws := s.draws + 1 }.send (.config off (if write then data else Config.configSpace s.draws off)))

/-- PCIE_LINK_TRAINING (R401, R404): the width and rate in force, and whether the root port reports AtomicOp routing and completion. -/
def execPcieLinkTraining (width rate : Nat) (atomics : Bool) (s : State) : Out :=
  .next { s with linkWidth := width, linkRate := rate, hostAtomics := atomics }

/-! ## SPDM (R458; response codes and contents log 16) -/

/-- n bytes whose contents the spec does not give, for a response code. -/
def spdmFree (code n : Nat) : List Byte := (List.range n).map fun i => Config.spdmBytes code i

/-- GET_VERSION: version 1.3. (DESIGN CHOICE, log 16.) -/
def execGetVersion (s : State) : Out := .next (s.send (.spdm 0x04 [0x00, 0x13]))
/-- GET_CAPABILITIES. -/
def execGetCapabilities (s : State) : Out := .next (s.send (.spdm 0x61 (spdmFree 0x61 16)))
/-- NEGOTIATE_ALGORITHMS: TPM_ALG_RSASSA_4096 and TPM_ALG_SHA_512 are offered and nothing else. -/
def execNegotiateAlgorithms (s : State) : Out := .next (s.send (.spdm 0x63 (natBytes 4 0x40 ++ natBytes 4 0x04)))
/-- GET_DIGESTS. -/
def execGetDigests (s : State) : Out := .next (s.send (.spdm 0x01 (spdmFree 0x01 64)))
/-- GET_CERTIFICATE: bytes of the certificate chain of a slot. -/
def execGetCertificate (s : State) : Out :=
  .next (s.send (.spdm 0x02 ((List.range s.a2).map fun i => Config.spdmBytes (0x200 + s.a0) (s.a1 + i))))
/-- CHALLENGE: the signed answer to a nonce. -/
def execChallenge (slot : Nat) (nonce : BitVec 256) (s : State) : Out :=
  .next (s.send (.spdm 0x03 ((List.range 512).map fun i => Config.spdmBytes (0x300 + slot) (nonce.toNat * 512 + i))))
/-- GET_MEASUREMENTS: blocks 1 to 4 are MR[1] to MR[4], block 5 the rollback counter; 0 asks for their number, 255 for all of them. -/
def execGetMeasurements (s : State) : Out :=
  let blk := fun n : Nat => if 1 ≤ n ∧ n ≤ 4 then (wBytes 64 (s.mr.getD (n - 1) 0)).reverse else if n = 5 then wBytes 4 Config.rollback else []
  .next (s.send (.spdm 0x60 (if s.a0 = 0 then [5] else if s.a0 = 255 then [1, 2, 3, 4, 5].flatMap blk else blk s.a0)))
/-- SPDM_UNSUPPORTED: every other request code is answered with ERROR UnsupportedRequest, naming the code. (DESIGN CHOICE, log 16.) -/
def execSpdmUnsupported (code : BitVec 8) (s : State) : Out := .next (s.send (.spdm 0x7F [0x07, code]))

end Sys2Proof.Machine
end

