-- ==== Sys2Proof/Machine/Gates.lean ====
section
/-! DEFINITION. Stamping gates and replay (spec/15 R433 to R438, spec/19 R484), the wake latch (spec/14 R408, R409), and what the host
writes: queue, gate, debug, trace and always-on registers (R402, R405, R435, R448, R449, R459, R485). -/
namespace Sys2Proof.Machine

def State.gateAt (s : State) (g : Nat) : Gate := s.gates.getD g Gate.reset
def State.modGate (s : State) (g : Nat) (f : Gate → Gate) : State := { s with gates := s.gates.setIfInBounds g (f (s.gateAt g)) }

/-! ## Gate records (R434; the layout of TLP headers and of the payloads the spec does not lay out: log 20) -/

/-- The kind, SRC, INFO and payload of an arrival's record. (DESIGN CHOICE, log 20.) -/
def State.recordOf (s : State) (x : Arrival) : Nat × Nat × List Byte × List Byte :=
  match x with
  | .barRead bar tag off len => (1, 0, [], tlpHead 0 bar tag len off)
  | .barWrite bar off data ben =>
    let part := ben.any (! ·)
    (1, 0, [], tlpHead 1 bar (if part then 1 else 0) data.length off ++ data ++ (if part then ben.map fun b => if b then 1 else 0 else []))
  | .barAtomic tag off op wide a b => (1, 0, [], tlpHead (tlpType op) (if wide then 8 else 4) tag 16 off ++ wBytes 8 a ++ wBytes 8 b)
  | .readCpl tag off data => (1, 0, [], tlpHead 5 0 tag data.length off ++ data)
  | .atomicCpl tag old => (1, 0, [], tlpHead 6 0 tag 8 0 ++ wBytes 8 old)
  | .packet p => (2, p.eseq.toNat % 2, [], packetBytes p)
  | .timex a b c d => (3, 0, [], wBytes 8 a ++ wBytes 8 b ++ wBytes 8 c ++ wBytes 8 d)
  | .hold m => (4, 0, [], natBytes 1 m)
  | .credit cls limit => (5, 0, [], natBytes 4 cls ++ natBytes 8 limit)
  | .samples xs => (6, s.ccount / 65536 % 256, [], xs.flatMap fun w => wBytes 4 w)
  | .wcorr w q => (7, s.ccount / 65536 % 256, [], wBytes 8 w ++ wBytes 8 q)
  | .stepEvent c => (8, 0, [c.setWidth 8], [])
  | .wakeEntry off data ben => (9, 0, [], natBytes 8 off ++ wBytes 8 data ++ wBytes 1 ben)

/-- The arrival that a record of a kind with a payload holds; none for the kinds that are not injected. (DESIGN CHOICE, log 20.) -/
def arrivalOf (kind : Nat) (b : List Byte) : Option Arrival :=
  let n := fun i k : Nat => fieldN b i k
  let w := fun i : Nat => w64 (fieldN b i 8)
  let len := n 4 4
  match kind with
  | 1 =>
    let body := (b.drop 16).take len
    match n 0 1 with
    | 0 => some (.barRead (n 1 1) (n 2 2) (n 8 8) len)
    | 1 => some (.barWrite (n 1 1) (n 8 8) body
        (if n 2 2 = 1 then ((b.drop (16 + len)).take len).map (· != 0) else List.replicate len true))
    | 2 => some (.barAtomic (n 2 2) (n 8 8) .fetchAdd (n 1 1 == 8) (w 16) (w 24))
    | 3 => some (.barAtomic (n 2 2) (n 8 8) .swap (n 1 1 == 8) (w 16) (w 24))
    | 4 => some (.barAtomic (n 2 2) (n 8 8) .cas (n 1 1 == 8) (w 16) (w 24))
    | 5 => some (.readCpl (n 2 2) (n 8 8) body)
    | 6 => some (.atomicCpl (n 2 2) (w 16))
    | _ => none
  | 2 => some (.packet (packetOf b))
  | 3 => some (.timex (w 0) (w 8) (w 16) (w 24))
  | 4 => some (.hold (n 0 1))
  | 5 => some (.credit (n 0 4) (n 4 8))
  | 6 => some (.samples ((List.range (b.length / 4)).map fun i => BitVec.ofNat 32 (n (4 * i) 4)))
  | 7 => some (.wcorr (w 0) (w 8))
  | 9 => some (.wakeEntry (n 0 8) (w 8) (BitVec.ofNat 8 (n 16 1)))
  | _ => none

/-- The slot of a gate's record (R434, R435). -/
def Gate.slot (g : Gate) (k : Nat) : Nat :=
  (g.gbase.extractLsb' 12 40).toNat * 4096 + 2048 * (k % 2 ^ (g.gctl.extractLsb' 0 5).toNat)

/-- Writes the next record of a gate into its ring (R434). The gate's own writes are no TLPs that the domain sends. -/
def State.writeRecord (s : State) (g kind src : Nat) (info payload : List Byte) : State :=
  let y := s.gateAt g
  let rec_ := natBytes 8 s.ptime ++ natBytes 1 kind ++ natBytes 1 src ++ natBytes 2 payload.length ++ wBytes 4 y.gtail ++
    info ++ List.replicate (16 - info.length) 0 ++ payload
  let a := y.slot y.gtail.toNat
  { s with hostMem := ssetL s.hostMem a rec_, sent := s.sent ++ [Sent.hostWrite a rec_] }.modGate g fun y => { y with gtail := y.gtail + 1 }

/-- Writes the record of an arrival, where the gate writes records; in lossy mode a record without a free slot is dropped (R436). -/
def State.logArrival (s : State) (g : Nat) (x : Arrival) : State :=
  let y := s.gateAt g
  let (kind, src, info, payload) := s.recordOf x
  if !y.on || y.mode == .replay then s
  else if y.mode == .lossy && (y.isFull || y.lost != 0) then
    s.modGate g fun y => { y with lossBit := true, lost := y.lost + 1, lostFirst := if y.lost = 0 then s.ptime else y.lostFirst }
  else s.writeRecord g kind src info payload

/-- A write enters the latch (R408, R409); one of a QTAIL or of WAKE starts the wake. -/
def State.latchPut (s : State) (off : Nat) (data : W64) (ben : BitVec 8) : State :=
  let s1 := { s with latch := s.latch ++ [⟨off, data, ben, s.ptime⟩] }
  let wakes := off = 0 ∨ (0x1000 ≤ off ∧ off < 0x1400 ∧ off % 0x40 = 0x10)
  if s1.gated ∧ s1.wakeAt.isNone ∧ wakes then { s1 with wakeAt := some (s.ccount + 65536) }.sched 65536 .wakeComplete else s1

/-- A write enters the latch by gate 0, which logs it (R409). -/
def State.latchIn (s : State) (off : Nat) (data : W64) (ben : BitVec 8) : State :=
  (s.logArrival 0 (.wakeEntry off data ben)).latchPut off data ben

/-! ## Admission (R433, R436, R437) -/

/-- The cycles between a stamp and the arrival's effect: 8 for every gate (R428); the sensor gate's arrivals take effect at their stamp, as R367
states for samples (log 31). -/
def crossCycles (g : Nat) : Nat := if g = 17 then 0 else 8

/-- An admitted arrival is recorded and crosses into the domain. -/
def State.letIn (s : State) (g : Nat) (x : Arrival) : State :=
  let s1 := s.logArrival g x
  match x with
  | .stepEvent _ => s1
  | _ => s1.sched (crossCycles g) (.arrivalCrossing g x)

/-- A live arrival at a gate in replay mode: completed with Unsupported Request, or discarded (R437). -/
def State.refuseLive (s : State) (x : Arrival) : State :=
  match x with
  | .barRead _ tag _ _ | .barAtomic tag _ _ _ _ _ => { s with sent := s.sent ++ [.completion tag cplUR []] }
  | _ => s

/-- Whether an arrival at a gate must wait outside in strict mode (R436): no free record, or others wait before it. -/
def Gate.holds (g : Gate) : Bool := g.on && g.mode == .strict && (g.isFull || g.headDelay || !g.waiting.isEmpty)

/-- An access to the registers outside the domain is served at once (R433, R484). -/
def State.serveOutside (s : State) (x : Arrival) : State :=
  match x with
  | .barRead _ tag off len => { s with sent := s.sent ++ [.completion tag cplOk (s.regRead off len)] }
  | .barWrite _ off data ben =>
    { s with agenda := ((s.regWrite off (data.mapIdx fun i b => if ben.getD i false then some b else none)).map fun i => .run i []) ++ s.agenda }
  | _ => s

/-- Whether an arrival is an access to the registers outside the domain (R433). -/
def isOutside : Arrival → Bool
  | .barRead bar _ off _ => bar == 0 && outsideDomain off
  | .barWrite bar off _ _ => bar == 0 && outsideDomain off
  | _ => false

/-- An arrival waits outside. -/
def State.waitOutside (s : State) (g : Nat) (x : Arrival) : State := s.modGate g fun y => { y with waiting := y.waiting ++ [x] }

/-- Whether an arrival is a write of BAR0. -/
def isLatched : Arrival → Bool
  | .barWrite 0 .. => true
  | _ => false

/-- A write of BAR0 enters the latch. -/
def State.latchWrite (s : State) (x : Arrival) : State :=
  match x with
  | .barWrite _ off data ben =>
    match regLanes off (data.mapIdx fun i b => if ben.getD i false then some b else none) with
    | none => s
    | some (o, v, be) => s.latchIn o v be
  | _ => s

/-- The entries that may still enter the latch: 64 in all, in strict mode as far as there are free records (R408, R436). -/
def State.latchRoom (s : State) : Nat :=
  let y := s.gateAt 0
  min (64 - s.latch.length) (if y.on && y.mode == .strict then
    (if y.headDelay then 0 else 2 ^ (y.gctl.extractLsb' 0 5).toNat - (y.gtail - y.ghead).toNat) else 64)

/-- An arrival at gate 0 while the device is gated or latched writes stand (R408, R409): writes of BAR0 enter the latch behind those that wait for
it, reads of the always-on block are answered, the rest waits. `none`: it is a case of neither. -/
def State.gatedArrival (s : State) (x : Arrival) : Option State :=
  if !s.gated && s.latch.isEmpty then none else
  match x with
  | .barWrite 0 .. =>
    if 0 < s.latchRoom && !(s.gateAt 0).waiting.any isLatched then some (s.latchWrite x) else some (s.waitOutside 0 x)
  | .barRead 0 tag off len =>
    if off < 0x1000 then some { s with sent := s.sent ++ [.completion tag cplOk (s.regRead off len)] } else some (s.waitOutside 0 x)
  | .barRead .. | .barAtomic .. | .barWrite .. => some (s.waitOutside 0 x)
  | _ => none

/-- GATE_ADMIT (R433, R436, R437): an arrival reaches a gate: it is admitted with the stamp of this cycle, or waits outside, or is refused
in replay. A credit update that changes nothing is no arrival (R484). -/
def execGateAdmit (gate : Nat) (x : Arrival) (s : State) : Out :=
  let y := s.gateAt gate
  let unchanged := match x with
    | .credit cls limit => kget s.fcLimits (cls + 256 * gate) == some limit
    | _ => false
  .next (if unchanged then s
  else if gate = 0 ∧ isOutside x ∧ !s.gated then s.serveOutside x
  else if y.on && y.mode == .replay then (match x with
    | .stepEvent _ => s
    | _ => s.refuseLive x)
  else match (if gate = 0 then s.gatedArrival x else none) with
    | some s1 => s1
    | none => if y.holds then s.waitOutside gate x else s.letIn gate x)

/-- What waits outside a gate and can be admitted now, in order: as many as there are free records (R436, R484); none
while the device is gated or latched writes stand (R409). (DEDUCED, log 47.) -/
def State.admissible (s : State) (g : Nat) : Nat :=
  let y := s.gateAt g
  if g = 0 ∧ (s.gated ∨ !s.latch.isEmpty) then 0
  else if y.on && y.mode == .strict then 2 ^ (y.gctl.extractLsb' 0 5).toNat - (y.gtail - y.ghead).toNat
  else y.waiting.length

/-- The oldest n writes of BAR0 among waiting arrivals, and the arrivals without them. -/
def takeLatched : Nat → List Arrival → List Arrival × List Arrival
  | 0, l => ([], l)
  | _ + 1, [] => ([], [])
  | n + 1, x :: r =>
    if isLatched x then let (a, b) := takeLatched n r; (x :: a, b)
    else let (a, b) := takeLatched (n + 1) r; (a, x :: b)

/-- At the start of a cycle the arrivals that waited outside are admitted for which there is room; while the latch stands, writes of BAR0 enter
it in order (R408, R409). -/
def State.admitWaiting (s : State) (g : Nat) : State :=
  let y := s.gateAt g
  if g = 0 ∧ (s.gated ∨ !s.latch.isEmpty) then
    let s1 := s.modGate 0 fun y => { y with headDelay := false }
    let (a, b) := takeLatched s1.latchRoom y.waiting
    a.foldl (fun s x => s.latchWrite x) (s1.modGate 0 fun y => { y with waiting := b })
  else
  let n := s.admissible g
  (y.waiting.take n).foldl (fun s x => s.sched 0 (.gateAdmit g x)) (s.modGate g fun y => { y with waiting := y.waiting.drop n, headDelay := false })

/-- GATE_LOSS_RECORD (R436): when a slot is free again, one LOSS record counts the records dropped. -/
def execGateLossRecord (s : State) : Out :=
  let g := s.a0
  let y := s.gateAt g
  .next (if y.on && y.mode == .lossy && y.lost != 0 && !y.isFull then
    (s.writeRecord g 10 0 (natBytes 4 y.lost ++ natBytes 8 y.lostFirst) []).modGate g fun y => { y with lost := 0 }
  else s)

/-- ARRIVAL_CROSSING (R428, R433): what has crossed takes its effect in the domain. -/
def execArrivalCrossing (gate : Nat) (x : Arrival) (s : State) : Out :=
  .next (match x with
  | .barRead bar tag off len =>
    if bar = 0 then (s.send (.completion tag cplOk (s.regRead off len))).regReadSide off len
    else s.schedPath .bar2Read [tag, off, len]
  | .barWrite bar off data ben =>
    let bytes := data.mapIdx fun i b => if ben.getD i false then some b else none
    if bar = 0 then (s.regWrite off bytes).foldl (fun s i => s.sched 0 i) s
    else if !bytes.any (·.isSome) then s.schedPath .zeroLengthWrite [gate, off]
    else (cuts (data.length / 64 + 2) 0 off data.length).foldl (fun s c =>
      s.schedPath (.bar2Write c.2.1 ((data.drop c.1).take c.2.2) ((ben.drop c.1).take c.2.2))) s
  | .barAtomic tag off op wide a b => s.schedPath (.bar2Atomicop tag off op wide a b)
  | .readCpl tag off data => s.schedPath (.hostReadCompletion tag off data)
  | .atomicCpl tag old => s.schedPath (.hostAtomicCompletion tag old)
  | .packet p => s.packetIn p
  | .timex a b c d => s.sched 0 (.timex (gate - 1) a b c d)
  | .hold m => s.modPort (gate - 1) fun p => { p with holds := kset p.holds m s.ptime }
  | .credit cls limit => s.sched 0 .flowControlUpdate [cls + 256 * gate, limit]
  | .samples xs => s.sched 0 (.samplePoint xs)
  | .wcorr w q => s.sched 0 (.wcorrApply w q)
  | .wakeEntry off data ben => s.latchPut off data ben
  | .stepEvent _ => s)

/-! ## Replay (R437, R438) -/

/-- DIVERGE: the package freezes with cause REPLAY (R438). -/
def State.diverge (s : State) (g : Nat) : State := (s.modGate g fun y => { y with diverge := true }).freeze 5 0

/-- The record of a slot: stamp, kind, length, SEQ, the step code of a STEP record, payload (R434). -/
def State.slotRecord (s : State) (a : Nat) : Nat × Nat × Nat × BitVec 32 × Nat × List Byte :=
  let h := sgetL s.hostMem a 32
  (fieldN h 0 8, fieldN h 8 1, fieldN h 10 2, BitVec.ofNat 32 (fieldN h 12 4), fieldN h 16 1, sgetL s.hostMem (a + 32) (fieldN h 10 2))

/-- REPLAY_INJECT (R437, R438): the next record is injected at its stamp, or checked when it is a STEP record; what replay cannot honour
freezes the package. (DEDUCED, log 47.) -/
def execReplayInject (s : State) : Out :=
  let g := s.a0
  let y := s.gateAt g
  let (stamp, kind, _, seq, code, body) := s.slotRecord (y.slot y.gtail.toNat)
  let next := fun s : State => (s.modGate g fun y => { y with gtail := y.gtail + 1 }).sched 0 .replayInject [g]
  .next (if !(y.on && y.mode == .replay) then s
  else if y.gtail = y.grlim then (if seq = y.gtail ∧ stamp < s.ptime ∧ kind ≠ 0 then s.diverge g else s)
  else if seq ≠ y.gtail ∨ kind = 10 ∨ stamp < s.ptime then s.diverge g
  else if s.ptime < stamp then s
  else if kind = 8 then (if code = s.step.toNat then next s else s.diverge g)
  else match arrivalOf kind body with
    | some (.wakeEntry off data ben) => next (s.latchPut off data ben)
    | some x => next (s.sched (crossCycles g) (.arrivalCrossing g x))
    | none => next s)

/-! ## The wake latch (R408, R409, R461) -/

/-- WAKE (R408): a write of WAKE while the device is gated enters the latch and starts the wake; one in the cycle in which the gate would
close keeps it open (R461). -/
def execWake (data : BitVec 64) (ben : BitVec 8) (s : State) : Out :=
  .next (if s.gated then s.latchIn 0 data ben
  else if 16777215 ≤ s.alder.idle then { s with alder := { s.alder with idle := 0 } } else s)

/-- QTAIL_DOORBELL (R405, R408): the count of entries that the host has written; while gated it enters the latch and starts the wake. -/
def execQtailDoorbell (q : Nat) (v : BitVec 32) (s : State) : Out :=
  .next (if s.gated then s.latchIn (0x1010 + 0x40 * q) (v.setWidth 64) 0x0F else s.modQueue q fun x => { x with qtail := v })

/-- WAKE_COMPLETE (R461): the clocks run again, and the latched writes are applied. -/
def execWakeComplete (s : State) : Out :=
  .next ({ s with gated := false, wakeAt := none, alder := { s.alder with idle := 0 } }.retime.sched 0 .latchedWriteApply)

/-- LATCHED_WRITE_APPLY (R409): the oldest latched write is applied, one in each cycle. -/
def execLatchedWriteApply (s : State) : Out :=
  .next (match s.latch with
  | [] => s
  | e :: r => ({ s with latch := r }.sched 0 (regEvent s e.off e.data e.ben)).sched 1 .latchedWriteApply)

/-- GATE_CLOSE (R461): after 2^24 idle cycles with GATEEN set the device is gated. -/
def execGateClose (s : State) : Out :=
  .next (if s.alder.gateen && decide (16777216 ≤ s.alder.idle) && s.alder.ctxs.isEmpty &&
    s.queues.toList.all (fun q => q.qtail == q.qhead) && s.wakeAt.isNone then { s with gated := true } else s)

/-! ## Register writes -/

/-- CQHEAD_WRITE (R405, R406): the host frees completion entries; completions that wait are written as far as there is room. -/
def execCqheadWrite (q : Nat) (v : BitVec 32) (s : State) : Out :=
  let s1 := s.modQueue q fun x => { x with cqhead := v }
  .next ((flushCompletions q (s1.queue q).waiting s1).sweepFences 16)

/-- FQHEAD_WRITE (R351): HEAD, at most TAIL; the held records are written in the next cycle. -/
def execFqheadWrite (die : Nat) (v : BitVec 32) (s : State) : Out :=
  .next (s.modDie die fun d => { d with fqhead := if 2147483648 ≤ (d.fqtail - v).toNat then d.fqtail else v })

/-- GHEAD_WRITE (R436): HEAD; an arrival that waits is admitted in the next cycle. (DEDUCED, log 47.) -/
def execGheadWrite (gate : Nat) (v : BitVec 32) (s : State) : Out :=
  .next (s.modGate gate fun y => { y with ghead := v, headDelay := y.headDelay || y.isFull })

/-- TRRHEAD_WRITE (R482): the host frees room of the trace ring for the blocks of this cycle. -/
def execTrrheadWrite (die : Nat) (v : BitVec 32) (s : State) : Out := .next (s.modDie die fun d => { d with trhead := v })

/-- A step is requested (R426). -/
def State.requestStep (s : State) (c : BitVec 2) : State := { s with stepReq := c, reqAt := some s.ptime }

/-- STEPREQ_WRITE (R426, R464): the step requested, and the fastest step that Alder may choose. (DEDUCED, log 63.) -/
def execStepreqWrite (v : BitVec 2) (s : State) : Out :=
  .next ({ s with alder := { s.alder with fastest := v } }.requestStep v)

/-- STOPATD_WRITE (R439): the package's STOPAT. -/
def execStopatdWrite (v : BitVec 64) (s : State) : Out := .next (s.setStopat v)

/-- The limits of the firmware values (R466), in the units of R366 and of EBUD. (DESIGN CHOICE, log 21.) -/
def mailboxOk (s : State) (k v : Nat) : Bool :=
  match k with
  | 1 => decide (480 ≤ v ∧ v ≤ 840)
  | 2 => decide (20 ≤ v ∧ v ≤ 200)
  | 3 => decide (s.alder.thot ≤ v ∧ v ≤ 840)
  | 4 => decide (16777216 ≤ v ∧ v ≤ 68719476736)
  | _ => false

/-- MBOXIN_WRITE (R459, R461, R466): a firmware event: Alder latches GATEEN from bit 0; a command sets a firmware value for the next sample
point, during phase 5 and within its limits. (DESIGN CHOICE, log 21.) -/
def execMboxinWrite (v : BitVec 64) (s : State) : Out :=
  let (k, x) := Config.mailbox v
  let a := { s.alder with gateen := v.getLsbD 0 }
  let a1 := if s.phase = 5 ∧ mailboxOk s k x then (match k with
    | 1 => { a with pendThot := some x }
    | 2 => { a with pendDhot := some x }
    | 3 => { a with pendTstep := some x }
    | _ => { a with pendEbud := some x }) else a
  .next { s with mboxin := v, alder := a1 }

/-- A register after a write under a mask of its writable bits: the others read as zero. -/
def masked (old data : W64) (ben : BitVec 8) (mask : W64) : W64 := mergeBen old data ben &&& mask

/-- Writes of queue registers (R405). -/
def writeQueue (q : HQueue) (o : Nat) (d : W64) (ben : BitVec 8) : HQueue :=
  match o with
  | 0x00 => { q with qbase := masked q.qbase d ben 0x000FFFFFFFFFF000 }
  | 0x08 => { q with qctl := masked q.qctl d ben 0x71F }
  | 0x20 => { q with cqbase := masked q.cqbase d ben 0x000FFFFFFFFFF000 }
  | _ => q

/-- Writes of fault-queue registers (R350). -/
def writeFq (x : Die) (o : Nat) (d : W64) (ben : BitVec 8) : Die :=
  match o with
  | 0x000 => { x with fqbase := masked x.fqbase d ben 0x000FFFFFFFFFF000 }
  | 0x008 => { x with fqctl := masked x.fqctl d ben 0x31F }
  | 0x020 => { x with fqwerr := x.fqwerr && !(mergeBen 0 d ben).getLsbD 2 }
  | _ => x

/-- Writes of gate registers (R435). -/
def writeGate (g : Gate) (o : Nat) (d : W64) (ben : BitVec 8) : Gate :=
  match o with
  | 0x00 => { g with gbase := masked g.gbase d ben 0x000FFFFFFFFFF000 }
  | 0x08 => { g with gctl := masked g.gctl d ben 0x17F }
  | 0x20 =>
    let w := mergeBen 0 d ben
    { g with lossBit := g.lossBit && !w.getLsbD 2, diverge := g.diverge && !w.getLsbD 3 }
  | 0x30 => { g with grlim := (mergeBen (g.grlim.setWidth 64) d ben).setWidth 32 }
  | _ => g

/-- Writes of trace registers (R449). -/
def writeTrace (x : Die) (o : Nat) (d : W64) (ben : BitVec 8) : Die :=
  let sel := fun (n : Nat) (m : W64) => { x with trsel := x.trsel.setIfInBounds n (masked (x.trsel.getD n 0) d ben m) }
  match o with
  | 0x00 => { x with trbase := masked x.trbase d ben 0x000FFFFFFFFFFF00 }
  | 0x08 => { x with trctl := masked x.trctl d ben 0xF31F }
  | 0x20 => sel 0 0x80000000000000FF
  | 0x28 => sel 1 0xFFFFFFFFFFFFFFFF
  | 0x30 => sel 2 0x800000FFFFFFFFFF
  | _ => x

/-- A write of DBGCTL (R448): ATTACH, and the requests as rows of their own. -/
def State.writeDbgctl (s : State) (d : W64) (ben : BitVec 8) : State :=
  let w := mergeBen 0 d ben
  let ask := fun (n : Nat) (i : Instr) => if w.getLsbD n then [Item.run i []] else []
  { s with
    attach := if ben.getLsbD 0 then d.getLsbD 0 else s.attach
    agenda := ask 1 .dbgctlFreeze ++ ask 2 .dbgctlResume ++ ask 3 .dbgctlDump ++ ask 4 .dbgctlRestore ++ s.agenda }

/-- Writes of the breakpoint registers (R448). -/
def State.writeIbp (s : State) (o : Nat) (d : W64) (ben : BitVec 8) : State :=
  let n := (o - 0x100) / 16
  let b := s.ibps.getD n ⟨0, 0⟩
  { s with ibps := s.ibps.setIfInBounds n (if o % 16 = 0 then { b with addr := mergeBen b.addr d ben }
      else { b with ctl := Sys2Proof.Machine.masked b.ctl d ben 0xFFFF0007 }) }

/-- REGISTER_WRITE (R13): a write under the access codes: read-only fields keep their value, bits of W1C fields that are written 1 are cleared,
an offset outside the blocks discards it (R402). -/
def execRegisterWrite (off : Nat) (data : BitVec 64) (ben : BitVec 8) (s : State) : Out :=
  .next (if 0x1000 ≤ off ∧ off < 0x1400 then s.modQueue ((off - 0x1000) / 0x40) fun q => writeQueue q (off % 0x40) data ben
  else if 0x100000 ≤ off ∧ off < 0x140000 then s.modDie ((off - 0x100000) / 0x10000) fun x => writeFq x (off % 0x10000) data ben
  else if 0x200000 ≤ off ∧ off < 0x201200 then s.modGate ((off - 0x200000) / 0x100) fun g => writeGate g (off % 0x100) data ben
  else if off = 0x204028 then s.writeDbgctl data ben
  else if 0x204100 ≤ off ∧ off < 0x204180 then s.writeIbp (off - 0x204000) data ben
  else if 0x205000 ≤ off ∧ off < 0x205400 then s.modDie ((off - 0x205000) / 0x100) fun x => writeTrace x (off % 0x100) data ben
  else if 0x300000 ≤ off ∧ off < 0x301000 ∧ off % 0x100 = 0 then
    s.modPort ((off - 0x300000) / 0x100) fun p => { p with unreach := p.unreach && !(mergeBen 0 data ben).getLsbD 3 }
  else s)

end Sys2Proof.Machine
end

