-- ==== Sys2Proof/Machine/Thermal.lean ====
section
/-! DEFINITION. Clocks and power that Alder governs (spec/15 R425 to R430; spec/12 R366, R367; spec/16 R463 to R467): sample points, steps,
stretches, the leave refill rate, the correction of wall time. -/
namespace Sys2Proof.Machine

/-! ## Samples (R366, R367) -/

def smpTemp (x : BitVec 32) : Nat := (x.extractLsb' 0 11).toNat
def smpDroop (x : BitVec 32) : Nat := (x.extractLsb' 11 8).toNat
def smpValid (x : BitVec 32) : Bool := x.getLsbD 31

/-- The class of a sample: high, low or neither (R367). -/
def smpHigh (thot dhot : Nat) (x : BitVec 32) : Bool := !smpValid x || decide (thot ≤ smpTemp x) || decide (dhot ≤ smpDroop x)
def smpLow (thot dhot : Nat) (x : BitVec 32) : Bool := smpValid x && decide (smpTemp x + 48 ≤ thot) && decide (smpDroop x + 10 ≤ dhot)

/-- A core's thermal state after a sample (R367). -/
def Core.sampled (c : Core) (thot dhot : Nat) (x : BitVec 32) : Core :=
  let hi := if smpHigh thot dhot x then c.hi + 1 else 0
  let lo := if smpLow thot dhot x then c.lo + 1 else 0
  let hot1 := if !c.hot && 2 ≤ hi then true else c.hot
  { c with hi := hi, lo := lo, hot := if hot1 && 2 ≤ lo then false else hot1 }

/-- The firmware values that commands have set take effect (R466). -/
def Alder.takeValues (a : Alder) : Alder :=
  { a with
    thot := a.pendThot.getD a.thot, dhot := a.pendDhot.getD a.dhot, tstep := a.pendTstep.getD a.tstep, ebud := a.pendEbud.getD a.ebud
    pendThot := none, pendDhot := none, pendTstep := none, pendEbud := none }

/-- The samples enter the thermal state of the cores, in core order. -/
def State.sampleCores (s : State) : Nat → List (BitVec 32) → State
  | _, [] => s
  | i, x :: r => (s.modCore i fun c => c.sampled s.alder.thot s.alder.dhot x).sampleCores (i + 1) r

/-- The consecutive invalid samples of each core (R467). -/
def tripCounts (m : KMap Nat) : Nat → List (BitVec 32) → KMap Nat
  | _, [] => m
  | i, x :: r => tripCounts (if smpValid x then kdel m i else kset m i (kgetD m i 0 + 1)) (i + 1) r

/-- The largest temperature at which a core trips: 110 degrees (R466). -/
def tTrip : Nat := 880

/-- The next step that Alder requests (R464): slower under heat, S when the current step is faster than S, faster after 4 quiet points. (DEDUCED, log 63.) -/
def State.chooseStep (s : State) (hot : Bool) : State :=
  let cur := s.step.toNat
  let lim := s.alder.fastest.toNat
  let good := if hot then 0 else s.alder.good + 1
  let s1 := { s with alder := { s.alder with good := good } }
  if cur < lim ∨ hot then
    let want := max lim (if hot then min 3 (cur + 1) else cur)
    if want = cur then s1 else s1.requestStep (BitVec.ofNat 2 want)
  else if 4 ≤ good ∧ lim < cur then s1.requestStep (BitVec.ofNat 2 (cur - 1))
  else s1

/-- The leave budget of a point (R465). -/
def State.chooseLrate (s : State) : State :=
  let a := s.alder
  let new := if a.ebud < a.e then max 1 (a.lrate - 1) else if a.e * 4 < a.ebud * 3 then min 4 (a.lrate + 1) else a.lrate
  let s1 := { s with alder := { a with e := 0, lrate := new } }
  if a.ebud < a.e ∨ a.e * 4 < a.ebud * 3 then
    (List.range 32).foldl (fun s w => s.sched (willowDelay w) .willowLrate [w, new]) s1
  else s1

/-- A thermal trip (R467): every active context is halted, step 3 is requested and S is 3 until the host writes STEPREQ. -/
def State.trip (s : State) : State :=
  let s1 := s.alder.ctxs.foldl (fun s c => s.haltCtx c.id) s
  { s1 with alder := { s1.alder with fastest := 3 } }.requestStep 3

/-- SAMPLE_POINT (R367, R464 to R467): the samples of a point are applied in the cycle in which they are logged: the firmware values, the
thermal state, the step, the leave budget, a trip. A core that has turned hot or cool lets a placement pass run in the next cycle (R362). -/
def execSamplePoint (samples : List (BitVec 32)) (s : State) : Out :=
  let s0 := { s with alder := s.alder.takeValues }
  let s1 := { s0 with alder := { s0.alder with trips := tripCounts s0.alder.trips 0 samples } }.sampleCores 0 samples
  let hot := samples.any (fun x => smpValid x && decide (s1.alder.tstep ≤ smpTemp x)) ||
    decide (32 ≤ (s1.cores.filter (·.2.hot)).length)
  let s2 := (s1.chooseStep hot).chooseLrate
  let trips := samples.any (fun x => smpValid x && decide (tTrip ≤ smpTemp x)) || s2.alder.trips.any fun p => decide (2 ≤ p.2)
  let turned := (List.range 320).any fun c => (s.core c).hot != (s1.core c).hot
  let s3 := if turned then { s2 with alder := { s2.alder with passDue := true } } else s2
  .next (if trips then s3.trip else s3)

/-- WILLOW_LRATE (R465): the cores of the grove take the new rate from the next cycle on. -/
def execWillowLrate (s : State) : Out :=
  .next ((groveCores s.a0).foldl (fun s c => s.modCore c fun x => { x with lrateNext := some s.a1 }) s)

/-! ## Steps, stretches, wall time -/

/-- Whether a requested step takes effect at a PTIME (R426): at a boundary, 48,000 ticks or more after the request. Reduced service keeps
its step (R460). (DEDUCED, log 63.) -/
def State.stepDue (s : State) (t : Nat) : Bool :=
  match s.reqAt with
  | some a => decide (t % 24000 = 0 ∧ a + 48000 ≤ t) && !s.reduced
  | none => false

/-- STEP_BOUNDARY (R426): the requested step is in force from the boundary on, and the sensor gate logs the change; what
stands for a PTIME moves to the cycle that reaches it (R429). -/
def execStepBoundary (s : State) : Out :=
  .next (if s.stepDue s.ptime then
    let s1 := { s with step := s.stepReq, reqAt := none }.retime
    if s.stepReq = s.step then s1 else s1.sched 0 (.gateAdmit 17 (.stepEvent s.stepReq))
  else s)

/-- DROOP_STRETCH (R427): a detector of a die fires; the package stretches one period 0 to 3 cycles later, unless a stretch began less
than 64 cycles ago. It changes no count of cycles and no PTIME. -/
def execDroopStretch (s : State) : Out :=
  .next (if s.ccount < s.stretchHold then s
  else { s with strcnt := s.strcnt + 1, stretchHold := s.ccount + min s.a1 3 + 64 })

/-- WCORR_APPLY (R430): wall time is corrected; it never decreases. -/
def execWcorrApply (w q : BitVec 64) (s : State) : Out :=
  let lo := 0x0AAAAAAA - 1048576
  let hi := 0x0AAAAAAA + 1048576
  .next { s with pbase := s.ptime, wbase := max s.wtime w.toNat, rate := min hi (max lo q.toNat) }

end Sys2Proof.Machine
end

