-- ==== Sys2Proof/Machine/Boot.lean ====
section
/-! DEFINITION. Reset, boot and bring-up (spec/16 R456 to R460; spec/19 R485), freezing and peat images (spec/15 R439 to R443). -/
namespace Sys2Proof.Machine

/-! ## Boot (R456, R457) -/

/-- RESET (R456): the state after reset, in phase 1 of the bring-up. What lies outside the machine stays: the boot flash, host memory, what
has been sent and what is about to arrive; and the module's number. -/
def execReset (s : State) : Out :=
  .next { State.reset with
    phase := 1, flash := s.flash, hostMem := s.hostMem, sent := s.sent, inbox := s.inbox, modNum := s.modNum
    linkWidth := s.linkWidth, linkRate := s.linkRate, hostAtomics := s.hostAtomics }

/-- How the verification of an image ends: 0 good; 1 signature or digest; 2 rollback; 3 header (R456, R457, R459). (PRESUMED, log 17.) -/
def State.imageErr (s : State) (image : List Byte) : Nat :=
  let n := fun i k : Nat => fieldN image i k
  let key := (image.drop 16).take 512
  let keysig := (image.drop 1040).take 64
  let digest := sha512 key
  let first := s.bootNext = 1
  if image.length < 2048 ∨ n 0 4 ≠ 0x46490001 ∨ n 4 4 ≠ s.bootNext ∨ n 12 4 ≠ image.length - 2048 ∨
    ((image.drop 1104).take 944).any (· != 0) = true ∨ (first ∧ keysig.any (· != 0) = true) then 3
  else if n 8 4 < Config.rollback.toNat then 2
  else if first ∧ digest ≠ beBytes 64 Config.fusedDigest.toNat then 1
  else if !decide first ∧ (keysig ≠ digest ∨ digest ≠ beBytes 64 s.alderKey.toNat) then 1
  else if pssValid (bytesNat key) (beNat ((image.drop 528).take 512)) (image.take 16 ++ image.drop 2048) then 0 else 1

/-- The outcome of the training or calibration of a phase (R460): ERR 4 or 6 in phase 2, 5 or 6 in phase 4, with its die. (PRESUMED, log 17.) -/
def trainingOf (phase : Nat) : Nat × Nat :=
  let (e, d) := Config.training phase
  let ok := (phase = 2 ∧ (e = 4 ∨ e = 6)) ∨ (phase = 4 ∧ (e = 5 ∨ e = 6))
  if ok then (e.toNat, d.toNat % 4) else (0, 0)

/-- The end of a phase is scheduled (R460). (PRESUMED, log 17.) -/
def State.schedPhase (s : State) (phase : Nat) : State := s.schedPath .bringupPhase [(trainingOf phase).1, (trainingOf phase).2]

/-- BOOT_IMAGE_VERIFY (R457): the next image of the chain is checked; a good one extends its measurement register, and the last one ends
phase 1. A bad one stops the boot. -/
def execBootImageVerify (image : List (BitVec 8)) (s : State) : Out :=
  .next (if s.phase ≠ 1 ∨ s.bootErr ≠ 0 ∨ s.bootNext = 0 ∨ 5 ≤ s.bootNext then s else
    let e := s.imageErr image
    if e ≠ 0 then { s with bootErr := BitVec.ofNat 8 e } else
    let k := s.bootNext - 1
    let ext := sha512 (beBytes 64 (s.mr.getD k 0).toNat ++ sha512 image)
    let s1 := { s with
      mr := s.mr.setIfInBounds k (BitVec.ofNat 512 (beNat ext))
      alderKey := if s.bootNext = 1 then BitVec.ofNat 512 (beNat (sha512 ((image.drop 16).take 512))) else s.alderKey
      bootNext := s.bootNext + 1 }
    if s1.bootNext = 5 then s1.schedPhase 1 else s1)

/-! ## Bring-up (R460) -/

/-- Zeroes the memory of a kind (R424). -/
def State.zeroMem (s : State) (kind : Nat → Bool) : State :=
  { s with mem := s.mem.filter (fun p => !kind p.1), poison := s.poison.filter fun a => !(paClass a == 0 && kind (paLow a)) }

/-- The allowance of every die for the modules of the pod (R416). -/
def State.setSal (s : State) : State :=
  let pod := (s.salcfg.extractLsb' 8 9).toNat
  let one := (List.range 256).foldl (fun (m : SMap 20) d => sset m d (if d < pod ∧ d ≠ s.modNum.toNat then BitVec.ofNat 20 salGrant else 0)) []
  { s with dies := Vector.ofFn fun (i : Fin 4) => { s.die i.val with sal := one } }

/-- BRINGUP_PHASE (R460): a phase ends and the next begins; a failure is reported, and after one in phase 4 reduced service goes on. (DEDUCED, log 63.) -/
def execBringupPhase (s : State) : Out :=
  .next (if s.a0 ≠ 0 then { s with bootErr := BitVec.ofNat 8 s.a0, errDie := BitVec.ofNat 4 s.a1 }
  else match s.phase.toNat with
    | 1 => { s with phase := 2 }.schedPhase 2
    | 2 => { s with phase := 3 }.schedPhase 3
    | 3 => { s.zeroMem isLpddr with phase := 4, reduced := true }.schedPhase 4
    | 4 => { s.setSal with phase := 5, peatbase := Config.peatBase &&& 0x000FFFFFFFFFF000, peatsize := Config.peatSize }.schedPhase 5
    | 5 => s.zeroMem isBonded
    | _ => s)

/-- FULL_SERVICE_ENTRY (R460): with no context active the device enters full service. -/
def execFullServiceEntry (s : State) : Out :=
  .next (if s.phase = 5 ∧ s.alder.ctxs.isEmpty = true then { s with phase := 6, reduced := false, full := true } else s)

/-- RSTREQ_RST (R485): the deterministic domain is reset and bring-up restarts from the boot ROM; the always-on domain, the gates' GBASE,
GCTL and GRLIM, the time and debug registers other than STOPATD and STEPR, and DRAM keep their state. -/
def execRstreqRst (s : State) : Out :=
  let g := fun y : Gate => { y with ghead := 0, gtail := 0, outsig := 0, outcnt := 0, lost := 0, headDelay := false }
  .next { s with
    toDomain := { Domain.reset with modNum := s.modNum }
    gates := Vector.ofFn fun (i : Fin 18) => g (s.gates.getD i.val Gate.reset)
    phase := 1, bootErr := 0, errDie := 0, bootNext := 1, mr := Vector.replicate 4 0, alderKey := 0, bpSkip := [] }

/-! ## Freezing (R439 to R443) -/

/-- STOPAT_REACHED (R439): the package freezes with cause STOPAT. -/
def execStopatReached (s : State) : Out := .next { s.freeze 0 0 with stopHit := true }

/-- DBGCTL_FREEZE (R440): a debugger write freezes the package. -/
def execDbgctlFreeze (s : State) : Out := .next (s.freeze 4 0)

/-- DBGCTL_RESUME (R441): a frozen package goes on with its next cycle; without effect while it runs or while an image is written. -/
def execDbgctlResume (s : State) : Out := .next (if s.frozen && !s.scanning then { s with frozen := false } else s)

/-- DBGCTL_DUMP (R442): while frozen the scan engine starts to write the image; without effect otherwise or during a scan. (DESIGN CHOICE, log 18.) -/
def execDbgctlDump (s : State) : Out := .next (if s.frozen && !s.scanning then { s with scanning := true } else s)

/-- The 256 bytes of a peat image's header (R442). -/
def Peat.header (p : Peat) : List Byte :=
  natBytes 4 0x50450001 ++ natBytes 4 0 ++ natBytes 8 p.ptime ++ natBytes 8 p.ccount ++ wBytes 1 p.step ++
    (match p.pstep with | some c => wBytes 1 c | none => [0xFF]) ++ wBytes 2 p.fcause ++ wBytes 4 p.strcnt ++
    wBytes 8 (Config.peatShape 0) ++ wBytes 8 (Config.peatShape 1) ++ wBytes 4 (Config.peatShape 2) ++ natBytes 12 0 ++
    p.nextseq.flatMap (fun w => wBytes 4 w) ++ natBytes 120 0

/-- PEAT_IMAGE_COMPLETE (R442): the image holds every state of the domain at the frozen cycle; its header stands at PEATBASE. (DESIGN CHOICE, log 18.) -/
def execPeatImageComplete (s : State) : Out :=
  .next (if s.frozen && s.scanning then
    let new := s.stepDue (s.ptime + s.tpc)
    let p : Peat := {
      ptime := s.ptime, ccount := s.ccount, step := if new then s.stepReq else s.step
      pstep := if s.reqAt.isSome && !new then some s.stepReq else none
      fcause := s.fcause, strcnt := s.strcnt, nextseq := s.gates.toList.map (·.gtail), dom := s.toDomain }
    let o := paLow s.peatbase.toNat
    let s1 := { s with peat := some p, dumped := true, scanning := false }
    if isLpddr o then s1.setDramL o p.header else s1
  else s)

/-- DBGCTL_RESTORE (R442): while frozen the image's state is loaded into the domain; the link level of the ports is outside of it (R423).
Without an image there is nothing to load. (DESIGN CHOICE, log 18.) -/
def execDbgctlRestore (s : State) : Out :=
  .next (match s.peat with
  | some p => if s.frozen && !s.scanning then { s with toDomain := { p.dom with ports := s.ports } } else s
  | none => s)

end Sys2Proof.Machine
end

