-- ==== Sys2Proof/Machine/Trace.lean ====
section
/-! DEFINITION. Trace (spec/15 R449 to R453, spec/19 R482): how the packets of a cycle enter a core's buffer, intervals, resynchronisation,
ring blocks, stall samples. -/
namespace Sys2Proof.Machine

/-- The trace registers of a core's die. -/
def State.trDie (s : State) (core : Nat) : Die := s.die (dieOf core)
def Die.traceOn (d : Die) : Bool := d.trctl.getLsbD 8

/-! ## The buffer (R449, R451, R452, R482) -/

/-- Core-buffer bytes (R449). -/
def trCap : Nat := 2048

/-- The order of the kinds of packets within one cycle (R482). -/
def trOrder (kind : Nat) : Nat :=
  match kind with
  | 0xB => 0
  | 1 => 1
  | 2 => 2
  | 3 => 3
  | 4 => 4
  | 7 => 5
  | 6 => 6
  | 5 => 7
  | 8 => 8
  | 9 => 9
  | _ => 10

/-- The fewest bytes that hold a delta (R482). -/
def dlen : Nat → Nat → Nat
  | 0, _ => 0
  | f + 1, x => if x = 0 then 0 else 1 + dlen f (x / 256)

/-- The bytes of a packet (R451): SYNC and LOSS have no delta. -/
def trPacket (kind delta : Nat) (payload : List Byte) : List Byte :=
  let n := if kind = 1 ∨ kind = 0xB then 0 else dlen 8 delta
  natBytes 1 (kind * 16 + n) ++ natBytes n delta ++ payload

/-- One packet enters the buffer, or is dropped whole where it does not fit or an earlier one was dropped (R452, R482). -/
def Trace.write (t : Trace) (now cycle : Nat) (p : Nat × List Byte) : Trace :=
  let bs := trPacket p.1 (now - t.prev) p.2
  if t.dropping || decide (trCap < t.buf.length + bs.length) then
    { t with prev := now, dropping := true, dropP := t.dropP + 1, dropB := t.dropB + bs.length }
  else { t with prev := now, buf := t.buf ++ bs, stamps := t.stamps ++ [(cycle, bs.length)] }

/-- The packets of a cycle enter the buffer at its end, in the order of R482. -/
def Trace.flush (t : Trace) (now cycle : Nat) : Trace :=
  (sortBy (fun a b : Nat × List Byte => decide (trOrder a.1 ≤ trOrder b.1)) t.now).foldl (fun t p => t.write now cycle p) { t with now := [] }
def State.traceFlush (s : State) : State :=
  let upd := fun (c : Core) => if c.trace.now.isEmpty then c else { c with trace := c.trace.flush s.ptime s.ccount }
  { s with cores := s.cores.map fun p => (p.1, upd p.2) }

/-! ## Intervals (R450) and resynchronisation (R452) -/

/-- Whether an enabled comparator selects a group (R449). -/
def State.selects (s : State) (d : Die) (r : Group) : Bool :=
  let on := fun n : Nat => (d.trsel.getD n 0).getLsbD 63
  let v := fun n : Nat => (d.trsel.getD n 0).extractLsb' 0 63
  (on 0 && ((v 0).extractLsb' 0 8 == r.trctl.extractLsb' 8 8)) ||
    (on 1 && (match s.team? r.team with | some t => t.tid == (v 1).setWidth 64 | none => false)) ||
    (on 2 && (match r.found with
      | some (tag, region) => tag == (v 2).extractLsb' 0 32 && region == ((v 2).extractLsb' 32 8).toNat
      | none => false))

/-- The oldest resident group of a core that a comparator selects (R450, R369). -/
def State.traceChoice (s : State) (core : Nat) : Option Nat :=
  ((s.groups.filter fun p => coreOfG p.1 == core && s.selects (s.trDie core) p.2).foldl (fun (a : Option (Nat × Nat)) p =>
    match a with
    | some (_, age) => if p.2.age < age then some (p.1 % 32, p.2.age) else a
    | none => some (p.1 % 32, p.2.age)) none).map (·.1)

/-- The payload of a SYNC (R451, R482). -/
def State.syncPayload (s : State) (core : Nat) : List Byte :=
  let head := natBytes 8 s.ptime ++ natBytes 2 core
  match (s.core core).trace.sel with
  | none => head ++ [0xFF]
  | some i => match s.grp? (core * 32 + i) with
    | some r => head ++ natBytes 1 i ++ wBytes 8 r.lpc ++ wBytes 12 r.exec ++ natBytes 1 r.rs.length
    | none => head ++ [0xFF]

/-- TRACE_INTERVAL (R450): the core selects its group for the interval and writes a SYNC; while packets are being dropped the SYNC comes with
the LOSS packet (R452). -/
def execTraceInterval (s : State) : Out :=
  let core := s.a0
  .next (if !(s.trDie core).traceOn then s.modCore core fun c => { c with trace := { c.trace with sel := none } } else
    let pick := s.traceChoice core
    let s1 := s.modCore core fun c => { c with trace := { c.trace with sel := pick } }
    if (s1.core core).trace.dropping then s1 else s1.tracePut core 1 (s1.syncPayload core))

/-- TRACE_RESYNC (R452, R482): with 64 bytes free again, LOSS counts what was dropped and a SYNC follows. -/
def execTraceResync (s : State) : Out :=
  let core := s.a0
  let t := (s.core core).trace
  .next (if t.dropping && decide (t.buf.length + 64 ≤ trCap) then
    let s1 := s.tracePut core 0xB (natBytes 4 t.dropP ++ natBytes 4 t.dropB)
    let s2 := s1.modCore core fun c => { c with trace := { c.trace with dropping := false, dropP := 0, dropB := 0 } }
    s2.tracePut core 1 (s2.syncPayload core)
  else s)

/-! ## Ring blocks (R482) -/

/-- Whether a core has bytes for a block: 252 of them, or one that has waited 1,024 cycles. -/
def Trace.blockDue (t : Trace) (cycle : Nat) : Bool :=
  decide (252 ≤ t.buf.length) || (match t.stamps with | (c, _) :: _ => decide (c + 1024 ≤ cycle) | [] => false)

/-- Whether a die's ring has room for a block (R482). -/
def Die.ringRoom (d : Die) : Bool :=
  let n := (d.trctl.extractLsb' 0 5).toNat
  decide (4 ≤ n ∧ n ≤ 24) && decide ((d.trtail - d.trhead).toNat ≤ (2 ^ n - 1) * 256)

/-- Drops n bytes from the stamps. -/
def dropStamps : Nat → List (Nat × Nat) → List (Nat × Nat)
  | _, [] => []
  | n, (c, k) :: r => if k ≤ n then dropStamps (n - k) r else (c, k - n) :: r

/-- TRACE_BLOCK_WRITE (R482): one block of 256 bytes goes to the die's ring. -/
def execTraceBlockWrite (s : State) : Out :=
  let core := s.a0
  let t := (s.core core).trace
  let d := s.trDie core
  .next (if t.blockDue s.ccount && d.ringRoom then
    let bs := t.buf.take 252
    let blk := natBytes 2 core ++ natBytes 2 bs.length ++ bs ++ List.replicate (252 - bs.length) 0
    let a := (d.trbase.extractLsb' 8 44).toNat * 256 + d.trtail.toNat % (2 ^ (d.trctl.extractLsb' 0 5).toNat * 256)
    let s1 := (s.ringWrite a blk).getD s
    (s1.modDie (dieOf core) fun d => { d with trtail := d.trtail + 256 }).modCore core fun c => { c with
      trace := { c.trace with buf := c.trace.buf.drop 252, stamps := dropStamps bs.length c.trace.stamps } }
  else s)

/-! ## Stall samples (R453) -/

/-- The reason of a parked group. -/
def Park.reason : Park → Nat
  | .barrier _ => 9
  | .fen => 10
  | .sal _ => 11
  | .watch => 12
  | .grant => 13
  | .regroup => 14

/-- Whether a register move runs in the slot of a group (R374). -/
def State.moving (s : State) (g : Nat) : Bool :=
  (s.core (coreOfG g)).moves.any fun m => m.until_.isSome && s.groups.any fun p =>
    p.2.team == m.team && slotOfG p.1 == slotOfG g && coreOfG p.1 == coreOfG g

/-- The oldest outstanding operation of a counter. -/
def Group.oldestOut (r : Group) (c : Ctr) : W64 := ((r.outs.find? fun o => o.ctr == c).map (·.pc)).getD 0

/-- The first counter that is above its limit (R169). -/
def overLimit (r : Group) (l st c t : BitVec 3) : Ctr :=
  if l.toNat < r.ctr .ldc then .ldc else if st.toNat < r.ctr .stc then .stc
  else if c.toNat < r.ctr .cpc then .cpc else if t.toNat < r.ctr .tlc then .tlc else .ldc

/-- The reason and the producer of a scalar stream that does not issue. (DEDUCED, log 48.) -/
def State.stallS (s : State) (g : Nat) (r : Group) (i : Option Instr) : Nat × W64 :=
  match (if r.scalarParked then r.parked else none) with
  | some p => (p.reason, 0)
  | none =>
    if s.moving g then (15, 0) else
    match i with
    | none => (2, 0)
    | some i =>
      let n := scalarNeeds i
      let wait := match i with
        | .swaitc a b c d => some (overLimit r a b c d)
        | .swaitp .ldc _ => some .ldc
        | .swaitp .stc _ => some .stc
        | .swaitp .cpc _ | .swaitp .cp _ => some .cpc
        | .swaitp .tlc _ => some .tlc
        | _ => none
      let enq : Bool := match i with
        | .lenq _ | .lenqr _ => true
        | _ => false
      if r.drained && wait.isSome then (6, (wait.map r.oldestOut).getD 0)
      else if State.mustDrain r n && !r.drained then (7, 0)
      else match (n.reads ++ n.dest.toList).findSome? r.pend? with
        | some p => (1, p.pc)
        | none => match n.ctr with
          | some c => if 63 ≤ r.ctr c then (5, r.oldestOut c) else (2, 0)
          | none => if enq && decide (8 ≤ r.lq.length) then (4, 0) else (2, 0)

/-- The registers that a lane data instruction names by its shared fields. -/
def laneNames (f : LaneF) : List Nat :=
  [f.vd.toNat, f.va.toNat] ++ (match f.b with | .reg x => [x.toNat] | _ => []) ++ (f.vc.map (·.toNat)).toList

/-- The reason and the producer of a lane stream that does not issue. (DEDUCED, log 48.) -/
def State.stallL (s : State) (g : Nat) (r : Group) (i : Option Instr) : Nat × W64 :=
  match r.parked with
  | some p => (p.reason, 0)
  | none =>
    if s.moving g then (15, 0) else if r.laneIdle then (3, 0) else
    match i with
    | none => (2, 0)
    | some i => match i with
      | .vwaitc a b c d => (6, r.oldestOut (overLimit r a b c d))
      | _ =>
        let names := ((laneF? i).map laneNames).getD []
        let hit := r.pendV.find? fun p => p.mask || names.any fun x => decide (p.lo ≤ x + 1 ∧ x < p.lo + p.n)
        if 8 ≤ (r.lres.filter (·.sfu)).length then (8, ((r.lres.find? (·.sfu)).map (·.pc)).getD 0)
        else match hit with
          | some p => (1, p.pc)
          | none => (match [Ctr.ldc, .stc, .tlc].find? fun c => decide (63 ≤ r.ctr c) with
            | some c => (5, r.oldestOut c)
            | none => (2, 0))

/-- The instruction at a stream's program counter, where it can be fetched. -/
def State.peek (s : State) (c : Cur) : Option Instr :=
  match ({ s with cur := c }.fetchCur).1 with
  | .instr i => some i
  | _ => none

/-- STALL_SAMPLE (R453): the sampled group's streams, the ones that issue in this cycle standing in the agenda. -/
def execStallSample (s : State) : Out :=
  let core := s.a0
  let n := (s.core core).trace.samples % 32
  let s0 := s.modCore core fun c => { c with trace := { c.trace with samples := c.trace.samples + 1 } }
  let g := core * 32 + n
  .next (match s0.grp? g with
  | none => s0
  | some r =>
    let (a, pa) := if s0.agenda.contains (.scalar g) then (0, (0 : W64)) else s0.stallS g r (s0.peek (.scalar g))
    let (b, pb) := if s0.agenda.contains (.lane g) then (0, (0 : W64)) else s0.stallL g r (s0.peek (.lane g))
    (s0.tracePut core 0xA (natBytes 1 n ++ [0] ++ natBytes 1 a ++ wBytes 8 r.spc ++ wBytes 8 pa)).tracePut core 0xA
      (natBytes 1 n ++ [1] ++ natBytes 1 b ++ wBytes 8 r.lpc ++ wBytes 8 pb))

end Sys2Proof.Machine
end

