-- ==== Sys2Proof/Machine/Dispatch.lean ====
section
/-! DEFINITION. What each instruction does: one arm for each constructor of `Instr`, each a call of its meaning. -/
namespace Sys2Proof.Machine

def exec (i : Instr) (s : State) : Host.Outcome State Fault Refusal :=
  match i with
  | .sadd d a b => Sys2Proof.Machine.execSadd d a b s
  | .ssub d a b => Sys2Proof.Machine.execSsub d a b s
  | .smul d a b => Sys2Proof.Machine.execSmul d a b s
  | .smulh d a b => Sys2Proof.Machine.execSmulh d a b s
  | .sdiv d a b => Sys2Proof.Machine.execSdiv d a b s
  | .sdivu d a b => Sys2Proof.Machine.execSdivu d a b s
  | .srem d a b => Sys2Proof.Machine.execSrem d a b s
  | .sand d a b => Sys2Proof.Machine.execSand d a b s
  | .sor d a b => Sys2Proof.Machine.execSor d a b s
  | .sxor d a b => Sys2Proof.Machine.execSxor d a b s
  | .sshl d a b => Sys2Proof.Machine.execSshl d a b s
  | .sshr d a b => Sys2Proof.Machine.execSshr d a b s
  | .ssra d a b => Sys2Proof.Machine.execSsra d a b s
  | .smin d a b => Sys2Proof.Machine.execSmin d a b s
  | .smax d a b => Sys2Proof.Machine.execSmax d a b s
  | .sminu d a b => Sys2Proof.Machine.execSminu d a b s
  | .smaxu d a b => Sys2Proof.Machine.execSmaxu d a b s
  | .scmp c d a b => Sys2Proof.Machine.execScmp c d a b s
  | .ssel d c a b => Sys2Proof.Machine.execSsel d c a b s
  | .spopc d a => Sys2Proof.Machine.execSpopc d a s
  | .sclz d a => Sys2Proof.Machine.execSclz d a s
  | .saddi d a imm => Sys2Proof.Machine.execSaddi d a imm s
  | .sandi d a imm => Sys2Proof.Machine.execSandi d a imm s
  | .sori d a imm => Sys2Proof.Machine.execSori d a imm s
  | .sxori d a imm => Sys2Proof.Machine.execSxori d a imm s
  | .sshli d a n => Sys2Proof.Machine.execSshli d a n s
  | .sshri d a n => Sys2Proof.Machine.execSshri d a n s
  | .ssrai d a n => Sys2Proof.Machine.execSsrai d a n s
  | .smuli d a imm => Sys2Proof.Machine.execSmuli d a imm s
  | .sli d imm => Sys2Proof.Machine.execSli d imm s
  | .slui d imm => Sys2Proof.Machine.execSlui d imm s
  | .slxi d imm => Sys2Proof.Machine.execSlxi d imm s
  | .sldb d a imm => Sys2Proof.Machine.execSldb d a imm s
  | .sldh d a imm => Sys2Proof.Machine.execSldh d a imm s
  | .sldw d a imm => Sys2Proof.Machine.execSldw d a imm s
  | .sldd d a imm => Sys2Proof.Machine.execSldd d a imm s
  | .sstb d a imm => Sys2Proof.Machine.execSstb d a imm s
  | .ssth d a imm => Sys2Proof.Machine.execSsth d a imm s
  | .sstw d a imm => Sys2Proof.Machine.execSstw d a imm s
  | .sstd d a imm => Sys2Proof.Machine.execSstd d a imm s
  | .sldsp d a imm => Sys2Proof.Machine.execSldsp d a imm s
  | .sstsp d a imm => Sys2Proof.Machine.execSstsp d a imm s
  | .satom op sc d a b => Sys2Proof.Machine.execSatom op sc d a b s
  | .scas sc d a b => Sys2Proof.Machine.execScas sc d a b s
  | .sbr c a off => Sys2Proof.Machine.execSbr c a off s
  | .sjmp off => Sys2Proof.Machine.execSjmp off s
  | .sjmpr a => Sys2Proof.Machine.execSjmpr a s
  | .scall d off => Sys2Proof.Machine.execScall d off s
  | .scallr d a => Sys2Proof.Machine.execScallr d a s
  | .sret a => Sys2Proof.Machine.execSret a s
  | .lenq off => Sys2Proof.Machine.execLenq off s
  | .lenqr a => Sys2Proof.Machine.execLenqr a s
  | .svrd d a n => Sys2Proof.Machine.execSvrd d a n s
  | .swaitc l sv c t => Sys2Proof.Machine.execSwaitc l sv c t s
  | .swaitp p a => Sys2Proof.Machine.execSwaitp p a s
  | .sfence sc => Sys2Proof.Machine.execSfence sc s
  | .swaita a imm => Sys2Proof.Machine.execSwaita a imm s
  | .bara n sc => Sys2Proof.Machine.execBara n sc s
  | .barw n sc => Sys2Proof.Machine.execBarw n sc s
  | .baraw n sc => Sys2Proof.Machine.execBaraw n sc s
  | .barinit n a b => Sys2Proof.Machine.execBarinit n a b s
  | .srds d a imm => Sys2Proof.Machine.execSrds d a imm s
  | .swrs a imm => Sys2Proof.Machine.execSwrs a imm s
  | .strap code => Sys2Proof.Machine.execStrap code s
  | .sbrk code => Sys2Proof.Machine.execSbrk code s
  | .sal d a => Sys2Proof.Machine.execSal d a s
  | .sbsal e a off => Sys2Proof.Machine.execSbsal e a off s
  | .stime d wall => Sys2Proof.Machine.execStime d wall s
  | .spop a => Sys2Proof.Machine.execSpop a s
  | .unassignedOpcode st e => Sys2Proof.Machine.execUnassignedOpcode st e s
  | .cpy1d d a b => Sys2Proof.Machine.execCpy1d d a b s
  | .cpy2d d a b => Sys2Proof.Machine.execCpy2d d a b s
  | .cpyt d a b => Sys2Proof.Machine.execCpyt d a b s
  | .cpyres d a b => Sys2Proof.Machine.execCpyres d a b s
  | .cseal d a b => Sys2Proof.Machine.execCseal d a b s
  | .cwaitb d a b => Sys2Proof.Machine.execCwaitb d a b s
  | .cstat d a b => Sys2Proof.Machine.execCstat d a b s
  | .bxfer d a b => Sys2Proof.Machine.execBxfer d a b s
  | .btarg d a b => Sys2Proof.Machine.execBtarg d a b s
  | .fsdep d a b => Sys2Proof.Machine.execFsdep d a b s
  | .fstake d a b => Sys2Proof.Machine.execFstake d a b s
  | .fscpy d a b => Sys2Proof.Machine.execFscpy d a b s
  | .fcfgCreate d a b => Sys2Proof.Machine.execFcfgCreate d a b s
  | .fcfgDelete d a b => Sys2Proof.Machine.execFcfgDelete d a b s
  | .fcfgReadCounters d a b => Sys2Proof.Machine.execFcfgReadCounters d a b s
  | .xatom d a b => Sys2Proof.Machine.execXatom d a b s
  | .trmark d a b => Sys2Proof.Machine.execTrmark d a b s
  | .wpset d a b => Sys2Proof.Machine.execWpset d a b s
  | .vadd f sat => Sys2Proof.Machine.execVadd f sat s
  | .vsub f sat => Sys2Proof.Machine.execVsub f sat s
  | .vmul f => Sys2Proof.Machine.execVmul f s
  | .vmulh f => Sys2Proof.Machine.execVmulh f s
  | .vmad f => Sys2Proof.Machine.execVmad f s
  | .vand f => Sys2Proof.Machine.execVand f s
  | .vor f => Sys2Proof.Machine.execVor f s
  | .vxor f => Sys2Proof.Machine.execVxor f s
  | .vnot f => Sys2Proof.Machine.execVnot f s
  | .vshl f => Sys2Proof.Machine.execVshl f s
  | .vshr f => Sys2Proof.Machine.execVshr f s
  | .vsra f => Sys2Proof.Machine.execVsra f s
  | .vmin f => Sys2Proof.Machine.execVmin f s
  | .vmax f => Sys2Proof.Machine.execVmax f s
  | .vabs f sat => Sys2Proof.Machine.execVabs f sat s
  | .vneg f sat => Sys2Proof.Machine.execVneg f sat s
  | .vpopc f => Sys2Proof.Machine.execVpopc f s
  | .vclz f => Sys2Proof.Machine.execVclz f s
  | .vbfx f => Sys2Proof.Machine.execVbfx f s
  | .vbfi f => Sys2Proof.Machine.execVbfi f s
  | .vsel f k => Sys2Proof.Machine.execVsel f k s
  | .vcmp f c any => Sys2Proof.Machine.execVcmp f c any s
  | .vaddc f k => Sys2Proof.Machine.execVaddc f k s
  | .vsubb f k => Sys2Proof.Machine.execVsubb f k s
  | .vfadd f => Sys2Proof.Machine.execVfadd f s
  | .vfsub f => Sys2Proof.Machine.execVfsub f s
  | .vfmul f => Sys2Proof.Machine.execVfmul f s
  | .vfma f => Sys2Proof.Machine.execVfma f s
  | .vfms f => Sys2Proof.Machine.execVfms f s
  | .vfnma f => Sys2Proof.Machine.execVfnma f s
  | .vfmin f prop => Sys2Proof.Machine.execVfmin f prop s
  | .vfmax f prop => Sys2Proof.Machine.execVfmax f prop s
  | .vfabs f => Sys2Proof.Machine.execVfabs f s
  | .vfneg f => Sys2Proof.Machine.execVfneg f s
  | .vfcmp f c sig any => Sys2Proof.Machine.execVfcmp f c sig any s
  | .vfclass f => Sys2Proof.Machine.execVfclass f s
  | .vfrnd f exact => Sys2Proof.Machine.execVfrnd f exact s
  | .vfdiv f => Sys2Proof.Machine.execVfdiv f s
  | .vfsqrt f => Sys2Proof.Machine.execVfsqrt f s
  | .vrcp f => Sys2Proof.Machine.execVrcp f s
  | .vrsq f => Sys2Proof.Machine.execVrsq f s
  | .vsin f => Sys2Proof.Machine.execVsin f s
  | .vcos f => Sys2Proof.Machine.execVcos f s
  | .vexp2 f => Sys2Proof.Machine.execVexp2 f s
  | .vlog2 f => Sys2Proof.Machine.execVlog2 f s
  | .vtanh f => Sys2Proof.Machine.execVtanh f s
  | .vcvt f src sat => Sys2Proof.Machine.execVcvt f src sat s
  | .vcvpk2 f fmt hi sat => Sys2Proof.Machine.execVcvpk2 f fmt hi sat s
  | .vcvpk4 f fmt hi sat => Sys2Proof.Machine.execVcvpk4 f fmt hi sat s
  | .vqscale f dst mul => Sys2Proof.Machine.execVqscale f dst mul s
  | .vamax f span => Sys2Proof.Machine.execVamax f span s
  | .vunpk f src scale => Sys2Proof.Machine.execVunpk f src scale s
  | .vlut f j pair => Sys2Proof.Machine.execVlut f j pair s
  | .vmov f => Sys2Proof.Machine.execVmov f s
  | .vperm f => Sys2Proof.Machine.execVperm f s
  | .vbcast f => Sys2Proof.Machine.execVbcast f s
  | .vred f op => Sys2Proof.Machine.execVred f op s
  | .vscan f op excl => Sys2Proof.Machine.execVscan f op excl s
  | .vballot f => Sys2Proof.Machine.execVballot f s
  | .kand d a b => Sys2Proof.Machine.execKand d a b s
  | .kor d a b => Sys2Proof.Machine.execKor d a b s
  | .kxor d a b => Sys2Proof.Machine.execKxor d a b s
  | .knot d a => Sys2Proof.Machine.execKnot d a s
  | .kmov d a => Sys2Proof.Machine.execKmov d a s
  | .vld f size ord sc imm => Sys2Proof.Machine.execVld f size ord sc imm s
  | .vst f size ord sc imm => Sys2Proof.Machine.execVst f size ord sc imm s
  | .vldsp f size imm => Sys2Proof.Machine.execVldsp f size imm s
  | .vstsp f size imm => Sys2Proof.Machine.execVstsp f size imm s
  | .vatom f op size ord sc imm => Sys2Proof.Machine.execVatom f op size ord sc imm s
  | .vcas f size ord sc imm => Sys2Proof.Machine.execVcas f size ord sc imm s
  | .vpref f imm => Sys2Proof.Machine.execVpref f imm s
  | .fdep f blk sc => Sys2Proof.Machine.execFdep f blk sc s
  | .fcpy f blk sc sel => Sys2Proof.Machine.execFcpy f blk sc sel s
  | .ftake f blk sc sel => Sys2Proof.Machine.execFtake f blk sc sel s
  | .vbr k inv off join => Sys2Proof.Machine.execVbr k inv off join s
  | .vjmp off => Sys2Proof.Machine.execVjmp off s
  | .vcall off => Sys2Proof.Machine.execVcall off s
  | .vcallv a => Sys2Proof.Machine.execVcallv a s
  | .vbrk code => Sys2Proof.Machine.execVbrk code s
  | .vtrap code => Sys2Proof.Machine.execVtrap code s
  | .regrp a base count => Sys2Proof.Machine.execRegrp a base count s
  | .vwaitc l sv c t => Sys2Proof.Machine.execVwaitc l sv c t s
  | .vfence sc => Sys2Proof.Machine.execVfence sc s
  | .mma t a b c n => Sys2Proof.Machine.execMma t a b c n s
  | .mzero t => Sys2Proof.Machine.execMzero t s
  | .mdrain t a n ctl => Sys2Proof.Machine.execMdrain t a n ctl s
  | .mdraina t a n ctl => Sys2Proof.Machine.execMdraina t a n ctl s
  | .mload t a n => Sys2Proof.Machine.execMload t a n s
  | .tbarw n sc => Sys2Proof.Machine.execTbarw n sc s
  | .tbara n sc => Sys2Proof.Machine.execTbara n sc s
  | .wli d imm => Sys2Proof.Machine.execWli d imm s
  | .wadd d a b => Sys2Proof.Machine.execWadd d a b s
  | .wsub d a b => Sys2Proof.Machine.execWsub d a b s
  | .wmul d a b => Sys2Proof.Machine.execWmul d a b s
  | .waddi d a imm => Sys2Proof.Machine.execWaddi d a imm s
  | .wldsp d a imm => Sys2Proof.Machine.execWldsp d a imm s
  | .wstsp b a imm => Sys2Proof.Machine.execWstsp b a imm s
  | .wshl d a b => Sys2Proof.Machine.execWshl d a b s
  | .wbr c a off => Sys2Proof.Machine.execWbr c a off s
  | .wjmp off => Sys2Proof.Machine.execWjmp off s
  | .wloop a off => Sys2Proof.Machine.execWloop a off s
  | .leaseExpiry c line sector => Sys2Proof.Machine.execLeaseExpiry c line sector s
  | .groupWake g why => Sys2Proof.Machine.execGroupWake g why s
  | .willowReport willow of => Sys2Proof.Machine.execWillowReport willow of s
  | .resume q cmd => Sys2Proof.Machine.execResume q cmd s
  | .trapset q cmd => Sys2Proof.Machine.execTrapset q cmd s
  | .preempt q cmd => Sys2Proof.Machine.execPreempt q cmd s
  | .tlbinv q cmd => Sys2Proof.Machine.execTlbinv q cmd s
  | .qfence q cmd => Sys2Proof.Machine.execQfence q cmd s
  | .samplePoint samples => Sys2Proof.Machine.execSamplePoint samples s
  | .wcorrApply w q => Sys2Proof.Machine.execWcorrApply w q s
  | .timex port mSend sRecv sSend mRecv => Sys2Proof.Machine.execTimex port mSend sRecv sSend mRecv s
  | .dramRefresh die chan lpddr => Sys2Proof.Machine.execDramRefresh die chan lpddr s
  | .refreshEnd die chan lpddr => Sys2Proof.Machine.execRefreshEnd die chan lpddr s
  | .flitReceive port plane f => Sys2Proof.Machine.execFlitReceive port plane f s
  | .nakReceive port plane lseq => Sys2Proof.Machine.execNakReceive port plane lseq s
  | .peerRead p => Sys2Proof.Machine.execPeerRead p s
  | .peerWrite p => Sys2Proof.Machine.execPeerWrite p s
  | .peerAtomic p => Sys2Proof.Machine.execPeerAtomic p s
  | .peerResponse p => Sys2Proof.Machine.execPeerResponse p s
  | .bar2Write addr data ben => Sys2Proof.Machine.execBar2Write addr data ben s
  | .bar2Atomicop tag addr op wide x y => Sys2Proof.Machine.execBar2Atomicop tag addr op wide x y s
  | .hostReadCompletion tag offset data => Sys2Proof.Machine.execHostReadCompletion tag offset data s
  | .hostAtomicCompletion tag old => Sys2Proof.Machine.execHostAtomicCompletion tag old s
  | .configRequest write off data => Sys2Proof.Machine.execConfigRequest write off data s
  | .challenge slot nonce => Sys2Proof.Machine.execChallenge slot nonce s
  | .spdmUnsupported code => Sys2Proof.Machine.execSpdmUnsupported code s
  | .gateAdmit gate x => Sys2Proof.Machine.execGateAdmit gate x s
  | .arrivalCrossing gate x => Sys2Proof.Machine.execArrivalCrossing gate x s
  | .bootImageVerify image => Sys2Proof.Machine.execBootImageVerify image s
  | .wake data ben => Sys2Proof.Machine.execWake data ben s
  | .qtailDoorbell q v => Sys2Proof.Machine.execQtailDoorbell q v s
  | .cqheadWrite q v => Sys2Proof.Machine.execCqheadWrite q v s
  | .fqheadWrite die v => Sys2Proof.Machine.execFqheadWrite die v s
  | .gheadWrite gate v => Sys2Proof.Machine.execGheadWrite gate v s
  | .stepreqWrite v => Sys2Proof.Machine.execStepreqWrite v s
  | .stopatdWrite v => Sys2Proof.Machine.execStopatdWrite v s
  | .trrheadWrite die v => Sys2Proof.Machine.execTrrheadWrite die v s
  | .mboxinWrite v => Sys2Proof.Machine.execMboxinWrite v s
  | .registerWrite off data ben => Sys2Proof.Machine.execRegisterWrite off data ben s
  | .softError arr addr correctable => Sys2Proof.Machine.execSoftError arr addr correctable s
  | .pcieLinkTraining width rate atomics => Sys2Proof.Machine.execPcieLinkTraining width rate atomics s
  | .lsync => Sys2Proof.Machine.execLsync s
  | .stfence => Sys2Proof.Machine.execStfence s
  | .sacq => Sys2Proof.Machine.execSacq s
  | .srel => Sys2Proof.Machine.execSrel s
  | .syield => Sys2Proof.Machine.execSyield s
  | .sexit => Sys2Proof.Machine.execSexit s
  | .snop => Sys2Proof.Machine.execSnop s
  | .vjoin => Sys2Proof.Machine.execVjoin s
  | .vret => Sys2Proof.Machine.execVret s
  | .vend => Sys2Proof.Machine.execVend s
  | .rjoin => Sys2Proof.Machine.execRjoin s
  | .vnop => Sys2Proof.Machine.execVnop s
  | .texit => Sys2Proof.Machine.execTexit s
  | .blockStart => Sys2Proof.Machine.execBlockStart s
  | .drain => Sys2Proof.Machine.execDrain s
  | .commitHeadResume => Sys2Proof.Machine.execCommitHeadResume s
  | .earlyLoadPerform => Sys2Proof.Machine.execEarlyLoadPerform s
  | .scalarLoadReturn => Sys2Proof.Machine.execScalarLoadReturn s
  | .laneLoadReturn => Sys2Proof.Machine.execLaneLoadReturn s
  | .storeGwctReturn => Sys2Proof.Machine.execStoreGwctReturn s
  | .atomicReply => Sys2Proof.Machine.execAtomicReply s
  | .atomicAtHome => Sys2Proof.Machine.execAtomicAtHome s
  | .writeAccept => Sys2Proof.Machine.execWriteAccept s
  | .writePerform => Sys2Proof.Machine.execWritePerform s
  | .homeRead => Sys2Proof.Machine.execHomeRead s
  | .fillReturn => Sys2Proof.Machine.execFillReturn s
  | .writeMaskRelease => Sys2Proof.Machine.execWriteMaskRelease s
  | .pageWalk => Sys2Proof.Machine.execPageWalk s
  | .scalarResultWrite => Sys2Proof.Machine.execScalarResultWrite s
  | .laneResultWrite => Sys2Proof.Machine.execLaneResultWrite s
  | .sfuResultWrite => Sys2Proof.Machine.execSfuResultWrite s
  | .wResultWrite => Sys2Proof.Machine.execWResultWrite s
  | .syieldExpiry => Sys2Proof.Machine.execSyieldExpiry s
  | .sacqGrant => Sys2Proof.Machine.execSacqGrant s
  | .regrpMoveComplete => Sys2Proof.Machine.execRegrpMoveComplete s
  | .rjoinMoveComplete => Sys2Proof.Machine.execRjoinMoveComplete s
  | .barrierArrival => Sys2Proof.Machine.execBarrierArrival s
  | .remoteBarrierUpdate => Sys2Proof.Machine.execRemoteBarrierUpdate s
  | .barrierRefusal => Sys2Proof.Machine.execBarrierRefusal s
  | .trapEntry => Sys2Proof.Machine.execTrapEntry s
  | .timeSliceExpiry => Sys2Proof.Machine.execTimeSliceExpiry s
  | .willowStop => Sys2Proof.Machine.execWillowStop s
  | .engineStopAck => Sys2Proof.Machine.execEngineStopAck s
  | .preemptCompletion => Sys2Proof.Machine.execPreemptCompletion s
  | .contextCompletion => Sys2Proof.Machine.execContextCompletion s
  | .placementPass => Sys2Proof.Machine.execPlacementPass s
  | .willowPlace => Sys2Proof.Machine.execWillowPlace s
  | .teamStart => Sys2Proof.Machine.execTeamStart s
  | .queueVisit => Sys2Proof.Machine.execQueueVisit s
  | .willowTinv => Sys2Proof.Machine.execWillowTinv s
  | .willowLrate => Sys2Proof.Machine.execWillowLrate s
  | .stepBoundary => Sys2Proof.Machine.execStepBoundary s
  | .droopStretch => Sys2Proof.Machine.execDroopStretch s
  | .leaveRequest => Sys2Proof.Machine.execLeaveRequest s
  | .leaveGrant => Sys2Proof.Machine.execLeaveGrant s
  | .tileFetchReturn => Sys2Proof.Machine.execTileFetchReturn s
  | .mmaCompletion => Sys2Proof.Machine.execMmaCompletion s
  | .mzeroCompletion => Sys2Proof.Machine.execMzeroCompletion s
  | .mloadCompletion => Sys2Proof.Machine.execMloadCompletion s
  | .drainCompletion => Sys2Proof.Machine.execDrainCompletion s
  | .mdrainaReport => Sys2Proof.Machine.execMdrainaReport s
  | .mdrainaCommit => Sys2Proof.Machine.execMdrainaCommit s
  | .mdrainaApply => Sys2Proof.Machine.execMdrainaApply s
  | .errorPhaseDelivery => Sys2Proof.Machine.execErrorPhaseDelivery s
  | .copyPiece => Sys2Proof.Machine.execCopyPiece s
  | .copyPieceDone => Sys2Proof.Machine.execCopyPieceDone s
  | .bulkPacketSend => Sys2Proof.Machine.execBulkPacketSend s
  | .bulkWrite => Sys2Proof.Machine.execBulkWrite s
  | .bulkAck => Sys2Proof.Machine.execBulkAck s
  | .fenDeposit => Sys2Proof.Machine.execFenDeposit s
  | .fenTake => Sys2Proof.Machine.execFenTake s
  | .fenCopy => Sys2Proof.Machine.execFenCopy s
  | .fenRefill => Sys2Proof.Machine.execFenRefill s
  | .fenParkedDepositStore => Sys2Proof.Machine.execFenParkedDepositStore s
  | .fenRequestRetry => Sys2Proof.Machine.execFenRequestRetry s
  | .fenStatusReturn => Sys2Proof.Machine.execFenStatusReturn s
  | .fenWithdrawal => Sys2Proof.Machine.execFenWithdrawal s
  | .monitorArm => Sys2Proof.Machine.execMonitorArm s
  | .monitorNotice => Sys2Proof.Machine.execMonitorNotice s
  | .swaitaTimeout => Sys2Proof.Machine.execSwaitaTimeout s
  | .creditReturn => Sys2Proof.Machine.execCreditReturn s
  | .creditPacketSend => Sys2Proof.Machine.execCreditPacketSend s
  | .endToEndResend => Sys2Proof.Machine.execEndToEndResend s
  | .linkRetrain => Sys2Proof.Machine.execLinkRetrain s
  | .holdFlit => Sys2Proof.Machine.execHoldFlit s
  | .bar2Read => Sys2Proof.Machine.execBar2Read s
  | .zeroLengthWrite => Sys2Proof.Machine.execZeroLengthWrite s
  | .flowControlUpdate => Sys2Proof.Machine.execFlowControlUpdate s
  | .getVersion => Sys2Proof.Machine.execGetVersion s
  | .getCapabilities => Sys2Proof.Machine.execGetCapabilities s
  | .negotiateAlgorithms => Sys2Proof.Machine.execNegotiateAlgorithms s
  | .getDigests => Sys2Proof.Machine.execGetDigests s
  | .getCertificate => Sys2Proof.Machine.execGetCertificate s
  | .getMeasurements => Sys2Proof.Machine.execGetMeasurements s
  | .gateLossRecord => Sys2Proof.Machine.execGateLossRecord s
  | .replayInject => Sys2Proof.Machine.execReplayInject s
  | .stopatReached => Sys2Proof.Machine.execStopatReached s
  | .traceInterval => Sys2Proof.Machine.execTraceInterval s
  | .stallSample => Sys2Proof.Machine.execStallSample s
  | .traceBlockWrite => Sys2Proof.Machine.execTraceBlockWrite s
  | .traceResync => Sys2Proof.Machine.execTraceResync s
  | .reset => Sys2Proof.Machine.execReset s
  | .bringupPhase => Sys2Proof.Machine.execBringupPhase s
  | .fullServiceEntry => Sys2Proof.Machine.execFullServiceEntry s
  | .gateClose => Sys2Proof.Machine.execGateClose s
  | .wakeComplete => Sys2Proof.Machine.execWakeComplete s
  | .latchedWriteApply => Sys2Proof.Machine.execLatchedWriteApply s
  | .rstreqRst => Sys2Proof.Machine.execRstreqRst s
  | .dbgctlFreeze => Sys2Proof.Machine.execDbgctlFreeze s
  | .dbgctlResume => Sys2Proof.Machine.execDbgctlResume s
  | .dbgctlDump => Sys2Proof.Machine.execDbgctlDump s
  | .dbgctlRestore => Sys2Proof.Machine.execDbgctlRestore s
  | .crcerrRead => Sys2Proof.Machine.execCrcerrRead s
  | .peatImageComplete => Sys2Proof.Machine.execPeatImageComplete s

end Sys2Proof.Machine
end

