-- ==== Sys2Proof/Machine/Cycle.lean ====
section
/-! DEFINITION. How the machine goes on: what the next step executes, which units issue in a cycle (spec/12 R371, spec/08 R245), and what
the start of a cycle sets off (log 5). -/
namespace Sys2Proof.Machine

/-! ## Which units may issue (R371, R245) -/

/-- Whether a register move runs in a slot of a core (R374). -/
def State.slotMoving (s : State) (core slot : Nat) : Bool :=
  (s.core core).moves.any fun m => m.until_.isSome && s.groups.any fun p =>
    coreOfG p.1 == core && slotOfG p.1 == slot && p.2.team == m.team

/-- Whether a group may issue at all: neither parked nor stopped nor trapped, and not asked to stop (R372, R392). -/
def Group.mayRun (r : Group) : Bool := r.live && !r.asked

/-- Whether the scalar stream of a group may issue: not parked but by a regroup (R218), not stopped nor trapped, not held by SYIELD, no drain in progress (R180, R151). -/
def State.scalarCan (s : State) (r : Group) : Bool := !r.scalarParked && r.stop == .runs && r.trap.isNone && !r.asked && decide (r.holdUntil ≤ s.ccount) && (!r.drain || r.drained)

/-- Whether the lane stream of a group may issue: its block has begun, its slot moves no registers, it has not arrived at a step, and no
earlier access of it waits for allowance. -/
def State.laneCan (s : State) (g : Nat) (r : Group) : Bool :=
  r.mayRun && r.rgArr.isNone && (s.lanePeerOpen g).isNone && !s.slotMoving (coreOfG g) (slotOfG g) &&
    (match r.blk with | some b => b.running && decide (b.ready ≤ s.ccount) | none => false)

/-- Whether a team sequencer may issue in this cycle. -/
def State.seqMay (s : State) (t : Nat) (m : Team) : Bool := m.seqSt == .runs && m.lastIssue != s.ccount + 1 && !s.stopping t

def State.mayIssue (s : State) (c : Cur) : Bool :=
  match c with
  | .scalar g => (match s.grp? g with | some r => s.scalarCan r | none => false)
  | .lane g => (match s.grp? g with | some r => s.laneCan g r | none => false)
  | .seq t => (match s.team? t with | some m => s.seqMay t m | none => false)
  | .none => false

/-! ## What a step executes -/

/-- What a step does: it executes an instruction or an event in a state, or takes a step of its own. -/
inductive Todo where
  | run (i : Instr) (s : State)
  | done (s : State)

/-- Whether an instruction is a break of its own (R184, R213): it takes away its own mark of a break gone through. -/
def isBreak : Instr → Bool
  | .sbrk _ | .vbrk _ => true
  | _ => false

/-- What executing a Todo gives, for the choice of the units that are ready. -/
def Todo.outcome : Todo → State
  | .done s => s
  | .run i s => match exec i s with
    | .next t => t
    | _ => s

/-- The executing unit issues: its instruction is fetched and decoded; a fetch that waits or fails comes first (R97), and a breakpoint that fires
as its instruction would issue (R389). -/
def State.unitTodo (s : State) : Todo :=
  if !s.mayIssue s.cur then .done s.issued else
  match s.fetchCur with
  | (.wait, s1) => .done s1.issued
  | (.bad b, s1) => .done ((s1.curTrap b).issued)
  | (.instr i, s1) =>
    let issues := decide ((Todo.run i s1).outcome.cur = .none)
    if s1.bpSkip.contains s1.cur then
      .run i (if isBreak i || !issues then s1 else { s1 with bpSkip := s1.bpSkip.erase s1.cur })
    else match s1.breakAt i with
      | some rep =>
        if !issues then .run i s1 else
        let s2 := s1.takeBreak rep
        .done (if isBreak i && s1.attach then s2.freeze 2 rep else s2)
      | none => .run i s1

/-- The order in which the picked units of a cycle are executed: arrivals first (R46), then stores to a scratchpad (R65), then the others. -/
def unitClass : Instr → Nat
  | .baraw .. => 0
  | .vstsp .. | .wstsp .. => 1
  | _ => 2

/-- Tries a unit in this cycle: whether it is ready, the class of its instruction, and the state: of a unit that is not
ready, what trying has started (a fetch, a drain). A trap or a break at the instruction counts as its issue. -/
def State.tryUnit (s : State) (c : Cur) : Bool × Nat × State :=
  let todo := { s with cur := c }.unitTodo
  let t := todo.outcome
  let trapped := decide (s.agenda.length < t.agenda.length)
  if trapped || (t.frozen && !s.frozen) then (true, 2, s) else
  match todo with
  | .done _ => (false, 2, { t with cur := .none })
  | .run i _ => if t.cur = .none then (true, unitClass i, s) else (false, 2, { t with cur := .none })

/-! ## The pick (R371) -/

/-- The groups of a slot of a core. -/
def State.slotGroups (s : State) (core slot : Nat) : List Nat :=
  (s.groups.filter fun p => coreOfG p.1 == core && slotOfG p.1 == slot).map (·.1)

/-- The ready groups of a slot in a stream, each with the class of its instruction. -/
def State.readyOf (s : State) (lane : Bool) : List Nat → List (Nat × Nat) × State
  | [] => ([], s)
  | g :: r =>
    let may := match s.grp? g with
      | some x => if lane then s.laneCan g x else s.scalarCan x
      | none => false
    if !may then s.readyOf lane r else
    match s.tryUnit (if lane then .lane g else .scalar g) with
    | (ok, sp, s1) =>
      let (l, s2) := s1.readyOf lane r
      (if ok then (g, sp) :: l else l, s2)

/-- The pick of R371: the oldest of the groups that have waited 64 cycles, else the oldest ready group. -/
def pickOf (age wait : Nat → Nat) (ready : List (Nat × Nat)) : Option (Nat × Nat) :=
  let oldest := fun (l : List (Nat × Nat)) => l.foldl (fun (a : Option (Nat × Nat)) x => match a with
    | none => some x
    | some y => if age x.1 < age y.1 then some x else a) none
  let urgent := ready.filter fun x => decide (64 ≤ wait x.1)
  oldest (if urgent.isEmpty then ready else urgent)

/-- One unit of one slot makes its pick, and the wait counts follow. -/
def State.pickUnit (s : State) (core slot : Nat) (lane : Bool) : Option (Nat × Nat) × State :=
  if lane && decide (s.ccount < (s.core core).pipe.getD slot 0) then (none, s) else
  let gs := s.slotGroups core slot
  let (ready, s1) := s.readyOf lane gs
  let age := fun g => ((s1.grp? g).map (·.age)).getD 0
  let wait := fun g => ((s1.grp? g).map fun r => if lane then r.waitL else r.waitS).getD 0
  let best := pickOf age wait ready
  let count := fun (g : Nat) (w : Nat) => if ready.any (fun x => x.1 == g) && best.all (fun b => b.1 != g) then w + 1 else 0
  (best, gs.foldl (fun s g => s.modGrp g fun r => if lane then { r with waitL := count g r.waitL } else { r with waitS := count g r.waitS }) s1)

/-- The picks of a slot: its scalar unit, then its lane pipeline. -/
def State.pickSlot (s : State) (core slot : Nat) : List (Item × Nat) × State :=
  let (a, s1) := s.pickUnit core slot false
  let (b, s2) := s1.pickUnit core slot true
  ((a.map fun x => (Item.scalar x.1, x.2)).toList ++ (b.map fun x => (Item.lane x.1, x.2)).toList, s2)

/-- The class of a sequencer's next instruction; `none` for MMA and TBARA, which issue at places of their own in a cycle (R257, R46). -/
def State.seqClass (s : State) (t : Nat) : Option Nat :=
  match ({ s with cur := .seq t }.fetchCur).1 with
  | .instr (.mma ..) | .instr (.tbara ..) => none
  | .instr i => some (unitClass i)
  | _ => some 2

/-- The units that issue in this cycle, by class and then in the order of cores and slots (R308), the sequencers last. Behind the arrivals come
the barrier updates that follow them in the cycle (R46). (DESIGN CHOICE, log 5.) -/
def State.picks (s : State) : State :=
  let slots := (s.groups.map fun p => (coreOfG p.1, slotOfG p.1)).eraseDups
  let (l, s1) := slots.foldl (fun (a : List (Item × Nat) × State) x =>
    let (m, t) := a.2.pickSlot x.1 x.2
    (a.1 ++ m, t)) ([], s)
  let seqs : List (Item × Nat) :=
    (s1.teams.filter fun p => s1.seqMay p.1 p.2).filterMap fun p => (s1.seqClass p.1).map fun c => (Item.seq p.1, c)
  let of : Nat → List Item := fun c => ((l ++ seqs).filter fun x => x.2 == c).map fun x => x.1
  { s1 with agenda := of 0 ++ .late :: of 1 ++ of 2 ++ s1.agenda }

/-! ## The start of a cycle -/

/-- Schedules an event for this cycle where a condition holds. -/
def State.due (s : State) (c : Bool) (i : Instr) (args : List Nat := []) : State := if c then s.sched 0 i args else s

/-- The arrivals that reach the gates by a cycle (R433). -/
def State.arrive (s : State) : State :=
  let (now, later) := s.inbox.partition fun x => decide (x.1 / 32 ≤ s.ccount)
  let s1 := (List.range 18).foldl (fun s g => if (s.gateAt g).waiting.isEmpty && !(s.gateAt g).headDelay then s else s.admitWaiting g) s
  now.foldl (fun s x => s.sched 0 (.gateAdmit (x.1 % 32) x.2)) { s1 with inbox := later }

/-- The gates: records to replay, losses to record. -/
def State.gateCycle (s : State) : State :=
  (List.range 18).foldl (fun s g =>
    let y := s.gateAt g
    if !y.on then s
    else match y.mode with
      | .replay => s.sched 0 .replayInject [g]
      | .lossy => s.due (y.lost != 0 && !y.isFull) .gateLossRecord [g]
      | .strict => s) s

/-- The groups: releases that go on, blocks that begin, drains (R150, R151, R156). -/
def State.groupCycle (s : State) : State :=
  s.groups.foldl (fun s p =>
    let r := p.2
    if !r.mayRelease || r.scalarParked then s
    else if r.rel.isSome then s.schedOnce 0 .commitHeadResume [p.1, 0]
    else if r.asked then s
    else if r.laneIdle && !r.lq.isEmpty then s.sched 0 .blockStart [p.1]
    else s.due (r.drain && r.laneSettled) .drain [p.1]) s

/-- Early loads whose load barriers finished before this cycle (R153), and stores whose loads have bound meanwhile (R311). -/
def State.opCycle (s : State) : State :=
  let s1 := s.tryWrites
  s1.ops.foldl (fun s p =>
    s.due (!p.2.performed && (p.2.kind == .load || p.2.kind == .spLoad) && !s.loadWaits p.2) .earlyLoadPerform [p.1]) s1

/-- Register grants, register moves, steps of regroups, arrivals of sequencers, issues of MMAs (R369, R374, R215, R248, R257). -/
def State.teamCycle (s : State) : State :=
  let waiting := ((s.groups.filter fun p => p.2.allotSt == .waiting).map fun p => coreOfG p.1).eraseDups
  let s1 := waiting.foldl (fun s c => s.sched 0 .sacqGrant [c * 32]) s
  let s2 := s1.teams.foldl (fun s p =>
    let arr := (s.liveOf p.1).filterMap fun g => g.2.rgArr
    match arr with
    | [] => s
    | a :: _ => s.regroupPoll p.1 a.join (s.ccount - 1)) s1
  let s3 := s2.cores.foldl (fun s p => if p.2.moves.isEmpty then s else s.startMove p.1) s2
  s3.teams.foldl (fun s p =>
    if !s.seqMay p.1 p.2 then s else
    match ({ s with cur := .seq p.1 }.fetchCur).1 with
    | .instr (.tbara n sc) => s.sched 0 (.tbara n sc) [p.1]
    | .instr (.mma a b c d e) => s.sched 0 (.mma a b c d e) [p.1]
    | _ => s) s3

/-- The governor of a core adds its rate to the balance (R463). -/
def Core.governed (x : Core) : Core :=
  let rate := x.lrateNext.getD x.lrate
  { x with lrate := rate, lrateNext := none, bal := min 65536 (x.bal + rate) }

/-- The engines of a core: the matrix engine, the copy and the transfer engine. -/
def State.coreCycle (s : State) (c : Nat) (x : Core) : State :=
  let s2 := if x.eng.isEmpty then s else s.engCycle c
  let s3 := if x.copyQ.isEmpty then s2 else match s2.copyHead c with
    | some h => if h.busy then s2 else s2.schedOnce 0 .copyPiece [c]
    | none => s2
  if x.xferQ.isEmpty then s3 else match s3.xferHead c with
    | some h => s3.schedOnce 0 .bulkPacketSend [c, h.id]
    | none => s3

/-- The Fen slices: one move of a tuple each (R295). -/
def State.fenCycle (s : State) : State :=
  s.slices.foldl (fun s p => if p.2.fen.isEmpty then s else match s.fenMove p.1 with
    | some (i, args) => s.sched 0 i args
    | none => s) s

/-- The channels of a kind whose refresh starts at a reference count: one every 780 periods, staggered by 6 (R341). (DESIGN CHOICE, log 19.) -/
def refreshed (count n : Nat) : List Nat := (List.range n).filter fun k => 6 * k % 780 == count % 780
def State.refreshCycle (s : State) (before : Nat) : State :=
  let r := s.ptime / 120
  if r = before / 120 then s else
  (List.range 4).foldl (fun s d =>
    let s1 := (refreshed r Config.bondedChannels).foldl (fun s k => s.sched 0 (.dramRefresh d k false)) s
    (refreshed r Config.lpddrChannels).foldl (fun s k => s.sched 0 (.dramRefresh d k true)) s1) s

/-- Trace: intervals, resynchronisation, ring blocks (R450, R452, R482). -/
def State.traceCycle (s : State) : State :=
  let s1 := if s.ccount % 4096 ≠ 0 then s else (List.range 4).foldl (fun s d =>
    if (s.die d).traceOn then (List.range 80).foldl (fun s c => s.sched 0 .traceInterval [80 * d + c]) s else s) s
  s1.cores.foldl (fun s p =>
    let t := p.2.trace
    (s.due (t.dropping && decide (t.buf.length + 64 ≤ trCap)) .traceResync [p.1]).due (t.blockDue s.ccount) .traceBlockWrite [p.1]) s1

/-- The cores that take a stall sample in this cycle (R453). -/
def State.stallCores (s : State) : List Nat :=
  (List.range 4).flatMap fun d =>
    let x := s.die d
    let per := (x.trctl.extractLsb' 12 4).toNat
    if x.traceOn && x.trctl.getLsbD 9 && decide (per ≤ 8) && decide (s.ccount % 2 ^ (per + 8) = 0) then
      (List.range 80).map fun c => 80 * d + c
    else []

/-- Alder: queues, placement, stops, ends of contexts, full service, gating (R406, R362, R392, R355, R460, R461). -/
def State.alderCycle (s : State) : State :=
  let idle := s.alder.ctxs.isEmpty && s.queues.toList.all fun q => q.qtail == q.qhead
  let n := if idle then s.alder.idle + 1 else 0
  let pass := s.alder.passDue || s.ccount % 1024 == 0
  let s1 := { s with alder := { s.alder with idle := n, passDue := false } }
  let s2 := (s1.due (decide (4 ≤ s.phase.toNat) && s.ccount % 64 == 0) .queueVisit [0]).due (decide (4 ≤ s.phase.toNat) && pass) .placementPass
  let s3 := s2.stopCycle.endContexts
  (s3.due (s.phase == 5 && s.alder.ctxs.isEmpty && !s.timed.any fun e => e.i == .bringupPhase) .fullServiceEntry).due
    (s.alder.gateen && decide (16777216 ≤ n)) .gateClose

/-- Boot: the next image of the flash is verified (R456). -/
def State.bootCycle (s : State) : State :=
  if s.phase = 1 ∧ s.bootErr = 0 ∧ 1 ≤ s.bootNext then match s.flash[s.bootNext - 1]? with
    | some im => s.sched 0 (.bootImageVerify im)
    | none => s
  else s

/-- The dies: fault records that have room again (R351), packets that wait for a replay buffer (R412), allowance that waits to be returned (R417),
host writes that are flushed (R323). -/
def State.dieCycle (s : State) : State :=
  let s := (List.range 16).foldl (fun s p => s.portCycle p) s
  let s1 := (List.range 4).foldl (fun s d => if (s.die d).fqheld.isEmpty then s else flushRecs d (s.die d).fqheld s) s
  let old := (s1.owed.filter fun o => decide (o.since + 256 ≤ s1.ccount)).map fun o => (o.die % 4, o.src)
  let s2 := old.eraseDups.foldl (fun s x => s.schedOnce 0 .creditPacketSend [x.1, x.2]) s1
  { s2 with posted := s2.posted.filter fun p => decide (s2.ccount < p.2) }

/-- The next cycle begins: the packets of the last one enter the trace buffers, CCOUNT and PTIME advance (R425), and what is due in the cycle
is set off. While the device is gated only the always-on domain goes on, at step 3 (R461). (DESIGN CHOICE, log 5.) (DESIGN CHOICE, log 39.) -/
def State.tick (s : State) : State :=
  if s.gated then { s with ccount := s.ccount + 1, ptime := s.ptime + 20 }.arrive.gateCycle else
  let s0 := s.traceFlush
  let s1 := { s0 with ccount := s0.ccount + 1, ptime := s0.ptime + s0.tpc, prevPtime := s0.ptime }
  let s2 := (s1.due (s1.reqAt.isSome && s1.ptime % 24000 == 0) .stepBoundary).arrive.gateCycle
  let s3 := ((s2.refreshCycle s.ptime).traceCycle).dieCycle.bootCycle.alderCycle
  let s4 := s3.opCycle.groupCycle.teamCycle.fenCycle
  let cores := s4.cores.map fun p => (p.1, p.2.governed)
  let s5 := cores.foldl (fun s p => s.coreCycle p.1 p.2) { s4 with cores := cores }
  { s5 with agenda := .picks :: (s5.stallCores.map fun c => .run .stallSample [c]) ++ [.close] }

/-! ## The next step -/

/-- What goes on while the device is gated (R408). -/
def alwaysOn : Instr → Bool
  | .gateAdmit .. | .wakeComplete | .gheadWrite .. | .registerWrite .. | .stopatdWrite _ | .configRequest .. | .flowControlUpdate
  | .replayInject | .gateLossRecord | .dbgctlFreeze => true
  | _ => false

/-- Takes the first event that is due, whose rank lies below a bound, and that may run. -/
def popDue (now : Nat) (bound : Option Nat) (ok : Instr → Bool) : List Timed → Option (Timed × List Timed)
  | [] => none
  | e :: r =>
    if now < e.due then none
    else if bound.all (fun b => decide (e.rank < b)) && ok e.i then some (e, r)
    else (popDue now bound ok r).map fun x => (x.1, e :: x.2)

/-- The events that may run before the head of the agenda: the late ones behind the arrivals of the picked units (R46), those of the end of a
cycle behind everything else. -/
def eventBound (l : List Item) : Option Nat :=
  if l.contains .picks || l.contains .late then some lateRank else if l.isEmpty then none else some endRank

/-- An event runs for no unit, except the arrival of a sequencer and the issue of an MMA (R46, R257). -/
def eventCur (i : Instr) (args : List Nat) : Cur :=
  match i with
  | .tbara .. | .mma .. => .seq (args.getD 0 0)
  | _ => .none

/-- What a frozen package still does (R433, R440, R442, R443): the scan engine's image, accesses outside the domain and through BAR2, HOLD flits. -/
def State.frozenTodo (s : State) : Todo :=
  if s.scanning then .run .peatImageComplete { s with args := [], cur := .none } else
  let served := fun (x : Nat × Arrival) => match x.2 with
    | .barRead 2 .. | .barWrite 2 .. => x.1 % 32 == 0
    | y => x.1 % 32 == 0 && isOutside y
  match s.inbox.find? served with
  | some x =>
    let s1 := { s with inbox := s.inbox.erase x, cur := .none }
    match x.2 with
    | .barRead 2 tag off len => .run .bar2Read { s1 with args := [tag, off, len] }
    | .barWrite 2 off data ben => .run (.bar2Write off data ben) { s1 with args := [] }
    | y => .done (s1.serveOutside y)
  | none =>
    .done { s with agenda := (((List.range 16).filter fun p => (s.port p).up).map fun p => .run .holdFlit [p]) ++ s.agenda }

/-- Whether a step of a regroup is moving registers: a freeze is taken once it is complete (R217). -/
def State.stepRuns (s : State) : Bool := s.cores.any fun p => p.2.moves.any (·.until_.isSome)

/-- The end of the units of a cycle: the freeze of STOPAT (R439), what a frozen package does, the reset, or what comes next. (DESIGN CHOICE, log 38.)
(DEDUCED, log 49.) -/
def State.closeTodo (s : State) (next : Todo) : Todo :=
  if s.phase = 0 then .run .reset { s with args := [], cur := .none }
  else if s.stopat ≠ 0 ∧ s.stopat ≤ s.ptime ∧ s.stopFrom ≤ s.ccount ∧ !s.stopHit then .run .stopatReached { s with args := [], cur := .none }
  else if s.frozen && !s.stepRuns then s.frozenTodo
  else next

/-- The traps of a cycle: of a lane and a scalar trap of one group the lane trap stands (R390). -/
def trapsOf (l : List Item) : List Item :=
  l.filter fun i => match i with
    | .trap g t => t.lane || !l.any fun j => match j with
      | .trap h u => h == g && u.lane
      | _ => false
    | _ => true

/-- What the next step does: an event that is due; the head of the cycle's agenda; behind the units of the cycle the freeze, the traps that they
met (R66, R390) and the fault records (R348); then the next cycle. (DESIGN CHOICE, log 5.) -/
def State.plan (s : State) : Todo :=
  match popDue s.ccount (eventBound s.agenda) (fun i => !s.gated || alwaysOn i) s.timed with
  | some (e, rest) => .run e.i { s with timed := rest, args := e.args, cur := eventCur e.i e.args }
  | none =>
    match s.agenda with
    | .run i args :: r => .run i { s with agenda := r, args := args, cur := .none }
    | .picks :: r => .done { s with agenda := r, cur := .none }.picks
    | .scalar g :: r => { s with agenda := r, args := [], cur := .scalar g }.unitTodo
    | .lane g :: r => { s with agenda := r, args := [], cur := .lane g }.unitTodo
    | .seq t :: r => { s with agenda := r, args := [], cur := .seq t }.unitTodo
    | .late :: r => .done { s with agenda := r, cur := .none }
    | .close :: r => s.closeTodo (.done { s with agenda := trapsOf r ++ [.records], cur := .none })
    | .trap g t :: r => .done ({ s with agenda := r, cur := .none }.takeTrap g t)
    | .records :: r => .done { s with agenda := r, cur := .none }.closeRecords
    | [] => s.closeTodo (.done { s with cur := .none }.tick)

end Sys2Proof.Machine
end

