-- ==== Sys2Proof/Machine/Step.lean ====
section
/-! DEFINITION. One step of the machine, and the placing of one instruction where the next step fetches it (log 4, log 5). -/
namespace Sys2Proof.Machine

/-- One step: the next event is executed, or the instruction of the next unit, or the machine goes on with its cycle (log 5). -/
def step (s : State) : Host.Outcome State Fault Refusal :=
  match s.plan with
  | .run i t => exec i t
  | .done t => .next t

/-- The virtual address at which `withFetchWord` places an instruction. -/
def fetchVa : W64 := 0x10000

/-- The module-space offset of the page that holds it. -/
def fetchPa : Nat := 0x100000

/-- The table leaf of that page: valid, readable, writable, executable, module space. -/
def fetchLeaf : W64 := 0x10001F

/-- The context of the placed team: privileged, a grid of one team of one group with 96 registers, 8 accumulators, 16 barriers and a
scratchpad of 65,536 bytes, entered at `fetchVa` by its scalar stream and its sequencer. (DESIGN CHOICE, log 4.) -/
def fetchCtx : Ctx :=
  { id := 0, ctxid := 1, queue := 0, cookie := 0, image := 0, save := 0, asn := 0, root := 0, priv := true, tslice := 0, placedAt := 0
    kdesc := List.replicate 8 0 ++ natBytes 4 0 ++ natBytes 4 1 ++ natBytes 8 0x10000 ++ natBytes 8 0x10000 ++ natBytes 2 1 ++ [1, 1] ++
      natBytes 2 96 ++ [8, 16] ++ natBytes 4 65536 ++ List.replicate 32 0
    args := 0, gx := 1, gy := 1, gz := 1, nextCl := 1, restore := [], live := [0], pre := none, halted := false, gmax := 0, freed := false }

/-- The placed group: its full register allotment, and for an instruction of a lane stream a block that it runs at `fetchVa`. (DESIGN CHOICE, log 4.) -/
def fetchGrp (nbits : Nat) (g : Group) : Group :=
  { g with
    allot := 96, allotSt := .full, lpc := fetchVa
    blk := match streamOfBits nbits with
      | .lane => some ⟨fetchVa, Vector.replicate 16 0, 0, g.ck, false, true, none, 0, 0, 0, 0⟩
      | _ => none }

/-- The placed team's record: its group, all tiles of the core. (DESIGN CHOICE, log 4.) -/
def fetchTeam (t : Team) : Team := { t with tiles := List.range 8, members := [0] }

/-- A core with the page of the placed instruction in its TLB, and its line in its instruction cache. (DESIGN CHOICE, log 4.) -/
def fetchCoreOf (bs : List Byte) : Core :=
  { Core.reset with
    tlb := [⟨0, 0, 0, 0x10000, 65536, fetchLeaf⟩]
    icache := [(fetchPa / 256, ((CLine.new (fetchPa / 256)).putSector 0 bs (2 ^ 64) 0))] }

/-- The unit that issues the placed instruction. (DESIGN CHOICE, log 4.) -/
def fetchItem (nbits : Nat) : Item :=
  match streamOfBits nbits with
  | .scalar => .scalar 0
  | .team => .seq 0
  | .lane => .lane 0

/-- The state with an instruction of nbits bits stored where the very next step fetches one: a privileged context with one team of one group
resident on core 0, its page translated, its line in the instruction cache, and the unit of its stream picked (log 4). -/
def State.withFetchWord (s : State) (nbits w : Nat) : State :=
  let bs := natBytes 16 (w % 2 ^ nbits)
  let p := Ctx.freshTeam fetchCtx 0 0 0
  let grp := match p.grps with
    | x :: _ => kset s.groups 0 (fetchGrp nbits x.2)
    | [] => s.groups
  { s with
    mem := ssetL (w := 8) s.mem fetchPa bs
    poison := s.poison.filter fun x => decide (x < fetchPa ∨ fetchPa + 16 ≤ x)
    frozen := false, gated := false
    groups := grp, teams := kset s.teams 0 (fetchTeam p.team), cores := kset s.cores 0 (fetchCoreOf bs)
    alder := { s.alder with ctxs := fetchCtx :: s.alder.ctxs.filter (·.id != 0) }
    bpSkip := [.scalar 0, .lane 0, .seq 0]
    timed := s.timed.filter fun e => decide (s.ccount < e.due)
    agenda := [fetchItem nbits] }

end Sys2Proof.Machine
end

