-- ==== Sys2Proof/Safety.lean ====
section
/-! DEFINITION. What the statements ask of a state: the canonical form of the module's memory and of the keyed records, what a run may do,
and which states a step keeps. -/
namespace Sys2Proof.Machine

/-- The canonical form of the module's memory: addresses strictly rise and no listed byte is what an unlisted one reads as (log 1). -/
def Memory.wf (m : List Host.Cell) : Bool := swf (w := 8) m

/-- A state whose module memory is in its canonical form. -/
def State.memOk (s : State) : Prop := Memory.wf s.mem = true

/-- A run of n steps never stops: every step answers a next state. -/
def runsOn : Nat → State → Prop
  | 0, _ => True
  | n + 1, s => match step s with
    | .next t => runsOn n t
    | _ => False

/-- The byte of the module's memory at an offset, as every reader of the model finds it. -/
abbrev State.byteAt (s : State) (o : Nat) : Byte := s.dram o

/-! ## What an instruction of a scalar stream leaves -/

/-- From s to t the record of group g has become r', the unit has issued, and nothing else of the machine has changed. -/
def onlyGroup (s t : State) (g : Nat) (r' : Group) : Prop :=
  t = { s with groups := t.groups, cur := .none } ∧ t.grp? g = some r' ∧ ∀ h, h ≠ g → t.grp? h = s.grp? h

/-- The scalar stream of group g, with record r, stands at instruction i and nothing holds it up (R22, R28, R38, R149, R151, R154): no
register that i names is pending, the counter it raises stands below 63, and where it drains (or reads EXEC, or the commit queue is full) the drain
has nothing left to wait for. -/
def scalarTurn (i : Instr) (s : State) (g : Nat) (r : Group) : Prop :=
  s.cur = .scalar g ∧ s.grp? g = some r ∧
  ((scalarNeeds i).reads ++ (scalarNeeds i).dest.toList).all (fun n => (r.pend? n).isNone) = true ∧
  (State.mustDrain r (scalarNeeds i) = true → r.drained = true ∨ s.quiet g r = true) ∧
  (∀ c, (scalarNeeds i).ctr = some c → r.ctr c < 63)

/-- The record with which i executes: a drain that completes with it leaves its checkpoint (R151, R378). -/
def begun (i : Instr) (s : State) (r : Group) : Group :=
  if State.mustDrain r (scalarNeeds i) = true ∧ r.drained = false then
    { r with drain := false, drained := true, ck := r.checkpoint r.spc, lastDrain := s.nextId }
  else r

/-- The record once the stream goes on at an address. -/
def Group.goesOn (r : Group) (pc : W64) : Group := { r with spc := pc, drain := false, drained := false, baraw := false }

/-- A scalar register takes a value: a write of s0 is discarded (R21), a write of EXEC is held in the commit queue (R148). -/
def Group.takes (r : Group) (i : Instr) (d : BitVec 6) (v : W64) : Group :=
  if d = 0 then r
  else if d.toNat < 61 then { r with s := r.s.setIfInBounds d.toNat v }
  else { r with
      cq := r.cq ++ [⟨r.pos, (encode i).headD 0, r.spc, 0, r.operand i 0, r.operand i 1, 0, false, false, false, some v⟩]
      pos := r.pos + 1 }

/-- A register waits for an operation (R22): its value comes with the operation's end. A write of EXEC also takes its place in the commit
queue, except for a reply, whose instruction stands there itself (R148, R154). -/
def Group.waitsFor (r : Group) (i : Instr) (d : BitVec 6) (id : Nat) (why : PendWhy) (v : W64) : Group :=
  if d = 0 then r
  else if d.toNat < 61 ∨ why = .reply then { r with pendS := r.pendS ++ [⟨d, id, why, r.spc, v⟩] }
  else { r with
    pendS := r.pendS ++ [⟨d, id, why, r.spc, v⟩]
    cq := r.cq ++ [⟨r.pos, (encode i).headD 0, r.spc, 0, r.operand i 0, r.operand i 1, id, false, false, false, none⟩], pos := r.pos + 1 }

/-- A held instruction enters the commit queue with what it read (R149, R398). -/
def Group.holds (r : Group) (i : Instr) (pa : Nat) (x y : W64) (id : Nat) : Group :=
  { r with cq := r.cq ++ [⟨r.pos, (encode i).headD 0, r.spc, pa, x, y, id, false, false, false, none⟩], pos := r.pos + 1 }

/-- A trap that group g recognises now is taken in this step: no unit of the cycle is still to issue (R66), no result is still to be written
(R227, R382), and no regroup is moving lanes of its team (R217). -/
def State.trapsAtOnce (s : State) (g : Nat) (r : Group) : Prop :=
  Item.close ∉ s.agenda ∧ r.lres = [] ∧ ∀ x ∈ (s.core (g / 32)).moves, x.team ≠ r.team

/-! ## What an instruction of a lane stream leaves -/

/-- The lane stream of group g, with record r, stands at an instruction that names the registers of n: they are in the allotment and
aligned (R24, R82, R97), none waits for an earlier result (R190), the SFU queue and the counter have room (R226, R38). -/
def laneTurn (n : LNeeds) (s : State) (g : Nat) (r : Group) : Prop :=
  s.cur = .lane g ∧ s.grp? g = some r ∧ r.regBad n = none ∧ r.laneStall n = false

/-- From s to t only group g's record has changed, to r', and of its core the cycle until which its pipeline is busy and its trace packets;
besides, results that are due later may have been scheduled. -/
def onlyLane (s t : State) (g : Nat) (r' : Group) : Prop :=
  t = { s with groups := t.groups, cores := t.cores, timed := t.timed, nextId := t.nextId, cur := .none } ∧ t.grp? g = some r' ∧
  (∀ h, h ≠ g → t.grp? h = s.grp? h) ∧ (∀ c, c ≠ g / 32 → t.core c = s.core c) ∧
  t.core (g / 32) = { s.core (g / 32) with pipe := (t.core (g / 32)).pipe, trace := (t.core (g / 32)).trace }

/-- The record behind an issued instruction: LPC, and the counts of its block (R482). -/
def Group.laneGoesOn (r : Group) (pc : W64) (now beats : Nat) : Group :=
  { r with lpc := pc, blk := r.blk.map fun b => { b with
      first := b.first.or (some now), instrs := b.instrs + 1, beats := b.beats + beats } }

/-- A lane whose beat issues: one of the 32 lanes of its beat is active (R189). -/
def beatRuns (eff : Mask) (l : Nat) : Bool := (List.range 32).any fun k => eff.getLsbD (l / 32 * 32 + k)

/-- What r' holds once every result that an instruction has left for later is written (R190, R225, R226, R491). -/
def landed (r r' : Group) : Group := (r'.lres.drop r.lres.length).foldl (fun x p => x.results 0 p.vw p.kw p.flags) r'

/-- What a data instruction leaves in registers, masks and FLAGS (R27, R30, R189, R191): in an active lane the words `val` from vd on and
the bit of mask k; in a lane that the zero option clears, zeros; every other lane, register and mask keeps its own; FLAGS gains the flags. -/
def laneLands (r x : Group) (f : LaneF) (vd n : Nat) (val : Nat → List W32) (k : Option (Nat × (Nat → Bool))) (flag : Nat → BitVec 8) : Prop :=
  let eff := r.eff f.men
  let zeroed := fun (l : Nat) => f.zero && r.exec.getLsbD l && beatRuns eff l
  (∀ l, l < 96 → ∀ reg, x.vget reg l =
    if vd ≤ reg ∧ reg < vd + n then
      if eff.getLsbD l then (val l).getD (reg - vd) 0 else if zeroed l then 0 else r.vget reg l
    else r.vget reg l) ∧
  (∀ m, m < 16 → ∀ l, l < 96 → (x.kreg m).getLsbD l =
    match k with
    | some (d, bit) =>
      if m = d then (if eff.getLsbD l then bit l else if zeroed l then false else (r.kreg m).getLsbD l) else (r.kreg m).getLsbD l
    | none => (r.kreg m).getLsbD l) ∧
  x.flags = (List.range 96).foldl (fun a l => if eff.getLsbD l then a ||| flag l else a) r.flags

/-- A data instruction i runs to its end (R189 to R191): from every state whose lane stream stands at it, with its destination open to
writing, to one that differs in the group's registers and counts alone, and whose results land as said. -/
def laneData (i : Instr) (f : LaneF) (nd : LNeeds) (n : Nat) (s : State) (g : Nat) (r : Group) (val : Nat → List W32)
    (k : Option (Nat × (Nat → Bool))) (flag : Nat → BitVec 8) : Prop :=
  laneTurn nd s g r → swf r.v = true → (∀ j, j < n → r.writable (f.vd.toNat + j) = true) →
  ∃ t r', exec i s = .next t ∧ onlyLane s t g r' ∧ r'.lpc = r.lpc + BitVec.ofNat 64 (if f.pfx then 16 else 12) ∧
    r' = { r with v := r'.v, k := r'.k, flags := r'.flags, fset := r'.fset, lpc := r'.lpc, blk := r'.blk, lres := r'.lres, pendV := r'.pendV } ∧
    laneLands r (landed r r') f f.vd.toNat n val k flag

/-! ## What an instruction of a team stream leaves -/

/-- The sequencer q, with team record m, stands at an instruction that names the w registers of a list, none of which is pending (R245). -/
def seqTurn (regs : List (BitVec 5)) (s : State) (q : Nat) (m : Team) : Prop :=
  s.cur = .seq q ∧ s.team? q = some m ∧ m.pendW.all (fun p => !regs.contains p.reg) = true

/-- From s to t the record of team q has become m', the sequencer has issued, and nothing else has changed. -/
def onlyTeam (s t : State) (q : Nat) (m' : Team) : Prop :=
  t = { s with teams := t.teams, cur := .none } ∧ t.team? q = some m' ∧ ∀ h, h ≠ q → t.team? h = s.team? h

/-- The record behind an issued team instruction (R245, R251). -/
def Team.goesOn (m : Team) (pc : W64) (now : Nat) : Team := { m with tpc := pc, lastIssue := now + 1 }

/-- A w register takes a value; w0 reads 0 and discards writes (R34). -/
def Team.takes (m : Team) (d : BitVec 5) (v : W64) : Team := if d = 0 then m else { m with w := m.w.setIfInBounds d.toNat v }

end Sys2Proof.Machine
end

