-- ==== Sys2Proof/Certificates/Slice0/Obligations.lean ====
section
/-! DEFINITION. The statements about the model: what each instruction does where it runs to its end, what it leaves alone, what the
machine does as a whole. Values are written here from the rules of spec/, beside the meanings and not by them. -/
namespace Sys2Proof.Machine

/-! ## Values and effects of the scalar instructions -/

/-- The conditions of SCMP (R73, R157). -/
def compares (c : SCond) (x y : W64) : Bool :=
  match c with
  | .eq => decide (x = y)
  | .ne => decide (x ≠ y)
  | .lt => decide (x.toInt < y.toInt)
  | .ge => decide (y.toInt ≤ x.toInt)
  | .le => decide (x.toInt ≤ y.toInt)
  | .gt => decide (y.toInt < x.toInt)
  | .ltu => decide (x.toNat < y.toNat)
  | .geu => decide (y.toNat ≤ x.toNat)
  | .leu => decide (x.toNat ≤ y.toNat)
  | .gtu => decide (y.toNat < x.toNat)

/-- The destination and the value of the immediate arithmetic instructions (R157 to R159), over the values of the registers. -/
def immediateValue (R : BitVec 6 → W64) : Instr → Option (BitVec 6 × W64)
  | .sadd d a b => some (d, R a + R b)
  | .ssub d a b => some (d, R a - R b)
  | .sand d a b => some (d, R a &&& R b)
  | .sor d a b => some (d, R a ||| R b)
  | .sxor d a b => some (d, R a ^^^ R b)
  | .sshl d a b => some (d, R a <<< (R b).extractLsb' 0 6)
  | .sshr d a b => some (d, R a >>> (R b).extractLsb' 0 6)
  | .ssra d a b => some (d, (R a).sshiftRight' ((R b).extractLsb' 0 6))
  | .smin d a b => some (d, if (R a).toInt ≤ (R b).toInt then R a else R b)
  | .smax d a b => some (d, if (R a).toInt ≤ (R b).toInt then R b else R a)
  | .sminu d a b => some (d, if (R a).toNat ≤ (R b).toNat then R a else R b)
  | .smaxu d a b => some (d, if (R a).toNat ≤ (R b).toNat then R b else R a)
  | .scmp c d a b => some (d, if compares c (R a) (R b) then 1 else 0)
  | .ssel d c a b => some (d, if R c ≠ 0 then R a else R b)
  | .spopc d a => some (d, BitVec.ofNat 64 ((List.range 64).countP fun k => (R a).getLsbD k))
  | .sclz d a => some (d, BitVec.ofNat 64 (((List.range 64).find? fun k => (R a).getMsbD k).getD 64))
  | .saddi d a imm => some (d, R a + imm.signExtend 64)
  | .sandi d a imm => some (d, R a &&& imm.setWidth 64)
  | .sori d a imm => some (d, R a ||| imm.setWidth 64)
  | .sxori d a imm => some (d, R a ^^^ imm.setWidth 64)
  | .sshli d a n => some (d, R a <<< n)
  | .sshri d a n => some (d, R a >>> n)
  | .ssrai d a n => some (d, (R a).sshiftRight' n)
  | .sli d imm => some (d, imm.setWidth 64)
  | .slui d imm => some (d, imm.setWidth 64 * 0x2000)
  | .slxi d imm => some (d, (R d &&& 0x7FFFFFFFFFFFF) ||| (imm.setWidth 64 <<< 32) ||| (if imm.getLsbD 18 then 0xFFF8000000000000 else 0))
  | _ => none

/-- Destination, latency and value of the multiplies and divides (R157, R158). -/
def latencyValue (R : BitVec 6 → W64) : Instr → Option (BitVec 6 × Nat × W64)
  | .smul d a b => some (d, 4, R a * R b)
  | .smuli d a imm => some (d, 4, R a * imm.signExtend 64)
  | .smulh d a b => some (d, 4, ((R a).signExtend 128 * (R b).signExtend 128).extractLsb' 64 64)
  | .sdiv d a b => some (d, 36, if R b = 0 then 0xFFFFFFFFFFFFFFFF else (R a).sdiv (R b))
  | .sdivu d a b => some (d, 36, if R b = 0 then 0xFFFFFFFFFFFFFFFF else R a / R b)
  | .srem d a b => some (d, 36, if R b = 0 then R a else (R a).srem (R b))
  | _ => none

/-- The conditions of SBR (R70). -/
def branches (c : Cond) (x : W64) : Bool :=
  match c with
  | .al => true
  | .eqz => decide (x = 0)
  | .nez => decide (x ≠ 0)
  | .ltz => decide (x.toInt < 0)
  | .gez => decide (0 ≤ x.toInt)
  | .lez => decide (x.toInt ≤ 0)
  | .gtz => decide (0 < x.toInt)
  | .bs => decide (x.toNat % 2 = 1)
  | .bc => decide (x.toNat % 2 = 0)

/-- Where control goes (R165), from the instruction's address and the registers, and the record it leaves; SBSAL by the allowance (R186). -/
def controlTo (sal : W64 → Nat) (r : Group) (R : BitVec 6 → W64) (i : Instr) : Option (W64 × Group) :=
  match i with
  | .sbr c a off => some (if branches c (R a) then r.spc + 4 * off.signExtend 64 else r.spc + 4, r)
  | .sjmp off => some (r.spc + 4 * off.signExtend 64, r)
  | .sjmpr a => some (R a, r)
  | .sret a => some (R a, r)
  | .scall d off => some (r.spc + 4 * off.signExtend 64, r.takes i d (r.spc + 4))
  | .scallr d a => some (R a, r.takes i d (r.spc + 4))
  | .sbsal e a off =>
    if (R a).toNat < 256 then some (if 2 ^ e.toNat ≤ sal (R a) then r.spc + 4 * off.signExtend 64 else r.spc + 4, r) else none
  | _ => none

/-- What a wait, a fence or the lane queue asks and leaves (R166, R167, R169 to R173, R180, R313): none while it waits. A fence also waits for
the writes of other groups that the group's loads took from the write masks of its core (log 69). -/
def waitLeaves (s : State) (g : Nat) (r : Group) (i : Instr) : Option Group :=
  let entry := fun (pc : W64) => if r.lq.length < 8 then
    some { r with lq := r.lq ++ [⟨pc, Vector.ofFn fun k : Fin 16 => r.s.getD (16 + k.val) 0, r.pos,
      ⟨r.spc + 4, r.s, r.ctr .ldc, r.ctr .stc, r.ctr .cpc, r.ctr .tlc, r.pendS, r.pos⟩⟩] } else none
  let upTo := fun (c : Ctr) (v : W64) => if r.ctr c ≤ v.toNat ∨ 63 ≤ v.toNat then some r else none
  let inFlight := fun (p : MemOp → Bool) => s.ops.any fun o => o.2.agent.group? == some g && p o.2
  let returned := r.outs.all (fun o => !(o.ctr == .stc && (o.lane || o.rel) && !o.done)) && !inFlight (fun m => m.kind == .atomic || m.kind == .cas) &&
    r.seen.all (fun id => !s.masked (g / 32) id) && decide (r.gwctMax < s.ptime)
  match i with
  | .lenq off => entry (r.spc + 4 * off.signExtend 64)
  | .lenqr a => entry (r.sread a)
  | .lsync => some r
  | .snop => some r
  | .swaitc l st c t =>
    if r.ctr .ldc ≤ l.toNat ∧ r.ctr .stc ≤ st.toNat ∧ r.ctr .cpc ≤ c.toNat ∧ r.ctr .tlc ≤ t.toNat then some r else none
  | .swaitp .ldc a => upTo .ldc (r.sread a)
  | .swaitp .stc a => upTo .stc (r.sread a)
  | .swaitp .cpc a => upTo .cpc (r.sread a)
  | .swaitp .tlc a => upTo .tlc (r.sread a)
  | .swaitp .cp a =>
    let n := (r.sread a).toNat
    let b := r.batches.getD n ⟨.idle, false, 0, 0, 0⟩
    if 16 ≤ n ∨ n = r.openB then none
    else if b.st = .idle then some r
    else if b.st = .complete then
      some { r with batches := r.batches.setIfInBounds n { b with st := .idle, faults := 0, live := 0, gwct := 0 }, gwctMax := max r.gwctMax b.gwct }
    else none
  | .sfence .grp => some r
  | .sfence .team => if inFlight fun m => (m.kind == .store && !m.performed) || m.kind == .atomic || m.kind == .cas then none else some r
  | .sfence .cl => if returned then some r else none
  | .sfence .dev => if returned then some r else none
  | .sfence .sys => if returned && s.posted.all (fun p => p.1 != g) then some r else none
  | .stfence => if r.flags &&& r.ftrapen = 0 then some r else none
  | _ => none

/-- The posted writes to host memory once an instruction has ended a wait on batch n of group g: those of the batch count for the group's own
fences from then on (R319). -/
def postedAfter (s : State) (g : Nat) (r : Group) : Instr → List (Nat × Nat)
  | .swaitp .cp a =>
    let n := (r.sread a).toNat
    if n < 16 ∧ (r.batches.getD n ⟨.idle, false, 0, 0, 0⟩).st = .complete then
      s.posted.map fun p => if p.1 = (1 + n) * 1048576 + g then (g, p.2) else p
    else s.posted
  | _ => s.posted

/-- The value of a special register (R51). -/
def specialValue (s : State) (g : Nat) (r : Group) (t : Team) (i : Nat) (x : W64) : Nat :=
  match i with
  | 0x00 => r.gid.toNat ||| (g % 32) <<< 4 ||| (g % 32 / 8) <<< 9
  | 0x01 => t.tid.toNat
  | 0x02 => t.clpos.toNat
  | 0x03 => g / 32
  | 0x04 => g / 32 / 80
  | 0x05 => s.ptime
  | 0x06 => s.wbase + (s.ptime - s.pbase) * s.rate / 2 ^ 32
  | 0x07 => r.flags.toNat
  | 0x08 => r.ftrapen.toNat
  | 0x09 => r.fmode.toNat
  | 0x0A => r.allot ||| t.fullAllot <<< 16 ||| (match r.allotSt with | .prologue => 0 | .waiting => 1 | .full => 2) <<< 32
  | 0x0B => t.spBase ||| t.spSize <<< 32
  | 0x0C => r.trapcause.toNat
  | 0x0D => r.trapva.toNat
  | 0x0E => r.trapinfo.toNat
  | 0x0F => r.lq.length
  | 0x10 => r.rs.length
  | 0x11 => r.lease.toNat
  | 0x12 => s.stopat
  | 0x13 => (match r.rg with
    | none => r.gid.toNat ||| x.toNat <<< 8 ||| 0x8000
    | some w => (w.map.getD x.toNat 0).toNat)
  | 0x14 => s.salcfg.toNat
  | 0x15 => r.trctl.toNat
  | 0x16 => r.trapspc.toNat
  | _ => r.traplpc.toNat

/-- Writable bits of the special registers (R51). -/
def writableBits : Nat → Nat
  | 0x07 => 0xFF
  | 0x08 => 0xFF
  | 0x09 => 0xF
  | 0x0C => 0x3FF
  | 0x0D => 2 ^ 64 - 1
  | 0x0E => 0x3FFFFF
  | 0x11 => 2 ^ 64 - 1
  | 0x15 => 0xFF01
  | 0x16 => 2 ^ 64 - 1
  | 0x17 => 2 ^ 64 - 1
  | _ => 0

/-- What SRDS, SWRS, STIME, SAL and SVRD leave (R51, R52, R168, R182, R183, R185): none where they trap, and for STOPAT, which is the machine's. -/
def specialLeaves (s : State) (g : Nat) (t : Team) (r : Group) (i : Instr) : Option Group :=
  match i with
  | .srds d a k =>
    let x := r.sread a
    if k.toNat < 0x18 ∧ (if k.toNat = 0x13 then x.toNat < 96 else a = 0) then
      some (r.takes i d (BitVec.ofNat 64 (specialValue s g r t k.toNat x))) else none
  | .swrs a k =>
    let v := r.sread a
    if v.toNat &&& writableBits k.toNat ≠ v.toNat ∨ writableBits k.toNat = 0 then none else
    match k.toNat with
    | 0x0C => some { r with trapcause := v }
    | 0x0D => some { r with trapva := v }
    | 0x0E => some { r with trapinfo := v }
    | 0x15 => some { r with trctl := v }
    | 0x16 => some { r with trapspc := v }
    | 0x17 => some { r with traplpc := v }
    | _ => some (r.holds i 0 v 0 0)
  | .stime d false => some (r.takes i d (BitVec.ofNat 64 s.ptime))
  | .stime d true => some (r.takes i d (BitVec.ofNat 64 (s.wbase + (s.ptime - s.pbase) * s.rate / 2 ^ 32)))
  | .sal d a =>
    if (r.sread a).toNat < 256 then some (r.takes i d (BitVec.ofNat 64 (s.salRead (g / 32 / 80) (r.sread a).toNat))) else none
  | .svrd d a n =>
    if n.toNat < 768 ∧ n.toNat < r.allot ∧ (r.sread a).toNat < 96 then
      some (r.takes i d ((match r.rg with
        | none => r.vget n.toNat (r.sread a).toNat
        | some w => if w.base ≤ n.toNat ∧ n.toNat < w.base + w.count then r.vget n.toNat (r.sread a).toNat else 0).setWidth 64))
    else none
  | _ => none

/-- What BARINIT, BARA, SACQ and SREL hold for their release (R148, R175, R176, R179): none where BARINIT traps. -/
def heldLeaves (r : Group) (i : Instr) : Option Group :=
  match i with
  | .barinit _ a b =>
    let x := r.sread a
    let y := r.sread b
    if x.toNat < 0x400 ∧ x.toNat / 256 < 2 ∧ y.toNat < 2 ^ 32 then some (r.holds i 0 x y 0) else none
  | .bara _ _ => some (r.holds i 0 0 0 0)
  | .sacq => some (r.holds i 0 0 0 0)
  | .srel => some (r.holds i 0 0 0 0)
  | _ => none

/-- The registers, size and offset of a scalar load (R160). -/
def loadForm : Instr → Option (BitVec 6 × BitVec 6 × BitVec 13 × Nat)
  | .sldb d a o => some (d, a, o, 1)
  | .sldh d a o => some (d, a, o, 2)
  | .sldw d a o => some (d, a, o, 4)
  | .sldd d a o => some (d, a, o, 8)
  | _ => none

/-- The registers, size and offset of a scalar store (R160). -/
def storeForm : Instr → Option (BitVec 6 × BitVec 6 × BitVec 13 × Nat)
  | .sstb d a o => some (d, a, o, 1)
  | .ssth d a o => some (d, a, o, 2)
  | .sstw d a o => some (d, a, o, 4)
  | .sstd d a o => some (d, a, o, 8)
  | _ => none

/-- A scalar atomic (R163, R164): destination, address register, operand register, comparand or address, the counter it raises, and whether
host memory admits it (R404). -/
def atomicForm (R : BitVec 6 → W64) : Instr → Option (BitVec 6 × BitVec 6 × BitVec 6 × W64 × Ctr × Bool)
  | .satom op _ d a b => some (d, a, b, R a, if d = 0 then .stc else .ldc, op == .add || op == .swap)
  | .scas _ d a b => some (d, a, b, R d, .ldc, true)
  | _ => none

/-- Counts an operation in a counter (R36): a load, which is performed early, or one that the commit queue holds (R149, R152). -/
def Group.counts (r : Group) (id : Nat) (c : Ctr) (released : Bool) : Group := { r with outs := r.outs ++ [⟨id, c, false, released, false, r.spc, released⟩] }

/-- The address with its host-page bit, as a held access keeps it (R149, R334). -/
def keptPa (leaf : W64) (pa : Nat) : Nat := if pa / 2 ^ 50 % 4 = 1 ∧ isCoherentHost leaf = false then pa + 2 ^ 52 else pa

/-- Which XCMDs without an address of their own a group may issue, and how (R273 to R301): registers, whether privileged, whether a load
barrier, and whether its operands pass (x of sa, y of sb; `inArea align size off`: an area of the scratchpad). -/
def xcmdForm (r : Group) (m : Team) (R : BitVec 6 → W64) (i : Instr) :
    Option (BitVec 6 × BitVec 6 × BitVec 6 × Bool × Bool × Bool × Option Ctr) :=
  let inArea := fun (align size : Nat) (off : W64) => off.toNat % align == 0 && decide (off.toNat + size ≤ m.spSize)
  let copy := fun (d a b : BitVec 6) =>
    (d, a, b, false, false, d == 0 && decide ((R a).toNat < 2 ^ 20) && R b == 0 && inArea 64 64 (R a), some Ctr.cpc)
  let reply := fun (d : BitVec 6) => if d = 0 then none else some Ctr.tlc
  let fcfg := fun (d a b : BitVec 6) =>
    let size := if (R a).toNat / 256 = 0 then 64 else if (R a).toNat / 256 = 2 then 24 else 0
    (d, a, b, true, true, decide ((R a).toNat / 256 ≠ 3 ∧ (R a).toNat < 0x400 ∧ (R b).toNat < 2 ^ 20) && (size == 0 || inArea 1 size (R b)), reply d)
  match i with
  | .cpy1d d a b => some (copy d a b)
  | .cpy2d d a b => some (copy d a b)
  | .cpyt d a b => some (copy d a b)
  | .cpyres d a b => some (copy d a b)
  | .cseal d a b => some (d, a, b, false, false, R a == 0 && R b == 0, reply d)
  | .cwaitb d a b => some (d, a, b, false, true,
      decide ((R a).toNat < 16) && R b == 0 && decide ((R a).toNat ≠ (r.openB + (r.cq.filter fun e => isCseal e.word).length) % 16), reply d)
  | .cstat d a b => some (d, a, b, false, true, R a == 0 && R b == 0, some .tlc)
  | .bxfer d a b => some (d, a, b, false, false,
      decide ((R b).toNat < 2 ^ 35 ∧ (R b).toNat / 2 ^ 32 < 5 ∧ (R b).toNat % 2 ^ 32 ≠ 0) && (r.xtgtV || r.cq.any fun e => isBtarg e.word), some .tlc)
  | .btarg d a b => some (d, a, b, false, false, d == 0 && decide ((R b).toNat < 2 ^ 32 ∧ (R b).toNat / 2 ^ 29 % 4 = 0), none)
  | .fcfgCreate d a b => some (fcfg d a b)
  | .fcfgDelete d a b => some (fcfg d a b)
  | .fcfgReadCounters d a b => some (fcfg d a b)
  | .trmark d a b => some (d, a, b, false, false, d == 0 && decide ((R b).toNat < 2 ^ 16), none)
  | .wpset d a b => some (d, a, b, true, false, d == 0 && decide ((R a).toNat < 8 ∧ (R b).toNat < 2 ^ 20) && inArea 32 32 (R b), none)
  | _ => none

/-- An XCMD in the commit queue (R274): its reply awaited, its counter raised, a load barrier noted. -/
def Group.holdsX (r : Group) (i : Instr) (d : BitVec 6) (pa : Nat) (x y : W64) (id : Nat) (c : Option Ctr) (barrier : Bool) : Group :=
  let r1 := (r.waitsFor i d id .reply 0).holds i pa x y id
  let r2 := match c with
    | some k => r1.counts id k false
    | none => r1
  if barrier then { r2 with barrierIds := r2.barrierIds ++ [id] } else r2

/-! ## Values of the lane instructions -/

/-- A w-bit element as the number its type makes of it (R193). -/
def asInt (t : LType) (w a : Nat) : Int := if t.signed && decide (2 ^ (w - 1) ≤ a) then (a : Int) - (2 ^ w : Nat) else a

/-- An exact integer result: its low w bits, or with SAT the nearest number of the type, with IOVF where that differs (R193). -/
def exactInt (t : LType) (w : Nat) (sat : Bool) (x : Int) : Nat × BitVec 8 :=
  let lo : Int := if t.signed then -(2 ^ (w - 1) : Nat) else 0
  let hi : Int := if t.signed then (2 ^ (w - 1) : Nat) - 1 else (2 ^ w : Nat) - 1
  let y := if sat then max lo (min hi x) else x
  ((y % (2 ^ w : Nat)).toNat, if sat ∧ y ≠ x then fIOVF else 0)

/-- The element functions of the integer instructions (R193, R194): width, a, b, c. -/
def intElement : Instr → Option (LaneF × (Nat → Nat → Nat → Nat → Nat × BitVec 8))
  | .vadd f sat => some (f, fun w a b _ => exactInt f.ty w sat (asInt f.ty w a + asInt f.ty w b))
  | .vsub f sat => some (f, fun w a b _ => exactInt f.ty w sat (asInt f.ty w a - asInt f.ty w b))
  | .vmul f => some (f, fun w a b _ => (a * b % 2 ^ w, 0))
  | .vmulh f => some (f, fun w a b _ => ((asInt f.ty w a * asInt f.ty w b / (2 ^ w : Nat) % (2 ^ w : Nat)).toNat, 0))
  | .vmad f => some (f, fun w a b c => ((a * b + c) % 2 ^ w, 0))
  | .vand f => some (f, fun _ a b _ => (a &&& b, 0))
  | .vor f => some (f, fun _ a b _ => (a ||| b, 0))
  | .vxor f => some (f, fun _ a b _ => (a ^^^ b, 0))
  | .vnot f => some (f, fun w a _ _ => (2 ^ w - 1 - a, 0))
  | .vshl f => some (f, fun w a b _ => (a * 2 ^ (b % w) % 2 ^ w, 0))
  | .vshr f => some (f, fun w a b _ => (a / 2 ^ (b % w), 0))
  | .vsra f => some (f, fun w a b _ => (((if a < 2 ^ (w - 1) then (a : Int) else a - (2 ^ w : Nat)) / (2 ^ (b % w) : Nat) % (2 ^ w : Nat)).toNat, 0))
  | .vmin f => some (f, fun w a b _ => (if asInt f.ty w a ≤ asInt f.ty w b then a else b, 0))
  | .vmax f => some (f, fun w a b _ => (if asInt f.ty w a ≤ asInt f.ty w b then b else a, 0))
  | .vabs f sat => some (f, fun w a _ _ => exactInt f.ty w sat (if a < 2 ^ (w - 1) then (a : Int) else (2 ^ w : Nat) - a))
  | .vneg f sat => some (f, fun w a _ _ => exactInt f.ty w sat (-(if a < 2 ^ (w - 1) then (a : Int) else a - (2 ^ w : Nat))))
  | .vpopc f => some (f, fun w a _ _ => ((List.range w).countP fun k => a.testBit k, 0))
  | .vclz f => some (f, fun w a _ _ => (((List.range w).find? fun k => a.testBit (w - 1 - k)).getD w, 0))
  | .vbfx f => some (f, fun w a b _ =>
      let p := b % 32
      let q := min (b / 256 % 64) (32 - p)
      let x := a / 2 ^ p % 2 ^ q
      (if q ≠ 0 ∧ f.ty.signed ∧ 2 ^ (q - 1) ≤ x then 2 ^ w - 2 ^ q + x else x, 0))
  | _ => none

/-- The element functions of the floating-point and special-function instructions (R228 to R236), on the exact values of the codes: whether the
SFU executes it. Each rounds the exact result as R125 to R135 say. -/
def floatElement (r : Group) : Instr → Option (LaneF × Bool × (Nat → Nat → Nat → Nat × BitVec 8)) := fun i =>
  let num := fun (f : LaneF) (a : Nat) => (fpFmt f.ty).decD r.daz a
  let sfu := fun (f : LaneF) (fn : Bool → FVal → FRes) => some (f, true, fun (a _ _ : Nat) => fn r.ftz (fmtF32.decD r.daz a))
  let half := fun (f : LaneF) => (fpFmt f.ty).signBit true
  match i with
  | .vfadd f => some (f, false, fun a b _ => (fpFmt f.ty).add (r.modeOf f) r.ftz (num f a) (num f b))
  | .vfsub f => some (f, false, fun a b _ => (fpFmt f.ty).add (r.modeOf f) r.ftz (num f a) (num f b).flip)
  | .vfmul f => some (f, false, fun a b _ => (fpFmt f.ty).mul (r.modeOf f) r.ftz (num f a) (num f b))
  | .vfma f => some (f, false, fun a b c => (fpFmt f.ty).fma (r.modeOf f) r.ftz (num f a) (num f b) (num f c))
  | .vfms f => some (f, false, fun a b c => (fpFmt f.ty).fma (r.modeOf f) r.ftz (num f a) (num f b) (num f c).flip)
  | .vfnma f => some (f, false, fun a b c => (fpFmt f.ty).fma (r.modeOf f) r.ftz (num f a).flip (num f b) (num f c))
  | .vfmin f prop => some (f, false, fun a b _ => (fpFmt f.ty).minMax false prop r.daz a b)
  | .vfmax f prop => some (f, false, fun a b _ => (fpFmt f.ty).minMax true prop r.daz a b)
  | .vfabs f => some (f, false, fun a _ _ => (a % half f, 0))
  | .vfneg f => some (f, false, fun a _ _ => (if a < half f then a + half f else a - half f, 0))
  | .vfclass f => some (f, false, fun a _ _ => (fclass (fpFmt f.ty) a, 0))
  | .vfrnd f exact => some (f, false, fun a _ _ => (fpFmt f.ty).rndInt (r.modeOf f) exact (num f a))
  | .vfdiv f => some (f, true, fun a b _ => (fpFmt f.ty).div (r.modeOf f) r.ftz (num f a) (num f b))
  | .vfsqrt f => some (f, true, fun a _ _ => (fpFmt f.ty).sqrt (r.modeOf f) r.ftz (num f a))
  | .vrcp f => sfu f sfuRcp
  | .vrsq f => sfu f sfuRsq
  | .vsin f => sfu f (sfuTrig false)
  | .vcos f => sfu f (sfuTrig true)
  | .vexp2 f => sfu f sfuExp2
  | .vlog2 f => sfu f sfuLog2
  | .vtanh f => sfu f sfuTanh
  | _ => none

/-- A value of elements, element by element: results side by side, flags together (R124). -/
def byElement (t : LType) (fn : Nat → Nat → Nat → Nat × BitVec 8) (x y z : W64) : List W32 × BitVec 8 :=
  let w := tyWidth t
  let at_ := fun (v : W64) (e : Nat) => v.toNat / 2 ^ (w * e) % 2 ^ w
  let rs := (List.range t.elems).map fun e => fn (at_ x e) (at_ y e) (at_ z e)
  let v := (List.range t.elems).foldl (fun a e => a + (rs.getD e (0, 0)).1 % 2 ^ w * 2 ^ (w * e)) 0
  (if t.is64 then [BitVec.ofNat 32 v, BitVec.ofNat 32 (v / 2 ^ 32)] else [BitVec.ofNat 32 v], rs.foldl (fun a p => a ||| p.2) 0)

/-- Needs, words, mask and flags of the other data instructions of the integer, movement and mask kinds (R194 to R197). -/
def laneOther (r : Group) : Instr → Option (LaneF × LNeeds × Nat × (Nat → List W32) × Option (Nat × (Nat → Bool))) := fun i =>
  let sn := r.blkSnap
  let B := fun (f : LaneF) (l : Nat) => r.rdB f sn l
  let A := fun (f : LaneF) (l : Nat) => r.rd f.ty f.va l
  let words := fun (f : LaneF) (x : W64) => if f.ty.is64 then [x.setWidth 32, (x >>> 32).setWidth 32] else [x.setWidth 32]
  let n := fun (f : LaneF) => if f.ty.is64 then 2 else 1
  let el := fun (f : LaneF) (x : W64) (e : Nat) => asInt f.ty (tyWidth f.ty) (x.toNat / 2 ^ (tyWidth f.ty * e) % 2 ^ tyWidth f.ty)
  let first := fun (f : LaneF) => ((List.range 96).find? fun l => (r.eff f.men).getLsbD l).getD 0
  match i with
  | .vbfi f => some (f, { laneNeeds f true false with vr := regOf f.ty f.vd :: (laneNeeds f true false).vr }, 1, fun l =>
      let b := (B f l).toNat
      let p := b % 32
      let q := min (b / 256 % 64) (32 - p)
      let d := (r.rd f.ty f.vd l).toNat
      [BitVec.ofNat 32 (d - d / 2 ^ p % 2 ^ q * 2 ^ p + (A f l).toNat % 2 ^ q * 2 ^ p)], none)
  | .vsel f k => some (f, { laneNeeds f true false with kr := k.toNat :: (laneNeeds f true false).kr }, n f, fun l =>
      words f (if (r.kreg k.toNat).getLsbD l then A f l else B f l), none)
  | .vmov f => some (f, laneNeeds f false false, n f, fun l => words f (B f l), none)
  | .vperm f => some (f, laneNeeds f true false, n f, fun l =>
      words f (let j := (B f l).toNat % 128; if j < 96 then A f j else 0), none)
  | .vbcast f => some (f, laneNeeds f true false, n f, fun _ =>
      words f (let j := (B f (first f)).toNat % 128; if j < 96 then A f j else 0), none)
  | .vballot f => some (f, laneNeeds f true true, 0, fun _ => [], some (f.vd.toNat % 16, fun l => A f l != 0))
  | .vcmp f c any => some (f, laneNeeds f true true, 0, fun _ => [], some (f.vd.toNat % 16, fun l =>
      let holds := fun (e : Nat) =>
        let x := el f (A f l) e
        let y := el f (B f l) e
        match c with
        | .eq => decide (x = y)
        | .ne => decide (x ≠ y)
        | .lt => decide (x < y)
        | .ge => decide (y ≤ x)
        | .le => decide (x ≤ y)
        | .gt => decide (y < x)
      if any then (List.range f.ty.elems).any holds else (List.range f.ty.elems).all holds))
  | .vaddc f k => some (f, { laneNeeds f true false with kr := k.toNat :: (laneNeeds f true false).kr, kw := [k.toNat] }, 1, fun l =>
      [BitVec.ofNat 32 ((A f l).toNat + (B f l).toNat + ((r.kreg k.toNat).getLsbD l).toNat)],
      some (k.toNat, fun l => decide (2 ^ 32 ≤ (A f l).toNat + (B f l).toNat + ((r.kreg k.toNat).getLsbD l).toNat)))
  | .vsubb f k => some (f, { laneNeeds f true false with kr := k.toNat :: (laneNeeds f true false).kr, kw := [k.toNat] }, 1, fun l =>
      [BitVec.ofInt 32 ((A f l).toNat - (B f l).toNat - ((r.kreg k.toNat).getLsbD l).toNat)],
      some (k.toNat, fun l => decide ((A f l).toNat < (B f l).toNat + ((r.kreg k.toNat).getLsbD l).toNat)))
  | _ => none

/-- Combines values left to right, element by element (R198): what a reduction has after each of them. -/
def running (op : Nat → Nat → Nat × BitVec 8) (t : LType) : W64 → List W64 → List (W64 × BitVec 8)
  | _, [] => []
  | x, y :: l => let p := mapElems t (fun _ a b _ => op a b) x y 0; p :: running op t p.1 l

/-- Words and flags of the reductions, scans, comparisons of floating-point numbers, conversions and packings (R198, R231, R237 to R243). -/
def laneConverts (r : Group) : Instr → Option (LaneF × LNeeds × Nat × (Nat → List W32) × Option (Nat × (Nat → Bool)) × (Nat → BitVec 8)) := fun i =>
  let sn := r.blkSnap
  let A := fun (f : LaneF) (l : Nat) => r.rd f.ty f.va l
  let words := fun (f : LaneF) (x : W64) => if f.ty.is64 then [x.setWidth 32, (x >>> 32).setWidth 32] else [x.setWidth 32]
  let n := fun (f : LaneF) => if f.ty.is64 then 2 else 1
  let act := fun (f : LaneF) => (List.range 96).filter fun l => (r.eff f.men).getLsbD l
  let sums := fun (f : LaneF) (op : RedOp) => match (act f).map (A f) with
    | [] => []
    | x :: l => let p := redFirst r f.ty op x; p :: running (redStep r f.ty op (tyWidth f.ty)) f.ty p.1 l
  let flags := fun (l : List (W64 × BitVec 8)) => l.foldl (fun (a : BitVec 8) p => a ||| p.2) 0
  let fres := fun (l : List (Nat × BitVec 8)) => l.foldl (fun (a : BitVec 8) p => a ||| p.2) 0
  let pack := fun (f : LaneF) (cnt w at0 e0 : Nat) (keeps sat : Bool) (fm : Fmt) =>
    let el := fun (l : Nat) => (List.range cnt).map fun j => r.pack f fm sat l (f.va.toNat + j) (e0 + j)
    some (f, packNeeds f cnt keeps, 1, (fun l =>
      let x := (List.range cnt).foldl (fun a j => a + ((el l).getD j (0, 0)).1 % 2 ^ w * 2 ^ (w * j)) 0
      let old := if keeps then (r.vread f.vd.toNat l).toNat else 0
      [BitVec.ofNat 32 (old - old / 2 ^ at0 % 2 ^ (w * cnt) * 2 ^ at0 + x * 2 ^ at0)]), (none : Option (Nat × (Nat → Bool))), fun l => fres (el l))
  match i with
  | .vred f op => some (f, laneNeeds f true false, n f, fun _ => words f (((sums f op).getLast?.map (·.1)).getD 0), none, fun _ => flags (sums f op))
  | .vscan f op excl =>
    let vs := if excl then (ofElems (tyWidth f.ty) (List.replicate f.ty.elems (redId f.ty op (tyWidth f.ty))), 0) :: (sums f op).dropLast else sums f op
    let mine := fun (l : Nat) => vs.getD ((act f).findIdx (· == l)) (0, 0)
    some (f, laneNeeds f true false, n f, fun l => words f (mine l).1, none, fun l => (mine l).2)
  | .vfcmp f c sig any =>
    let ps := fun (l : Nat) => (List.range f.ty.elems).map fun e =>
      ((fpFmt f.ty).decD r.daz ((A f l).toNat / 2 ^ (tyWidth f.ty * e) % 2 ^ tyWidth f.ty),
        (fpFmt f.ty).decD r.daz ((r.rdB f sn l).toNat / 2 ^ (tyWidth f.ty * e) % 2 ^ tyWidth f.ty))
    some (f, laneNeeds f true true, 0, fun _ => [],
      some (f.vd.toNat % 16, fun l => let h := (ps l).map fun p => fcondHolds c p.1 p.2; if any then h.any id else h.all id),
      fun l => (ps l).foldl (fun (a : BitVec 8) p => a ||| (if sig && (p.1.isNan || p.2.isNan) then fIVD else nanFlags [p.1, p.2])) 0)
  | .vcvt f src sat =>
    let el := fun (l : Nat) => (List.range src.elems).map fun e =>
      cvtElem r f src sat ((r.rd src f.va l).toNat / 2 ^ (tyWidth src * e) % 2 ^ tyWidth src)
    some (f, { laneNeeds f true false with vr := [regOf src f.va] }, n f,
      fun l => words f (ofElems (tyWidth f.ty) ((el l).map (·.1))), none, fun l => fres (el l))
  | .vcvpk2 f .own _ sat => pack f 2 16 0 0 false sat (fpFmt f.ty)
  | .vcvpk2 f fmt hi sat => pack f 2 8 (if hi then 16 else 0) (if hi then 2 else 0) true sat (packFmt f fmt)
  | .vcvpk4 f .e2m1 hi sat => pack f 4 4 (if hi then 16 else 0) 0 true sat fmtE2M1
  | .vcvpk4 f fmt _ sat => pack f 4 8 0 0 false sat (packFmt f fmt)
  | .vqscale f dst mul =>
    let c := fun (l : Nat) => scaleCode (fmtF32.decD r.daz (r.vread f.va.toNat l).toNat).abs (emaxOf dst)
    some (f, laneNeeds f true false, 1, fun l => [BitVec.ofNat 32 (if !mul then (c l).1 else if (c l).1 = 255 then fmtF32.nanCode
      else (fmtF32.rnd .rn false false 1 (127 - ((c l).1 : Int))).1)], none, fun l => (c l).2)
  | .vamax f span =>
    let p := fun (l : Nat) => amaxOf r.ftz (((act f).filter fun x => x / spanSize span == l / spanSize span).flatMap fun x =>
      (List.range f.ty.elems).map fun e => (fpFmt f.ty).decD r.daz ((A f x).toNat / 2 ^ (tyWidth f.ty * e) % 2 ^ tyWidth f.ty))
    some (f, laneNeeds f true false, 1, fun l => [BitVec.ofNat 32 (p l).1], none, fun l => (p l).2)
  | .vunpk f src scale =>
    let p := fun (l : Nat) => unpk src scale r.fmodeRM r.ftz r.daz (r.vread f.va.toNat l).toNat (r.rdB f sn l).toNat
    some (f, laneNeeds f true false, 1, fun l => [BitVec.ofNat 32 (p l).1], none, fun l => (p l).2)
  | .vlut f j pair =>
    let nib := fun (l k : Nat) => (r.vread f.va.toNat l).toNat / 2 ^ (4 * k) % 16
    some (f, { laneNeeds f true false with vr := (f.va.toNat, 1, 1) :: (match f.b with
        | .reg x => [(x.toNat, 8, 8)]
        | _ => []) }, 1,
      fun l => [if pair then codebook f r sn l (nib l (j.toNat + 1)) ++ codebook f r sn l (nib l j.toNat)
        else codebook f r sn l (nib l j.toNat) ++ (0 : BitVec 16)], none, fun _ => 0)
  | _ => none

/-- What the control instructions of the lane stream, the mask instructions, VNOP and VWAITC leave, and where LPC goes (R199, R210, R211, R219): none where they trap or wait. -/
def laneControl (r : Group) (i : Instr) : Option (LNeeds × Group × W64) :=
  let mask := fun (rd : List Nat) (d : BitVec 4) (m : Mask) =>
    some ((⟨[], [], rd, [d.toNat], none, false⟩ : LNeeds),
      { r with k := r.k.setIfInBounds d.toNat ((r.exec &&& m) ||| (~~~r.exec &&& r.k.getD d.toNat 0)) }, r.lpc + 12)
  let K := fun (a : BitVec 4) => r.k.getD a.toNat 0
  match i with
  | .kand d a b => mask [a.toNat, b.toNat] d (K a &&& K b)
  | .kor d a b => mask [a.toNat, b.toNat] d (K a ||| K b)
  | .kxor d a b => mask [a.toNat, b.toNat] d (K a ^^^ K b)
  | .knot d a => mask [a.toNat] d (~~~(K a))
  | .kmov d a => mask [a.toNat] d (K a)
  | .vnop => some (noNeeds, r, r.lpc + 12)
  | .vwaitc l st c t =>
    if r.ctr .ldc ≤ l.toNat ∧ r.ctr .stc ≤ st.toNat ∧ r.ctr .cpc ≤ c.toNat ∧ r.ctr .tlc ≤ t.toNat then some (noNeeds, r, r.lpc + 12) else none
  | .vjmp off => some (noNeeds, r, r.lpc + off.signExtend 64)
  | .vbr k inv off join =>
    let j := r.lpc + 4 * join.signExtend 64
    let taken := if inv then r.exec &&& ~~~(K k) else r.exec &&& K k
    let div := fun (resume : W64) (m : Mask) => (⟨.div, resume, j, m, 0, Vector.replicate 16 0⟩ : RsEntry)
    if 31 ≤ r.rs.length then none
    else if taken = r.exec then some ({ noNeeds with kr := [k.toNat] }, { r with rs := r.rs ++ [div j 0] }, r.lpc + off.signExtend 64)
    else if taken = 0 then some ({ noNeeds with kr := [k.toNat] }, { r with rs := r.rs ++ [div j 0] }, r.lpc + 12)
    else some ({ noNeeds with kr := [k.toNat] },
      { r with rs := r.rs ++ [div (r.lpc + off.signExtend 64) taken], exec := r.exec &&& ~~~taken }, r.lpc + 12)
  | .vjoin =>
    match r.rs.getLast? with
    | some e =>
      if e.kind ≠ .div then none
      else if e.resume = e.reconv then some (noNeeds, { r with rs := r.rs.dropLast, exec := r.exec ||| e.mask }, r.lpc + 12)
      else some (noNeeds, { r with rs := r.rs.dropLast ++ [{ e with mask := r.exec, resume := e.reconv }], exec := e.mask }, e.resume)
    | none => none
  | .vret =>
    match r.rs.getLast? with
    | some e => if e.kind ≠ .call then none else some (noNeeds, { r with rs := r.rs.dropLast, exec := e.mask }, e.resume)
    | none => none
  | _ => none

/-! ## Lane accesses -/

/-- The lanes that a lane instruction with requests has still to send: after a restoration not those that the image lists (R392, R400). -/
def lanesLeft (r : Group) (f : LaneF) : Mask := if r.lsentV = true then r.eff f.men &&& ~~~r.lsent else r.eff f.men

/-- A lane atomic may run and its lanes' addresses pass the checks of R201 for writing: aligned to their size, mapped and permitted, on a host page
only where the link does this AtomicOp; no byte of them is poisoned. `u` is the state behind the translations. -/
def atomicsPass (s : State) (g : Nat) (r : Group) (f : LaneF) (size : MSize) (ord : MOrder) (sc : Scope) (imm : W32) (host : Bool)
    (ls : List (Nat × W64 × List Piece)) (u : State) : Prop :=
  laneTurn ⟨addrRegs f true ++ (f.vc.map fun c => dataRegs c size).toList, [dataRegs f.vd size], kRegs f, [], some .ldc, false⟩ s g r ∧
  r.eff f.men ≠ 0 ∧ s.laneMay g r ord sc = true ∧
  s.laneAll (g / 32) r.ctx (mbytes size) (mbytes size) .write 2
    (fun va ps => if !(s.hostAtomics && host) && ps.any (fun (p : Piece) => paClass p.2.1 == 1) then some ⟨cREGION, va, 0, true, false, false⟩ else none)
    (r.laneVas f imm (lanesLeft r f)) = (.ok ls, u) ∧ u.lanePoison none ls = none

/-- An issued lane atomic: it counts in LDC, its destination is pending, LPC has passed it; masks and FLAGS stay. -/
def atomicsCount (r r' : Group) (f : LaneF) (size : MSize) (id : Nat) : Prop :=
  r'.outs = r.outs ++ [⟨id, .ldc, true, true, false, r.lpc, false⟩] ∧ r'.pendV = r.pendV ++ [⟨id, false, f.vd.toNat, mwords size, r.lpc⟩] ∧
  r'.lpc = r.lpc + BitVec.ofNat 64 (if f.pfx then 16 else 12) ∧ r'.k = r.k ∧ r'.flags = r.flags ∧ r'.s = r.s

/-- A lane Fen instruction runs to where its requests have left (R291, R292, R296, R36): the regions of its lanes are mapped and held by this
module, and no request of the group waits. TLC rises once, its status register (and, but for a deposit, the window of vd) is pending, a
blocking form parks the group, and for each lane a request is on its way to the region's home, with the lane's tuple or pattern, its masks and its
selectors. -/
def fenRuns (i : Instr) (k : FenKind) (blk : Bool) (sc : Scope) (sel : BitVec 14) (f : LaneF) : Prop :=
  ∀ (s : State) (g : Nat) (r : Group) (vs : BitVec 10) (ls : List (Nat × Nat × Nat)) (u : State), f.b = .reg vs → r.eff f.men ≠ 0 →
    s.laneHeld g = false →
    laneTurn { vr := if k = .deposit then [(f.vd.toNat, 16, 16)] else [(f.vd.toNat, 16, 16), (f.va.toNat, 16, 16)]
               vw := if k = .deposit then [(vs.toNat, 1, 1)] else [(f.vd.toNat, 16, 16), (vs.toNat, 1, 1)]
               kr := kRegs f, kw := [], ctr := some .tlc, sfu := false } s g r →
    (k = .deposit → (∀ l, l < 96 → (lanesLeft r f).getLsbD l = true → (r.vread (f.vd.toNat + 1) l).toNat < 8) ∧ s.fenceHolds g r sc = true ∧
      s.loadsBound g s.nextId 0 true = true) →
    s.fenAll (g / 32) r.ctx k (((List.range 96).filter fun l => (lanesLeft r f).getLsbD l).map fun l =>
      (l, r.vread (if k = .deposit then vs.toNat else f.va.toNat + 1) l)) = (.ok ls, u) →
    u.fenUnsent g = [] → (∀ x, x ∈ ls → (kget u.alder.regions x.2.2).isSome = true) →
    ∃ t r' o, exec i s = .next t ∧ t.mem = s.mem ∧ t.grp? g = some r' ∧ r'.outs = r.outs ++ [⟨u.nextId, .tlc, true, true, false, r.lpc, false⟩] ∧
      r'.parked = (if blk then some .fen else r.parked) ∧ r'.lpc = r.lpc + BitVec.ofNat 64 (if f.pfx then 16 else 12) ∧
      kget t.fenOps u.nextId = some o ∧ o.kind = k ∧ o.left = ls.length ∧ o.vs = vs.toNat ∧
      r'.pendV = r.pendV ++ (if k = .deposit then [] else [⟨u.nextId, false, f.vd.toNat, 16, r.lpc⟩]) ++ [⟨u.nextId, false, vs.toNat, 1, r.lpc⟩] ∧
      ∀ x, x ∈ ls →
        let raw := (List.range 16).map fun w => r.vread ((if k = .deposit then f.vd.toNat else f.va.toNat) + w) x.1
        ∃ n q y, kget t.fenReqs n = some q ∧ q.op = u.nextId ∧ q.g = g ∧ q.lane = x.1 ∧ q.handle = x.2.1 ∧ q.region = x.2.2 ∧ q.kind = k ∧
          q.blk = blk ∧ q.sc = sc ∧ q.sel = sel ∧ q.sent = true ∧ q.code = none ∧ q.slice = fenHome x.2.2 (raw.getD 0 0) ∧
          q.words = (if k = .deposit then depositWords raw x.1 (g % 32) (g / 32) s.modNum.toNat else raw) ∧
          q.masks = (List.range 16).map (fun w => r.vread (f.vd.toNat + w) x.1) ∧ y ∈ t.timed ∧ y.i = k.event ∧ y.args = [n]

/-! ## Team instructions -/

/-- The registers a team instruction names, what it leaves of its team's record, and where TPC goes (R34, R250, R251). -/
def teamLeaves (m : Team) (i : Instr) : Option (List (BitVec 5) × Team × W64) :=
  let R := fun (a : BitVec 5) => if a = 0 then (0 : W64) else m.w.getD a.toNat 0
  match i with
  | .wli d imm => some ([d], m.takes d (imm.signExtend 64), m.tpc + 8)
  | .wadd d a b => some ([d, a, b], m.takes d (R a + R b), m.tpc + 8)
  | .wsub d a b => some ([d, a, b], m.takes d (R a - R b), m.tpc + 8)
  | .waddi d a imm => some ([d, a], m.takes d (R a + imm.signExtend 64), m.tpc + 8)
  | .wshl d a b => some ([d, a, b], m.takes d (R a <<< (R b).extractLsb' 0 6), m.tpc + 8)
  | .wbr c a off => some ([a], m, if branches c (R a) then m.tpc + 8 * off.signExtend 64 else m.tpc + 8)
  | .wjmp off => some ([], m, m.tpc + 8 * off.signExtend 64)
  | .wloop a off => some ([a], m.takes a (R a - 1), if R a ≠ 1 then m.tpc + 8 * off.signExtend 64 else m.tpc + 8)
  | _ => none

/-- An operation for the matrix engine: kind, tile, barrier, whether its pairs are even, the values of its registers; none where a check of its own
fails (R257, R263 to R265). -/
def engineForm (m : Team) (i : Instr) : Option (List (BitVec 5) × EngKind × BitVec 3 × BitVec 4 × List (BitVec 5) × List W64) :=
  let armed := fun (n : BitVec 4) => (m.bar n).armed
  match i with
  | .mzero t => some ([], .mzero, t, 0, [], [])
  | .mload t a n =>
    if shapeOk (m.wread (a + 1)) 128 ∧ (m.wread a).toNat % 16 = 0 ∧ armed n then
      some ([a, a + 1], .mload, t, n, [a], [m.wread a, m.wread (a + 1)]) else none
  | .mma t a b c n =>
    if mmaBad m a b c n = none then
      some ([a, a + 1, b, b + 1, c], .mma, t, n, [a, b], [m.wread a, m.wread (a + 1), m.wread b, m.wread (b + 1), m.wread c]) else none
  | .mdrain t a n c =>
    if shapeOk (m.wread (a + 1)) 128 ∧ (m.wread a).toNat % 16 = 0 ∧ armed n ∧
        (c.spd = false ∨ drainSpBad m (m.wread a) (m.wread (a + 1)) (ofmtBytes c.ofmt) = none) then
      some ([a, a + 1], .mdrain, t, n, [a], [m.wread a, m.wread (a + 1)]) else none
  | .mdraina t a n c =>
    if shapeOk (m.wread (a + 1)) 128 ∧ (m.wread a).toNat % 16 = 0 ∧ armed n ∧
        (c.spd = false ∨ drainSpBad m (m.wread a) (m.wread (a + 1)) (ofmtBytes c.ofmt) = none) then
      some ([a, a + 1], .mdraina, t, n, [a], [m.wread a, m.wread (a + 1)]) else none
  | _ => none

/-! ## The module's memory -/

/-- What the L2 slices hold is sound: a set holds a line of its own once, with its bytes in their canonical form; dirty bytes lie in valid
sectors, and the other bytes of those are as in DRAM. -/
def State.homePlain (s : State) : Prop :=
  swf (w := 8) s.mem = true ∧ ∀ x k c, kget (s.slice x).l2 k = some c →
    kwf c.ways = true ∧ (c.ways.map fun p => p.2.line).Nodup ∧ ∀ p, p ∈ c.ways → swf p.2.data = true ∧
      homeSlice (p.2.line * 256) = x ∧ l2Set (p.2.line * 256) = k ∧ ∀ i, i < 256 →
        (p.2.dirty.getLsbD i = true → p.2.valid.getLsbD (i / 64) = true) ∧
        (p.2.valid.getLsbD (i / 64) = true → p.2.dirty.getLsbD i = false → sget p.2.data i = s.dram (p.2.line * 256 + i))

/-- The new value of an integer atomic of w bits, from the old value and the operand, both below 2^w (R163). -/
def atomicValue (op : AtomOp) (w old x : Nat) : Nat :=
  match op with
  | .add => (old + x) % 2 ^ w
  | .and => old &&& x
  | .or => old ||| x
  | .xor => old ^^^ x
  | .min => if (BitVec.ofNat w old).toInt ≤ (BitVec.ofNat w x).toInt then old else x
  | .max => if (BitVec.ofNat w old).toInt ≤ (BitVec.ofNat w x).toInt then x else old
  | .minu => if old ≤ x then old else x
  | .maxu => if old ≤ x then x else old
  | .swap => x

/-- A value reaches the scalar register that waits for an operation, and no other register. -/
def Group.lands (r r' : Group) (p : PendS) (v : W64) : Prop :=
  r'.pendS = r.pendS.filter (·.id != p.id) ∧ ∀ k, r'.sread k = if k = p.reg ∧ k ≠ 0 then v else r.sread k

/-- What the release of an entry of the commit queue leaves in its group in a cycle (R29, R30, R52, R57, R283): a special register, the bulk
target, the registers that SREL gives up. -/
def releaseLeaves (r : Group) (now : Nat) (e : CqEntry) (i : Instr) : Option Group :=
  match i with
  | .swrs _ k =>
    match k.toNat with
    | 0x07 => some { r with flags := BitVec.ofNat 8 e.x.toNat ||| (if r.fset.1 = now then r.fset.2 else 0) }
    | 0x08 => some { r with ftrapen := BitVec.ofNat 8 e.x.toNat }
    | 0x09 => some { r with fmode := BitVec.ofNat 4 e.x.toNat }
    | 0x11 => some { r with lease := BitVec.ofNat 17 (max 64 (min 65536 e.x.toNat)) }
    | _ => none
  | .btarg _ _ _ => some { r with xtgtA := e.x, xtgtS := e.y, xtgtV := true }
  | .srel => some (if r.allotSt = .full then
      { r with allot := 32, allotSt := .prologue, v := r.v.filter fun p => decide (p.1 < 32 * 96) } else r)
  | _ => none

/-- The commit queue's head may be released now: four releases at most in a cycle (R150). -/
def Group.releases (r : Group) (s : State) (e : CqEntry) : Prop :=
  r.stop = .runs ∧ r.trap = none ∧ (∃ lim, r.rel = some lim ∧ e.pos < lim) ∧ r.cq = [e] ∧ ¬(r.relCnt.1 = s.ccount ∧ 4 ≤ r.relCnt.2) ∧
  e.skip = false ∧ r.lq = [] ∧ r.drain = true

/-- The record once the last entry has left the commit queue. -/
def Group.released (r x : Group) (now : Nat) : Group :=
  { x with cq := [], rel := none, relCnt := (now, (if r.relCnt.1 = now then r.relCnt.2 else 0) + 1) }

/-- An armed word of a team that is its own, is in no error phase and does not complete with one more arrival (R42, R44, R47). -/
def Team.openWord (m : Team) (t : Nat) (n : BitVec 4) : Prop :=
  (m.bar n).armed = true ∧ m.forwards t n = false ∧ (m.bar n).err = false ∧ (m.bar n).arrived + 1 < (m.bar n).expect ∧ swf m.sp = true

/-- A queue whose completion ring has room and holds no entry back, with no other command under way (R406, R407). -/
def State.mayComplete (s : State) (q : Nat) : Prop :=
  q < 16 ∧ (s.queue q).waiting = [] ∧ 4 ≤ (s.queue q).size ∧ (s.queue q).size ≤ 16 ∧
  ((s.queue q).cqtail - (s.queue q).cqhead).toNat < 2 ^ (s.queue q).size ∧ swf s.hostMem = true

/-- From s to t a completion entry of 32 bytes has been written at CQTAIL and CQTAIL has moved past it (R406): cookie, context, opcode,
status, PTIME. -/
def completes (s t : State) (q : Nat) (cookie : W64) (ctxid opc status : Nat) : Prop :=
  (t.queue q).cqtail = (s.queue q).cqtail + 1 ∧
  sgetL t.hostMem (((s.queue q).cqbase.extractLsb' 12 40).toNat * 4096 + 32 * ((s.queue q).cqtail.toNat % 2 ^ (s.queue q).size)) 32 =
    natBytes 8 cookie.toNat ++ natBytes 2 ctxid ++ natBytes 2 opc ++ natBytes 4 status ++ natBytes 8 s.ptime ++ List.replicate 8 0

/-- A field of a command: n bytes from byte i of its 64. -/
def cmdField (cmd : BitVec 512) (i n : Nat) : Nat := cmd.toNat / 2 ^ (8 * i) % 2 ^ (8 * n)

/-- A gate that transmits what the domain sends: not one that replays (R437). -/
def State.transmits (s : State) (g : Nat) : Prop := (s.gates.getD g Gate.reset).mode ≠ .replay

/-- A port that sends at once: no packet waits there, its replay buffers have room for n flits, and its gate transmits (R412, R437). -/
def State.portFree (s : State) (port n : Nat) : Prop :=
  (s.port port).wait = [] ∧ (∀ i, i < 2 → ((s.port port).planes.getD i Plane.fresh).buf.length + n ≤ 1024) ∧ s.transmits (1 + port)

/-- A request of another module for memory of this one, not served before, whose response can leave at once (R410, R414). -/
def State.fromPeer (s : State) (p : Packet) : Prop :=
  p.dst = s.modNum ∧ p.src ≠ s.modNum ∧ s.served? (srcDie p) p = none ∧ s.backed (p.addr.toNat % 2 ^ 42) = true ∧
  s.portFree (portFor (homeDie (p.addr.toNat % 2 ^ 42) % 4) p.src.toNat) 2

/-- From s to t a response to a request has left (R411, R414): its kind, its source and destination, its ESEQ, its time, and it is kept. -/
def responds (s t : State) (p r : Packet) (time : Nat) : Prop :=
  Sent.packet (portFor (homeDie (p.addr.toNat % 2 ^ 42) % 4) p.src.toNat) r ∈ t.sent ∧ r.kind = 6 ∧ r.dst = p.src ∧ r.src = s.modNum ∧ r.eseq = p.eseq ∧
  r.addr = p.addr ∧ r.time = BitVec.ofNat 64 time ∧ (t.served? (srcDie p) p).map (·.resp) = some (some r)

/-- From s to t gate g has written one more record into its ring, with the stamp of s and a kind (R434): at its slot in host memory. -/
def records (s t : State) (g kind : Nat) : Prop :=
  ∃ rest, Sent.hostWrite ((s.gateAt g).slot (s.gateAt g).gtail.toNat) (natBytes 8 s.ptime ++ natBytes 1 kind ++ rest) ∈ t.sent ∧
    (t.gateAt g).gtail = (s.gateAt g).gtail + 1

/-- The kind of the record of an arrival (R434). -/
def recordKind : Arrival → Nat
  | .barRead .. | .barWrite .. | .barAtomic .. | .readCpl .. | .atomicCpl .. => 1
  | .packet _ => 2
  | .timex .. => 3
  | .hold _ => 4
  | .credit .. => 5
  | .samples _ => 6
  | .wcorr .. => 7
  | .stepEvent _ => 8
  | .wakeEntry .. => 9

/-- An event stands in the agenda of times of a state, due some cycles from now. -/
def State.waits (s : State) (cycles : Nat) (i : Instr) (args : List Nat) : Prop :=
  ∃ y, y ∈ s.timed ∧ y.i = i ∧ y.args = args ∧ y.due = s.ccount + cycles

/-- The counts of consecutive high and low samples of a core and its thermal state after a sample (R367). -/
def thermal (thot dhot : Nat) (hi lo : Nat) (hot : Bool) (x : W32) : Nat × Nat × Bool :=
  let temp := (x.extractLsb' 0 11).toNat
  let droop := (x.extractLsb' 11 8).toNat
  let valid := x.getLsbD 31
  let hi1 := if valid = false ∨ thot ≤ temp ∨ dhot ≤ droop then hi + 1 else 0
  let lo1 := if valid = true ∧ temp + 48 ≤ thot ∧ droop + 10 ≤ dhot then lo + 1 else 0
  (hi1, lo1, if hot then decide (lo1 < 2) else decide (2 ≤ hi1 ∧ lo1 < 2))

/-- A valid sample with at least a temperature. -/
def warm (temp : Nat) (x : W32) : Prop := x.getLsbD 31 = true ∧ temp ≤ (x.extractLsb' 0 11).toNat

/-- What the executing unit of a state fetches: its stream, core, context, lease and program counter. -/
def State.unitPc (s : State) : Option (StreamId × Nat × Nat × Nat × W64) :=
  match s.cur with
  | .scalar g => (s.grp? g).map fun r => (.scalar, coreOfG g, r.ctx, r.lease.toNat, r.spc)
  | .lane g => (s.grp? g).map fun r => (.lane, coreOfG g, r.ctx, r.lease.toNat, r.lpc)
  | .seq t => (s.team? t).map fun m => (.team, m.core, m.ctx, 512, m.tpc)
  | .none => none

/-- The instruction cache of a core holds, in a sector that is valid and whose lease has not ended, a word at a physical address, none of
whose bytes is poisoned (R94, R340). -/
def State.codeAt (s : State) (core pa : Nat) (w : W32) : Prop :=
  ∃ l, kget (s.core core).icache (pa / 256) = some l ∧ l.valid.getLsbD (pa % 256 / 64) = true ∧ s.ptime < l.exp.getD (pa % 256 / 64) 0 ∧
    bytesW 32 (sgetL l.data (pa % 256) 4) = w ∧ l.poisonIn pa 4 = none ∧ ¬(paClass pa = 0 ∧ isRegBlock (paLow pa) = true)

/-- Words stand at consecutive addresses from a virtual address on, each of its pages translated and executable; t is the state behind the
translations (R90, R335). -/
def State.codeWords (s : State) (core ctx : Nat) (va : W64) : List W32 → State → Prop
  | [], t => s = t
  | w :: ws, t => ∃ e pa s1, s.checkVa core ctx va .exec false = (.ok e pa, s1) ∧ s1.codeAt core pa w ∧ s1.codeWords core ctx (va + 4) ws t

end Sys2Proof.Machine

open Sys2Proof Sys2Proof.Machine

/-- R157 to R159: an immediate arithmetic instruction whose operands are there ends with its value in its destination. -/
def Obligations.ImmediateArithmetic : Prop :=
  ∀ (i : Instr) (s : State) (g : Nat) (r : Group) (d : BitVec 6) (v : W64), scalarTurn i s g r →
    immediateValue r.sread i = some (d, v) →
    ∃ t, exec i s = .next t ∧ onlyGroup s t g (((begun i s r).takes i d v).goesOn (r.spc + 4))

/-- R157, R158, R22: a multiply or divide leaves its destination pending, its value due after its latency, which is one for every value of the
operands; the results of a division by zero and of -2^63 by -1 stand in the table of values. An instruction that reads a pending register
stays where it is: nothing of its group changes but that it may ask for the drain. -/
def Obligations.MultiplyDivide : Prop :=
  (∀ (i : Instr) (s : State) (g : Nat) (r : Group) (d : BitVec 6) (lat : Nat) (v : W64), scalarTurn i s g r →
    latencyValue r.sread i = some (d, lat, v) →
    ∃ t, exec i s = .next t ∧
      t.grp? g = some (((begun i s r).waitsFor i d s.nextId .alu v).goesOn (r.spc + 4)) ∧ (∀ h, h ≠ g → t.grp? h = s.grp? h) ∧
      t = { s with groups := t.groups, timed := t.timed, nextId := s.nextId + 1, cur := .none } ∧
      t.timed = (s.sched lat .scalarResultWrite [g, s.nextId]).timed) ∧
  (∀ (i : Instr) (s : State) (g : Nat) (r : Group) (a : BitVec 6), s.cur = .scalar g → s.grp? g = some r → a ∈ (scalarNeeds i).reads →
    (r.pend? a).isSome = true →
    ∃ t r', exec i s = .next t ∧ t = { s with groups := t.groups } ∧ t.grp? g = some r' ∧ r' = { r with drain := r'.drain } ∧
      ∀ h, h ≠ g → t.grp? h = s.grp? h)

/-- R165, R186: branches, jumps and calls. -/
def Obligations.ControlTransfer : Prop :=
  ∀ (i : Instr) (s : State) (g : Nat) (r r' : Group) (pc : W64), scalarTurn i s g r →
    controlTo (fun m => s.salRead (g / 32 / 80) m.toNat) (begun i s r) r.sread i = some (pc, r') →
    ∃ t, exec i s = .next t ∧ onlyGroup s t g (r'.goesOn pc)

/-- R166, R167, R169 to R173: LENQ, LENQR, LSYNC, SNOP, SWAITC, SWAITP, SFENCE and STFENCE go on when what they wait for holds. -/
def Obligations.WaitsAndLaneQueue : Prop :=
  ∀ (i : Instr) (s : State) (g : Nat) (r r' : Group), scalarTurn i s g r → waitLeaves s g (begun i s r) i = some r' →
    ∃ t, exec i s = .next t ∧ onlyGroup { s with posted := postedAfter s g r i } t g (r'.goesOn (r.spc + 4))

/-- R51, R52, R168, R182, R183, R185: special registers, times, allowances, lane words. -/
def Obligations.SpecialRegisters : Prop :=
  ∀ (i : Instr) (s : State) (g : Nat) (r r' : Group) (m : Team), scalarTurn i s g r → s.team? r.team = some m →
    specialLeaves s g m (begun i s r) i = some r' →
    ∃ t, exec i s = .next t ∧ onlyGroup s t g (r'.goesOn (r.spc + 4))

/-- R148, R175, R176, R179: BARINIT, BARA, SACQ and SREL enter the commit queue with what they have read.
R180: SYIELD keeps its stream from issuing for 16 cycles; SYIELD_EXPIRY ends the hold.
R181: SEXIT of a group with no outstanding operation and no REGROUP entry ends the group: its record is gone, the team counts it among
those that have ended. -/
def Obligations.HeldYieldAndExit : Prop :=
  (∀ (i : Instr) (s : State) (g : Nat) (r r' : Group), scalarTurn i s g r → heldLeaves (begun i s r) i = some r' →
     ∃ t, exec i s = .next t ∧ onlyGroup s t g (r'.goesOn (r.spc + 4))) ∧
  (((∀ (s : State) (g : Nat) (r : Group), scalarTurn .syield s g r →
      ∃ t, exec .syield s = .next t ∧ t.grp? g = some ({ begun .syield s r with holdUntil := s.ccount + 17 }.goesOn (r.spc + 4)) ∧
        t = { s with groups := t.groups, timed := t.timed, cur := .none } ∧ t.timed = (s.sched 17 .syieldExpiry [g]).timed) ∧
    (∀ (s : State) (g : Nat) (r : Group), s.args = [g] → s.grp? g = some r → r.holdUntil ≤ s.ccount →
      ∃ t, exec .syieldExpiry s = .next t ∧ t = { s with groups := t.groups } ∧ t.grp? g = some { r with holdUntil := 0 })) ∧
   (∀ (s : State) (g : Nat) (r : Group) (m : Team), scalarTurn .sexit s g r → r.outs = [] → (r.rs.any fun e => e.kind == .regroup) = false →
      kwf s.groups = true → s.team? r.team = some m → m.ended.length + 1 ≠ m.groups →
      ∃ t, exec .sexit s = .next t ∧ t.grp? g = none ∧ (∀ h, h ≠ g → t.grp? h = s.grp? h) ∧ t.mem = s.mem ∧
        ∃ m', t.team? r.team = some m' ∧ m'.ended = m.ended ++ [g]))

/-- R152, R160, R161, R22, R36: a load whose address passes its checks raises LDC and leaves its register pending; its access stands with
the sectors it covers, and is made at once unless a load barrier stands. It changes no memory. -/
def Obligations.ScalarLoads : Prop :=
  ∀ (i : Instr) (s : State) (g : Nat) (r : Group) (d a : BitVec 6) (off : BitVec 13) (n : Nat) (leaf : W64) (pa : Nat) (u : State),
    scalarTurn i s g r → loadForm i = some (d, a, off, n) →
    (s.setGrp g (begun i s r)).checkData (g / 32) r.ctx (r.sread a + off.signExtend 64) n .read true = (.ok leaf pa, u) →
    ∃ t, exec i s = .next t ∧
      t.grp? g = some ((((begun i s r).waitsFor i d u.nextId .load 0).counts u.nextId .ldc true).goesOn (r.spc + 4)) ∧
      (∃ m, t.op? u.nextId = some m ∧ m.kind = .load ∧ m.dest = .sreg d ∧ m.agent = .scalar g ∧
        m.parts.map (fun p => (p.off, p.pa, p.len)) = cuts 3 0 pa n ∧ (r.barrierIds = [] → m.performed = true)) ∧
      t.mem = s.mem ∧ t.teams = s.teams ∧ ∀ h, h ≠ g → t.grp? h = s.grp? h

/-- R149, R161, R36: a store whose address passes its checks raises STC and is held with its data; no byte changes before its release. -/
def Obligations.ScalarStores : Prop :=
  ∀ (i : Instr) (s : State) (g : Nat) (r : Group) (d a : BitVec 6) (off : BitVec 13) (n : Nat) (leaf : W64) (pa : Nat) (u : State),
    scalarTurn i s g r → storeForm i = some (d, a, off, n) →
    (s.setGrp g (begun i s r)).checkData (g / 32) r.ctx (r.sread a + off.signExtend 64) n .write false = (.ok leaf pa, u) →
    ∃ t, exec i s = .next t ∧ t = { u with groups := t.groups, nextId := u.nextId + 1, cur := .none } ∧ t.mem = s.mem ∧
      t.grp? g = some ((((begun i s r).holds i (keptPa leaf pa) (r.sread a) (r.sread d) u.nextId).counts u.nextId .stc false).goesOn (r.spc + 4)) ∧
      ∀ h, h ≠ g → t.grp? h = s.grp? h

/-- R163, R164, R154, R153: an atomic whose address passes its checks is held, its destination waits for the reply, and it bars later loads. -/
def Obligations.ScalarAtomics : Prop :=
  ∀ (i : Instr) (s : State) (g : Nat) (r : Group) (d a b : BitVec 6) (x : W64) (c : Ctr) (admitted : Bool) (leaf : W64) (pa : Nat) (u : State),
    scalarTurn i s g r → atomicForm r.sread i = some (d, a, b, x, c, admitted) →
    (s.setGrp g (begun i s r)).checkData (g / 32) r.ctx (r.sread a) 8 .write true = (.ok leaf pa, u) →
    (pa / 2 ^ 50 % 4 = 1 → u.hostAtomics = true ∧ admitted = true) →
    ∃ t, exec i s = .next t ∧ t = { u with groups := t.groups, nextId := u.nextId + 1, cur := .none } ∧ t.mem = s.mem ∧
      (let r1 := (((begun i s r).waitsFor i d u.nextId .reply 0).holds i (keptPa leaf pa) x (r.sread b) u.nextId).counts u.nextId c false
       t.grp? g = some ({ r1 with barrierIds := r1.barrierIds ++ [u.nextId] }.goesOn (r.spc + 4))) ∧
      ∀ h, h ≠ g → t.grp? h = s.grp? h

/-- R162, R152, R41: SLDSP takes the 8 bytes at its offset, without those that lane stores of the group's running block have put there, or the data
of the youngest held SSTSP there; SSTSP is held; both within SPSIZE.
R44, R176, R177: BARW, and BARAW once its arrival has been counted, go on when the phase they wait for is over, take the record away and, from
.cl on, acquire; while the phase lasts they park the group with its record. An unarmed word stops only a wait that has no phase to wait for. The
word is the team's own: it is not a forwarding copy (R47).
R149, R176: BARAW after its drain enters the commit queue as its only entry, to be released, and counts its arrival there (log 28). -/
def Obligations.ScratchpadAndBarriers : Prop :=
  (∀ (s : State) (g : Nat) (r : Group) (m : Team) (d a : BitVec 6) (imm : BitVec 13) (o : Nat),
     s.team? r.team = some m → (r.sread a + imm.signExtend 64).toNat = o → o % 8 = 0 → o + 8 ≤ m.spSize →
     (scalarTurn (.sldsp d a imm) s g r → r.barrierIds = [] → m.poison.contains o = false → r.cq = [] →
       ∃ t, exec (.sldsp d a imm) s = .next t ∧
         onlyGroup s t g (((begun (.sldsp d a imm) s r).takes (.sldsp d a imm) d
           (BitVec.ofNat 64 (bytesNat ((List.range 8).map fun i => (kget r.hidSp (o + i)).getD (sget m.sp (o + i)))))).goesOn (r.spc + 4))) ∧
     (scalarTurn (.sldsp d a imm) s g r → r.barrierIds = [] → m.poison.contains o = false →
       (∃ q e, r.cq = q ++ [e] ∧ e.pos < r.pos ∧ e.word.toNat / 2 ^ 25 = 0x31 ∧ e.x.toNat = o) →
       ∃ t, exec (.sldsp d a imm) s = .next t ∧
         onlyGroup s t g (((begun (.sldsp d a imm) s r).takes (.sldsp d a imm) d ((r.cq.getLast?.map (·.y)).getD 0)).goesOn (r.spc + 4))) ∧
     (scalarTurn (.sstsp d a imm) s g r →
       ∃ t, exec (.sstsp d a imm) s = .next t ∧
         onlyGroup s t g (((begun (.sstsp d a imm) s r).holds (.sstsp d a imm) 0 (BitVec.ofNat 64 o) (r.sread d) 0).goesOn (r.spc + 4)))) ∧
  ((∀ (i : Instr) (s : State) (g : Nat) (r : Group) (m : Team) (n : BitVec 4) (sc : Scope), scalarTurn i s g r →
      (i = .barw n sc ∨ (i = .baraw n sc ∧ r.baraw = true ∧ r.cq = [])) →
      s.team? r.team = some m → m.forwards r.team n = false → (m.bar n).err = false →
      ((m.bar n).armed = true ∨ r.barTarget.isSome = true ∨ r.baraw = true) →
      (let target := (r.barTarget.or (kget r.arr n.toNat)).getD (BitVec.ofNat 32 (m.bar n).phase)
       ∃ t, exec i s = .next t ∧
         (let b := begun i s r
          if target.toNat = (m.bar n).phase then
            onlyGroup s t g { b with
              parked := some (.barrier n), waitS := 0, waitL := 0, barTarget := some target, arr := kset r.arr n.toNat target }
          else onlyGroup s t g ({ b with
              arr := kdel r.arr n.toNat, barTarget := none
              acqT := if sc = Scope.cl ∨ sc = Scope.dev ∨ sc = Scope.sys then s.ptime else r.acqT }.goesOn (r.spc + 4))))) ∧
   (∀ (s : State) (g : Nat) (r : Group) (n : BitVec 4) (sc : Scope), scalarTurn (.baraw n sc) s g r → r.baraw = false →
      ∃ t, exec (.baraw n sc) s = .next t ∧
        (let b := (begun (.baraw n sc) s r).holds (.baraw n sc) 0 0 0 0
         t.grp? g = some { b with baraw := true, rel := some (r.pos + 1) }) ∧
        t = { s with groups := t.groups, timed := t.timed, cur := .none } ∧
        (∃ y, y ∈ t.timed ∧ y.i = .commitHeadResume ∧ y.args = [g, 0]) ∧ ∀ h, h ≠ g → t.grp? h = s.grp? h))

/-- R52, R439, R376: SWRS of STOPAT writes STOPAT in a privileged context and raises PRIV in any other, writing nothing to STOPAT.
R273, R376: a privileged XCMD (FCFG, WPSET) outside a privileged context raises PRIV before it looks at its operands; nothing enters
the commit queue.
R184, R382, R376: STRAP takes the trap BRK with its code: the trap registers are written as one update, the handler's frame goes to the
scratchpad, s60 names it, a TRAP entry keeps EXEC and the return address, and the stream goes to the handler.
R66: a trap that is recognised while units of the cycle are still to issue is taken behind them.
R184, R389: SBRK with the debugger attached freezes the package with its report, and completes when the debugger resumes. -/
def Obligations.PrivilegeAndTrapRequests : Prop :=
  ((∀ (s : State) (g : Nat) (r : Group) (a : BitVec 6), scalarTurn (.swrs a 0x12) s g r →
      (s.privOf r.ctx = true → ∃ t, exec (.swrs a 0x12) s = .next t ∧ t.stopat = (r.sread a).toNat ∧
        t.grp? g = some ((begun (.swrs a 0x12) s r).goesOn (r.spc + 4)) ∧ t.mem = s.mem) ∧
      (s.privOf r.ctx = false → s.quiet g r = true →
        (s.trapsAtOnce g r → s.handlerFor r 7 = none →
          ∃ t r', exec (.swrs a 0x12) s = .next t ∧ t.stopat = s.stopat ∧ t.grp? g = some r' ∧ r'.trapcause = 7 ∧ r'.trapspc = r.spc ∧
            r'.stop = .escalated) ∧
        (Item.close ∈ s.agenda → ∃ t, exec (.swrs a 0x12) s = .next t ∧ t.stopat = s.stopat ∧
          t.agenda = s.agenda ++ [.trap g ⟨7, 0, 0, false, false, false, false, none⟩] ∧ t.grp? g = some (begun (.swrs a 0x12) s r)))) ∧
   (∀ (i : Instr) (s : State) (g : Nat) (r : Group) (m : Team) (d a b : BitVec 6), scalarTurn i s g r → s.team? r.team = some m →
      (i = .fcfgCreate d a b ∨ i = .fcfgDelete d a b ∨ i = .fcfgReadCounters d a b ∨ i = .wpset d a b) → s.privOf r.ctx = false →
      s.quiet g r = true →
      (s.trapsAtOnce g r → m.handler = none →
        ∃ t r', exec i s = .next t ∧ t.grp? g = some r' ∧ r'.trapcause = 7 ∧ r'.trapspc = r.spc ∧ r'.cq = r.cq ∧ r'.stop = .escalated ∧ t.mem = s.mem) ∧
      (Item.close ∈ s.agenda → ∃ t, exec i s = .next t ∧
        t.agenda = s.agenda ++ [.trap g ⟨7, 0, 0, false, false, false, false, none⟩] ∧ t.grp? g = some (begun i s r)))) ∧
  ((∀ (s : State) (g : Nat) (r : Group) (m : Team) (code : BitVec 13) (h : W64) (mask : BitVec 32), scalarTurn (.strap code) s g r →
      s.quiet g r = true → r.drained = true → r.rs = [] → s.trapsAtOnce g r → s.team? r.team = some m → m.handler = some (h, mask) →
      mask.getLsbD 11 = true → 256 + 1024 * m.groups ≤ m.spSize → r.gid.toNat < m.groups →
      ∃ t r', exec (.strap code) s = .next t ∧ t.grp? g = some r' ∧ r'.spc = h ∧ r'.trapcause = 0x0B ∧ r'.trapva = 0 ∧
        r'.trapinfo.toNat = 0x2000 + code.toNat ∧ r'.trapspc = r.spc ∧ r'.traplpc = 0 ∧
        r'.sread 60 = BitVec.ofNat 64 (m.spSize - 1024 * (m.groups - r.gid.toNat)) ∧
        r'.rs = [⟨.trap, 0, 0, r.exec, r.spc, Vector.replicate 16 0⟩] ∧
        (∀ k : BitVec 6, k ≠ 60 → r'.sread k = r.sread k) ∧ t.mem = s.mem ∧ (∀ x, x ≠ g → t.grp? x = s.grp? x) ∧
        ∃ m', t.team? r.team = some m' ∧ m'.sp = ssetL m.sp (m.spSize - 1024 * (m.groups - r.gid.toNat))
          ((List.range 64).flatMap fun k => natBytes 8 (r.sread (BitVec.ofNat 6 k)).toNat)) ∧
   (∀ (s : State) (g : Nat) (r : Group) (code : BitVec 13), scalarTurn (.strap code) s g r → s.quiet g r = true → r.rs = [] → Item.close ∈ s.agenda →
      ∃ t, exec (.strap code) s = .next t ∧ t.grp? g = some (begun (.strap code) s r) ∧
        t.agenda = s.agenda ++ [.trap g ⟨0x0B, 0, BitVec.ofNat 64 (0x2000 + code.toNat), false, false, false, false, none⟩]) ∧
   (∀ (s : State) (g : Nat) (r : Group) (code : BitVec 13), scalarTurn (.sbrk code) s g r →
      (s.bpSkip.contains (.scalar g) = false → s.attach = true → ∃ t, exec (.sbrk code) s = .next t ∧ t.frozen = true ∧
        t.grp? g = some (begun (.sbrk code) s r) ∧ t.bpSkip.contains (.scalar g) = true ∧ t.sent = s.sent ++ [.debugReport code r.exec]) ∧
      (s.bpSkip.contains (.scalar g) = true → ∃ t, exec (.sbrk code) s = .next t ∧
        t.grp? g = some ((begun (.sbrk code) s r).goesOn (r.spc + 4)) ∧ t.bpSkip = s.bpSkip.erase (.scalar g))))

/-- R187, R385, R48: SPOP takes the top entry away; where sa names a register, the entry's 192 bytes go to the scratchpad at its value; a TRAP
entry is also returned from: EXEC and SPC are the entry's, and its block comes back to the head of the lane queue.
R174, R344, R372: SWAITA of a readable byte parks the group until it is woken, with its line to be watched. -/
def Obligations.StackPopAndWaitOnAddress : Prop :=
  (∀ (s : State) (g : Nat) (r : Group) (m : Team) (q : List RsEntry) (e : RsEntry) (a : BitVec 6) (o : Nat), scalarTurn (.spop a) s g r →
     s.team? r.team = some m → r.rs = q ++ [e] → (r.sread a).toNat = o → (a ≠ 0 → o % 64 = 0 ∧ 256 ≤ o ∧ o + 192 ≤ m.spSize ∧ swf m.sp = true) →
     ∃ t r' m', exec (.spop a) s = .next t ∧ t.grp? g = some r' ∧ r'.rs = q ∧ t.mem = s.mem ∧ t.team? r.team = some m' ∧
       (a = 0 → m' = m) ∧ (a ≠ 0 → sgetL m'.sp o 192 = natBytes 8 (match e.kind with | .div => 1 | .call => 2 | .trap => 3 | .regroup => 4) ++
         natBytes 8 e.resume.toNat ++ natBytes 8 e.reconv.toNat ++ natBytes 16 e.mask.toNat ++ natBytes 8 e.tspc.toNat ++
         e.tsnap.toList.flatMap (fun x => natBytes 8 x.toNat) ++ List.replicate 16 0) ∧
       (∀ k, k < o ∨ o + 192 ≤ k → sget m'.sp k = sget m.sp k) ∧
       (if e.kind = .trap then r'.spc = e.tspc ∧ r'.exec = e.mask ∧
           (if e.resume = 0 then r'.lq = r.lq else ∃ b, r'.lq = b :: r.lq ∧ b.entry = e.resume ∧ b.snap = e.tsnap)
         else r'.spc = r.spc + 4 ∧ r'.exec = r.exec ∧ r'.lq = r.lq)) ∧
  (∀ (s : State) (g : Nat) (r : Group) (a : BitVec 6) (imm : BitVec 13) (leaf : W64) (pa : Nat) (u : State), scalarTurn (.swaita a imm) s g r →
     (s.setGrp g (begun (.swaita a imm) s r)).checkData (g / 32) r.ctx (r.sread a + imm.signExtend 64) 1 .read true = (.ok leaf pa, u) →
     (pa / 2 ^ 50 % 4 = 1 → isCoherentHost leaf = true) →
     ∃ t r', exec (.swaita a imm) s = .next t ∧ t.grp? g = some r' ∧ r'.parked = some .watch ∧ (r'.watch.map (·.line)) = some (pa / 256) ∧
       r'.spc = r.spc ∧ t.mem = s.mem ∧ t.timed.any (fun x => x.i == .monitorArm && x.args == [g]) = true)

/-- R273, R274, R279, R283, R299 to R301: an XCMD without an access of its own, its operands in range, enters the commit queue. -/
def Obligations.ExtendedCommands : Prop :=
  ∀ (i : Instr) (s : State) (g : Nat) (r : Group) (m : Team) (d a b : BitVec 6) (priv barrier : Bool) (c : Option Ctr), scalarTurn i s g r →
    s.team? r.team = some m → xcmdForm (begun i s r) m r.sread i = some (d, a, b, priv, barrier, true, c) → (priv = true → s.privOf r.ctx = true) →
    ∃ t, exec i s = .next t ∧ t = { s with groups := t.groups, nextId := s.nextId + 1, cur := .none } ∧
      t.grp? g = some (((begun i s r).holdsX i d 0 (r.sread a) (r.sread b) s.nextId c barrier).goesOn (r.spc + 4)) ∧
      ∀ h, h ≠ g → t.grp? h = s.grp? h

/-- R287, R293, R298: the scalar Fen forms and XATOM, their operands in range and their address translated and permitted, enter the commit
queue; the take and copy forms bar later loads. -/
def Obligations.FenAndExtendedAtomics : Prop :=
  (∀ (i : Instr) (k : FenKind) (s : State) (g : Nat) (r : Group) (m : Team) (d a b : BitVec 6) (leaf : W64) (pa : Nat) (u : State),
    scalarTurn i s g r → s.team? r.team = some m →
    ((i = .fsdep d a b ∧ k = .deposit) ∨ (i = .fstake d a b ∧ k = .take) ∨ (i = .fscpy d a b ∧ k = .copy)) →
    (r.sread a).toNat / 2 ^ 50 < 5 → (r.sread a).toNat / 2 ^ 46 % 4 = 0 → (r.sread a).toNat / 2 ^ 49 % 2 = 0 →
    (if k = .deposit then (r.sread a).toNat / 2 ^ 32 % 2 ^ 14 = 0
      else (List.range 7).all (fun f => (r.sread a).toNat / 2 ^ (32 + 2 * f) % 4 != 3) = true) →
    (r.sread b).toNat < 2 ^ 20 → (r.sread b).toNat % 64 = 0 → (r.sread b).toNat + (if k = .deposit then 64 else 128) ≤ m.spSize →
    (s.setGrp g (begun i s r)).checkFen (g / 32) r.ctx ((r.sread a).setWidth 32) k = (.ok leaf pa, u) →
    ∃ t, exec i s = .next t ∧ t.mem = s.mem ∧
      t.grp? g = some (((begun i s r).holdsX i d (leafFreg leaf) (r.sread a) (r.sread b) u.nextId (if d = 0 then none else some .tlc)
        (k != .deposit)).goesOn (r.spc + 4))) ∧
  (∀ (s : State) (g : Nat) (r : Group) (d a b : BitVec 6) (fn : AtomFn) (n : Nat) (leaf : W64) (pa : Nat) (u : State),
    scalarTurn (.xatom d a b) s g r → (r.sread a).toNat / 2 ^ 61 < 5 → xatomFn ((r.sread a).toNat / 2 ^ 57 % 16) = some (fn, n) →
    (s.setGrp g (begun (.xatom d a b) s r)).checkData (g / 32) r.ctx (((r.sread a).setWidth 57).signExtend 64) n .write true = (.ok leaf pa, u) →
    (pa / 2 ^ 50 % 4 = 1 → u.hostAtomics = true ∧ (r.sread a).toNat / 2 ^ 57 % 16 ∈ [0, 8, 11]) →
    ∃ t, exec (.xatom d a b) s = .next t ∧ t.mem = s.mem ∧
      t.grp? g = some ((((((begun (.xatom d a b) s r).waitsFor (.xatom d a b) d u.nextId .reply 0).holds (.xatom d a b) (keptPa leaf pa) (r.sread a)
        (r.sread b) u.nextId).counts u.nextId (if d = 0 then .stc else .tlc) false)).goesOn (r.spc + 4)))

/-- R193, R194, R189 to R191, R491: the integer lane instructions that work element by element. -/
def Obligations.LaneIntegers : Prop :=
  ∀ (i : Instr) (s : State) (g : Nat) (r : Group) (f : LaneF) (fn : Nat → Nat → Nat → Nat → Nat × BitVec 8), intElement i = some (f, fn) →
    i.wf = true →
    laneData i f (laneNeeds f true false) (if f.ty.is64 then 2 else 1) s g r
      (fun l => (byElement f.ty (fn (tyWidth f.ty)) (r.rd f.ty f.va l) (r.rdB f r.blkSnap l) (r.rdC f l)).1) none
      (fun l => (byElement f.ty (fn (tyWidth f.ty)) (r.rd f.ty f.va l) (r.rdB f r.blkSnap l) (r.rdC f l)).2)

/-- R223 to R236: the floating-point and special-function lane instructions: each element's result and flags from the exact value, in the
rounding mode of the instruction or FMODE, once the pipeline or the SFU has written them. -/
def Obligations.LaneFloats : Prop :=
  ∀ (i : Instr) (s : State) (g : Nat) (r : Group) (f : LaneF) (sfu : Bool) (fn : Nat → Nat → Nat → Nat × BitVec 8),
    floatElement r i = some (f, sfu, fn) → i.wf = true →
    laneData i f { laneNeeds f true false with sfu := sfu } (if f.ty.is64 then 2 else 1) s g r
      (fun l => (byElement f.ty fn (r.rd f.ty f.va l) (r.rdB f r.blkSnap l) (r.rdC f l)).1) none
      (fun l => (byElement f.ty fn (r.rd f.ty f.va l) (r.rdB f r.blkSnap l) (r.rdC f l)).2)

/-- R194 to R197: field insertion, selection, comparison, carry chains, moves, permutation, broadcast and ballot. -/
def Obligations.LaneMovesAndMasks : Prop :=
  ∀ (i : Instr) (s : State) (g : Nat) (r : Group) (f : LaneF) (nd : LNeeds) (n : Nat) (val : Nat → List W32) (k : Option (Nat × (Nat → Bool))),
    laneOther r i = some (f, nd, n, val, k) → i.wf = true →
    laneData i f nd n s g r val k (fun _ => 0)

/-- R198, R231, R237 to R243: reductions, scans, floating-point comparisons, conversions, packings, scales, maxima, unpacking, look-up. What a
reduction or scan makes of the value of its first lane alone, what stochastic rounding does above the largest number, and DAZ in a conversion into an
integer are the model's readings (log 10, log 12, log 75). -/
def Obligations.LaneConversions : Prop :=
  ∀ (i : Instr) (s : State) (g : Nat) (r : Group) (f : LaneF) (nd : LNeeds) (n : Nat) (val : Nat → List W32) (k : Option (Nat × (Nat → Bool)))
    (flag : Nat → BitVec 8), laneConverts r i = some (f, nd, n, val, k, flag) → i.wf = true → laneData i f nd n s g r val k flag

/-- R199, R210, R211, R219: mask instructions, VNOP, VWAITC, jumps, divergence and reconvergence, and returns.
R210, R110, R111: VCALL of a function whose budget the allotment covers pushes a CALL entry and goes to it. The header at the target
has been fetched.
R212: VCALLV of lanes that all name one target whose budget the allotment covers calls it once, with those lanes; with no lane in EXEC
it goes on. -/
def Obligations.LaneBranchesAndCalls : Prop :=
  (∀ (i : Instr) (s : State) (g : Nat) (r r' : Group) (nd : LNeeds) (pc : W64), laneControl r i = some (nd, r', pc) → laneTurn nd s g r →
     ∃ t, exec i s = .next t ∧ onlyLane s t g (r'.laneGoesOn pc s.ccount 0)) ∧
  ((∀ (s : State) (g : Nat) (r : Group) (off : W32) (u : State), laneTurn noNeeds s g r → r.rs.length ≤ 30 →
      s.callCheck g r (r.lpc + off.signExtend 64) = (some none, u) → u.grp? g = some r →
      ∃ t r', exec (.vcall off) s = .next t ∧ t.grp? g = some r' ∧ r'.lpc = r.lpc + off.signExtend 64 ∧
        r'.rs = r.rs ++ [⟨.call, r.lpc + 12, 0, r.exec, 0, Vector.replicate 16 0⟩] ∧ r'.exec = r.exec ∧ r'.v = r.v ∧ r'.k = r.k ∧ t.mem = u.mem) ∧
   (∀ (s : State) (g : Nat) (r : Group) (a : BitVec 10) (pc : W64) (u : State), laneTurn { noNeeds with vr := [(a.toNat, 2, 2)] } s g r →
      r.rs.length ≤ 30 →
      (r.exec = 0 → ∃ t, exec (.vcallv a) s = .next t ∧ onlyLane s t g (r.laneGoesOn (r.lpc + 12) s.ccount 0)) ∧
      (r.exec ≠ 0 → (∀ l, l < 96 → r.exec.getLsbD l = true → r.rd .i64 a l = pc) → s.callCheck g r pc = (some none, u) → u.grp? g = some r →
        ∃ t r', exec (.vcallv a) s = .next t ∧ t.grp? g = some r' ∧ r'.lpc = pc ∧ r'.exec = r.exec ∧
          r'.rs = r.rs ++ [⟨.call, r.lpc + 12, 0, r.exec, 0, Vector.replicate 16 0⟩] ∧ r'.v = r.v ∧ r'.k = r.k ∧ t.mem = u.mem)))

/-- R210, R20, R152: VEND ends the running block: LPC passes it, no block runs, and what its stores hid from early loads is hidden no more;
registers, masks and memory stay.
R220, R171: VFENCE goes on once the condition of the SFENCE of its scope holds for the accesses before it, every load before it has bound
and no acquire stands.
R213, R376, R378, R382, R386: VBRK and VTRAP with no lane in EXEC do nothing. With one, VTRAP takes the trap BRK (and VBRK freezes the
package where a debugger is attached), behind the other units of its cycle where some are still to issue (R66): TRAPCAUSE names the lane stream, TRAPLPC the instruction, TRAPSPC the checkpoint; without a handler the group escalates. -/
def Obligations.LaneFenceTrapAndBlockEnd : Prop :=
  ((∀ (s : State) (g : Nat) (r : Group) (b : Blk), laneTurn noNeeds s g r → r.blk = some b →
      ∃ t r', exec .vend s = .next t ∧ t.grp? g = some r' ∧ r'.lpc = r.lpc + 12 ∧ (r'.blk.map (·.running)) = some false ∧
        r' = { r with lpc := r'.lpc, blk := r'.blk, hid := [], hidSp := [] } ∧ t.mem = s.mem ∧ t.teams = s.teams ∧ ∀ h, h ≠ g → t.grp? h = s.grp? h) ∧
   (∀ (s : State) (g : Nat) (r : Group) (sc : Scope), laneTurn noNeeds s g r → waitLeaves s g r (.sfence sc) = some r →
      s.loadsBound g s.nextId 0 true = true → s.laneHeld g = false →
      ∃ t, exec (.vfence sc) s = .next t ∧ onlyLane s t g (r.laneGoesOn (r.lpc + 12) s.ccount 0))) ∧
  (∀ (s : State) (g : Nat) (r : Group) (code : BitVec 13), laneTurn noNeeds s g r →
     (r.exec = 0 → (∃ t, exec (.vtrap code) s = .next t ∧ onlyLane s t g (r.laneGoesOn (r.lpc + 12) s.ccount 0)) ∧
       (∃ t, exec (.vbrk code) s = .next t ∧ onlyLane s t g (r.laneGoesOn (r.lpc + 12) s.ccount 0))) ∧
     (r.exec ≠ 0 → Item.close ∈ s.agenda → ∃ t, exec (.vtrap code) s = .next t ∧ t.grp? g = some r ∧ t.mem = s.mem ∧
       t.agenda = s.agenda ++ [.trap g ⟨0x0B, 0, BitVec.ofNat 64 (0x2000 + code.toNat), true, false, false, false, none⟩]) ∧
     (r.exec ≠ 0 → s.trapsAtOnce g r → s.earlyOut g r = false → s.handlerFor r 0x0B = none → ∃ t r', exec (.vtrap code) s = .next t ∧ t.grp? g = some r' ∧
       r'.trapcause = 0x10B ∧ r'.trapinfo.toNat = 0x2000 + code.toNat ∧ r'.trapva = 0 ∧ r'.traplpc = r.lpc ∧ r'.trapspc = r.ck.spc ∧
       r'.stop = .escalated ∧ r'.v = r.v ∧ r'.k = r.k ∧ r'.cq = [] ∧ t.mem = s.mem) ∧
     (r.exec ≠ 0 → s.attach = true → s.bpSkip.contains (.lane g) = false → ∃ t, exec (.vbrk code) s = .next t ∧ t.frozen = true ∧
       t.grp? g = some r ∧ t.sent = s.sent ++ [.debugReport code r.exec]))

/-- R203, R204, R317, R190: VLD of lanes whose addresses pass their checks raises LDC and leaves its registers pending; the access stands with
every sector that the lanes cover. No memory changes. -/
def Obligations.LaneLoads : Prop :=
  ∀ (s : State) (g : Nat) (r : Group) (f : LaneF) (size : MSize) (ord : MOrder) (sc : Scope) (imm : W32) (ls : List (Nat × W64 × List Piece)) (u : State),
    laneTurn ⟨addrRegs f true, [dataRegs f.vd size], kRegs f, [], some .ldc, false⟩ s g r → r.eff f.men ≠ 0 → s.laneMay g r ord sc = true →
    s.laneAll (g / 32) r.ctx (mbytes size) (laneAlign size false) .read 0 (fun _ _ => none) (r.laneVas f imm (r.eff f.men)) = (.ok ls, u) →
    u.lanePoison (some (g / 32)) ls = none →
    ∃ t r' m, exec (.vld f size ord sc imm) s = .next t ∧ t.mem = s.mem ∧ t.grp? g = some r' ∧
      r'.outs = r.outs ++ [⟨u.nextId, .ldc, true, true, false, r.lpc, false⟩] ∧ r'.pendV = r.pendV ++ [⟨u.nextId, false, f.vd.toNat, mwords size, r.lpc⟩] ∧
      r'.lpc = r.lpc + BitVec.ofNat 64 (if f.pfx then 16 else 12) ∧ r'.k = r.k ∧ r'.flags = r.flags ∧
      t.op? u.nextId = some m ∧ m.kind = .load ∧ m.agent = .lane g ∧ m.dest = .lanes f.vd.toNat size (f.ty == .i32) ∧ m.order = ord ∧ m.scope = sc ∧
      m.parts.map (fun p => (p.lane, p.off, p.pa, p.len)) =
        ls.flatMap fun x => x.2.2.flatMap fun p => (cuts 3 p.1 p.2.1 p.2.2.1).map fun c => (x.1, c.1, c.2.1, c.2.2)

/-- R203, R204, R317, R392: VST of lanes whose addresses pass their checks raises STC, its access stands with each lane's bytes at each lane's
address, and no byte of memory has changed yet. Behind a restoration its lanes are those that the image does not list as sent. -/
def Obligations.LaneStores : Prop :=
  ∀ (s : State) (g : Nat) (r : Group) (f : LaneF) (size : MSize) (ord : MOrder) (sc : Scope) (imm : W32) (ls : List (Nat × W64 × List Piece)) (u : State),
    laneTurn ⟨dataRegs f.vd size :: addrRegs f true, [], kRegs f, [], some .stc, false⟩ s g r → r.eff f.men ≠ 0 → s.laneMay g r ord sc = true →
    s.laneAll (g / 32) r.ctx (mbytes size) (laneAlign size false) .write 1 (fun _ _ => none) (r.laneVas f imm (lanesLeft r f)) = (.ok ls, u) →
    ∃ t r' m, exec (.vst f size ord sc imm) s = .next t ∧ t.mem = s.mem ∧ t.grp? g = some r' ∧
      r'.outs = r.outs ++ [⟨u.nextId, .stc, true, true, false, r.lpc, false⟩] ∧ r'.v = r.v ∧ r'.k = r.k ∧ r'.flags = r.flags ∧
      r'.lpc = r.lpc + BitVec.ofNat 64 (if f.pfx then 16 else 12) ∧
      t.op? u.nextId = some m ∧ m.kind = .store ∧ m.agent = .lane g ∧ m.order = ord ∧ m.scope = sc ∧
      m.parts.map (fun p => (p.lane, p.pa, p.data)) = ls.flatMap fun x => x.2.2.flatMap fun p =>
        let bs := ((r.storeBytes f.vd.toNat size x.1).drop p.1).take p.2.2.1
        (cuts 3 p.1 p.2.1 bs.length).map fun c => (x.1, c.2.1, (bs.drop (c.1 - p.1)).take c.2.2)

/-- R206, R207, R190, R36, R392: VATOM and VCAS of lanes whose addresses pass their checks for writing raise LDC and leave vd pending for the old
values; one request stands for each lane that the image does not list as sent, at its address and of its size: that of VATOM with its operand vd,
that of VCAS with its comparand vd and its new value vc. No memory has changed yet. -/
def Obligations.LaneAtomics : Prop :=
  (∀ (s : State) (g : Nat) (r : Group) (f : LaneF) (op : AtomOp) (size : MSize) (ord : MOrder) (sc : Scope) (imm : W32)
      (ls : List (Nat × W64 × List Piece)) (u : State),
    atomicsPass s g r f size ord sc imm ((op == .add || op == .swap) && f.ty != .f32) ls u →
    ∃ t r' m, exec (.vatom f op size ord sc imm) s = .next t ∧ t.mem = s.mem ∧ t.grp? g = some r' ∧ atomicsCount r r' f size u.nextId ∧
      t.op? u.nextId = some m ∧ m.kind = .atomic ∧ m.agent = .lane g ∧ m.fn = vatomFn f.ty op ∧ m.order = ord ∧ m.scope = sc ∧
      m.parts.map (fun p => (p.lane, p.pa, p.len, p.y)) = ls.flatMap fun x => x.2.2.map fun p =>
        (x.1, p.2.1, mbytes size, bytesW 64 (r.storeBytes f.vd.toNat size x.1))) ∧
  (∀ (s : State) (g : Nat) (r : Group) (f : LaneF) (size : MSize) (ord : MOrder) (sc : Scope) (imm : W32) (vc : BitVec 10)
      (ls : List (Nat × W64 × List Piece)) (u : State), f.vc = some vc → atomicsPass s g r f size ord sc imm true ls u →
    ∃ t r' m, exec (.vcas f size ord sc imm) s = .next t ∧ t.mem = s.mem ∧ t.grp? g = some r' ∧ atomicsCount r r' f size u.nextId ∧
      t.op? u.nextId = some m ∧ m.kind = .cas ∧ m.agent = .lane g ∧ m.order = ord ∧ m.scope = sc ∧
      m.parts.map (fun p => (p.lane, p.pa, p.len, p.x, p.y)) = ls.flatMap fun x => x.2.2.map fun p =>
        (x.1, p.2.1, mbytes size, bytesW 64 (r.storeBytes f.vd.toNat size x.1), bytesW 64 (r.storeBytes vc.toNat size x.1)))

/-- R208, R343: VLDSP of offsets that are aligned and within SPSIZE writes each active lane's words from the scratchpad, extended; VSTSP stores
each active lane's bytes, the highest lane last; what stood there is kept for the early loads of its group until its block ends (R152). Neither
touches memory.
R209: VPREF whose lines have been asked for goes on, and changes no register. -/
def Obligations.LaneScratchpadAndPrefetch : Prop :=
  (∀ (s : State) (g : Nat) (r : Group) (m : Team) (f : LaneF) (size : MSize) (imm : W32), s.teamOf r = some m → swf r.v = true →
     (∀ l, l < 96 → (r.eff f.men).getLsbD l = true → r.laneOff f r.blkSnap imm l % mbytes size = 0 ∧ r.laneOff f r.blkSnap imm l + mbytes size ≤ m.spSize) →
     (laneTurn ⟨addrRegs f false, [dataRegs f.vd size], kRegs f, [], none, false⟩ s g r → m.poison = [] →
       (∀ j, j < mwords size → r.writable (f.vd.toNat + j) = true) →
       ∃ t r', exec (.vldsp f size imm) s = .next t ∧ onlyLane s t g r' ∧ r'.lpc = r.lpc + BitVec.ofNat 64 (if f.pfx then 16 else 12) ∧
         laneLands r (landed r r') f f.vd.toNat (mwords size)
           (fun l => laneWords size (f.ty == .i32) (sgetL m.sp (r.laneOff f r.blkSnap imm l) (mbytes size))) none (fun _ => 0)) ∧
     (laneTurn ⟨dataRegs f.vd size :: addrRegs f false, [], kRegs f, [], none, false⟩ s g r →
       (∀ l, l < 96 → (r.eff f.men).getLsbD l = true → 256 ≤ r.laneOff f r.blkSnap imm l) →
       ∃ t m' hid, exec (.vstsp f size imm) s = .next t ∧ t.mem = s.mem ∧ t.team? r.team = some m' ∧ t.ops = s.ops ∧
         t.grp? g = some { r.laneGoesOn (r.lpc + BitVec.ofNat 64 (if f.pfx then 16 else 12)) s.ccount
           ((List.range 3).countP fun b => beatRuns (r.eff f.men) (32 * b)) with hidSp := hid } ∧
         (g ∈ m.members → r.hidSp = [] → ∀ l, l < 96 → (r.eff f.men).getLsbD l = true → ∀ j, j < mbytes size →
           kget hid (r.laneOff f r.blkSnap imm l + j) = some (sget m.sp (r.laneOff f r.blkSnap imm l + j))) ∧
         m'.sp = (((List.range 96).filter fun l => (r.eff f.men).getLsbD l).flatMap fun l =>
           (r.storeBytes f.vd.toNat size l).mapIdx fun j b => (r.laneOff f r.blkSnap imm l + j, b)).foldl (fun sp p => sset sp p.1 p.2) m.sp)) ∧
  (∀ (s : State) (g : Nat) (r : Group) (f : LaneF) (imm : W32) (u : State), laneTurn ⟨addrRegs f true, [], kRegs f, [], none, false⟩ s g r →
     s.laneHeld g = false → s.prefetch (g / 32) r.ctx r.lease.toNat (r.laneVas f imm (r.eff f.men)) = (true, u) → u.grp? g = some r →
     ∃ t r', exec (.vpref f imm) s = .next t ∧ t.grp? g = some r' ∧ r'.lpc = r.lpc + BitVec.ofNat 64 (if f.pfx then 16 else 12) ∧
       r' = { r with lpc := r'.lpc, blk := r'.blk } ∧ t.mem = u.mem)

/-- R288, R291, R292, R296, R36: FDEP, FCPY and FTAKE whose lanes' regions are mapped and held by this module send one request for each active
lane (behind a restoration each that the image does not list as sent) to the home of its region and tag, raise TLC once and leave their status register
(and, but for a deposit, the window of vd) pending; a blocking form parks the group. -/
def Obligations.LaneFen : Prop :=
  (∀ (f : LaneF) (blk : Bool) (sc : Scope), fenRuns (.fdep f blk sc) .deposit blk sc 0 f) ∧
  (∀ (f : LaneF) (blk : Bool) (sc : Scope) (sel : BitVec 14), fenRuns (.fcpy f blk sc sel) .copy blk sc sel f) ∧
  (∀ (f : LaneF) (blk : Bool) (sc : Scope) (sel : BitVec 14), fenRuns (.ftake f blk sc sel) .take blk sc sel f)

/-- R214 to R216, R374: a group that is the team's only one arrives at REGRP with its window aligned and its keys below 8: it parks with a
REGROUP entry, and the move of its registers is queued for 3 × count + 12 cycles; at RJOIN a host arrives the same way. -/
def Obligations.RegroupArrivals : Prop :=
  ∀ (s : State) (g : Nat) (r : Group) (m : Team) (a base : BitVec 10) (count : BitVec 7), s.team? r.team = some m → m.members = [g] →
    r.pendV = [] → r.lres = [] → r.parked = none → (s.core (r.team / 4)).moves = [] →
    (laneTurn { noNeeds with vr := [(a.toNat, 1, 1), (base.toNat, count.toNat, 16)] } s g r → r.rs.length ≤ 30 →
      (∀ e ∈ r.rs, e.kind ≠ .regroup) → (∀ l, l < 96 → r.exec.getLsbD l = true → (r.vread a.toNat l).toNat < 8) →
      ∃ t r', exec (.regrp a base count) s = .next t ∧ t.grp? g = some r' ∧ r'.parked = some .regroup ∧ t.mem = s.mem ∧
        r'.rs = r.rs ++ [⟨.regroup, r.lpc + 12, 0, r.exec, 0, Vector.replicate 16 0⟩] ∧
        (t.core (r.team / 4)).moves = [⟨r.team, false, s.ccount, 3 * count.toNat + 12, none⟩]) ∧
    (∀ w e, laneTurn noNeeds s g r → r.rg = some w → w.host = true → r.rs.getLast? = some e → e.kind = .regroup →
      ∃ t r', exec .rjoin s = .next t ∧ t.grp? g = some r' ∧ r'.parked = some .regroup ∧ r'.rs = r.rs ∧ t.mem = s.mem ∧
        (t.core (r.team / 4)).moves = [⟨r.team, true, s.ccount, 3 * w.count + 12, none⟩])

/-- R34, R245, R250, R251: w-register arithmetic, branches and loops of the team stream. -/
def Obligations.TeamArithmeticAndControl : Prop :=
  ∀ (i : Instr) (s : State) (q : Nat) (m m' : Team) (regs : List (BitVec 5)) (pc : W64), teamLeaves m i = some (regs, m', pc) → seqTurn regs s q m →
    ∃ t, exec i s = .next t ∧ onlyTeam s t q (m'.goesOn pc s.ccount)

/-- R245, R250, R11: WMUL and WLDSP leave their register pending, its value written by W_RESULT_WRITE 4 cycles later; WSTSP stores 8 bytes, the
lowest address the lowest bits, and no other byte of the scratchpad.
R177, R248, R249: TBARA counts the sequencer's arrival at an armed word and records the phase; TBARW goes on when the recorded phase is over and
waits while it lasts. The word is the team's own and not in an error phase.
R246, R245, R181: TEXIT, which reads and writes no register, ends the sequencer's stream; the team stays while a group of it has not ended. -/
def Obligations.TeamResultsAndBarriers : Prop :=
  ((∀ (s : State) (q : Nat) (m : Team) (d a b : BitVec 5), seqTurn [d, a, b] s q m → d ≠ 0 →
     ∃ t, exec (.wmul d a b) s = .next t ∧
       t.team? q = some ({ m with pendW := m.pendW ++ [(⟨d, m.wread a * m.wread b, s.nextId⟩ : PendW)] }.goesOn (m.tpc + 8) s.ccount) ∧
       t.timed = (s.sched 4 .wResultWrite [q, s.nextId]).timed ∧ t.mem = s.mem) ∧
   (∀ (s : State) (q : Nat) (m : Team) (d a : BitVec 5) (imm : W32) (o : Nat), seqTurn [d, a] s q m → d ≠ 0 → (m.wread a + imm.signExtend 64).toNat = o →
     o % 8 = 0 → o + 8 ≤ m.spSize → m.poison.contains o = false →
     ∃ t, exec (.wldsp d a imm) s = .next t ∧
       t.team? q = some ({ m with pendW := m.pendW ++ [(⟨d, BitVec.ofNat 64 (bytesNat (sgetL m.sp o 8)), s.nextId⟩ : PendW)] }.goesOn (m.tpc + 8) s.ccount) ∧
       t.timed = (s.sched 4 .wResultWrite [q, s.nextId]).timed ∧ t.mem = s.mem) ∧
   (∀ (s : State) (q : Nat) (m : Team) (b a : BitVec 5) (imm : W32) (o : Nat), seqTurn [a, b] s q m → (m.wread a + imm.signExtend 64).toNat = o →
     o % 8 = 0 → 256 ≤ o → o + 8 ≤ m.spSize → swf m.sp = true →
     ∃ t m', exec (.wstsp b a imm) s = .next t ∧ t.team? q = some m' ∧ m'.tpc = m.tpc + 8 ∧ t.mem = s.mem ∧
       bytesNat (sgetL m'.sp o 8) = (m.wread b).toNat ∧ (∀ k, k < o ∨ o + 8 ≤ k → sget m'.sp k = sget m.sp k) ∧ m'.w = m.w) ∧
   (∀ (s : State) (q : Nat) (m : Team) (p : PendW), s.args = [q, p.id] → s.team? q = some m → m.pendW = [p] →
     ∃ t, exec .wResultWrite s = .next t ∧ t = { s with teams := t.teams } ∧ t.team? q = some { m.takes p.reg p.val with pendW := [] })) ∧
  ((∀ (s : State) (q : Nat) (m : Team) (n : BitVec 4) (sc : Scope), seqTurn [] s q m → (m.bar n).armed = true → m.forwards q n = false →
      (m.bar n).err = false → m.fwdArr = false →
      ((m.bar n).arrived + 1 < (m.bar n).expect → swf m.sp = true → ∃ t m', exec (.tbara n sc) s = .next t ∧ t.team? q = some m' ∧
        m'.bar n = { m.bar n with arrived := (m.bar n).arrived + 1 } ∧ kget m'.arr n.toNat = some (BitVec.ofNat 32 (m.bar n).phase) ∧
        m'.tpc = m.tpc + 8 ∧ t.mem = s.mem ∧ t.groups = s.groups) ∧
      (let target := (m.barTarget.or (kget m.arr n.toNat)).getD (BitVec.ofNat 32 (m.bar n).phase)
       if target.toNat = (m.bar n).phase then ∃ t m', exec (.tbarw n sc) s = .next t ∧ t.team? q = some m' ∧ m'.seqSt = .barrierWait ∧
           m'.tpc = m.tpc ∧ m'.barTarget = some target ∧ t.mem = s.mem ∧ t.groups = s.groups
       else ∃ t, exec (.tbarw n sc) s = .next t ∧ onlyTeam s t q ({ m with
           arr := kdel m.arr n.toNat, barTarget := none
           lastAcq := if sc = Scope.cl ∨ sc = Scope.dev ∨ sc = Scope.sys then s.ptime else m.lastAcq }.goesOn (m.tpc + 8) s.ccount))) ∧
   (∀ (s : State) (q : Nat) (m : Team), seqTurn [] s q m → m.ended.length ≠ m.groups →
      ∃ t, exec .texit s = .next t ∧ onlyTeam s t q { m with seqSt := .exited, lastIssue := s.ccount + 1 }))

/-- R256, R257, R263 to R265: MMA, MZERO, MLOAD, MDRAIN and MDRAINA with room in the queue, a tile the team holds and operands that pass their
checks are handed to the matrix engine of the core with the values of their registers. -/
def Obligations.EngineHandOver : Prop :=
  ∀ (i : Instr) (s : State) (q : Nat) (m : Team) (regs : List (BitVec 5)) (kind : EngKind) (tl : BitVec 3) (n : BitVec 4) (pairs : List (BitVec 5))
    (vals : List W64), engineForm m i = some (regs, kind, tl, n, pairs, vals) → seqTurn regs s q m → tl.toNat < m.accs →
    (∀ a ∈ pairs, a.toNat % 2 = 0) → s.engRoom m.core q = true →
    ∃ t e, exec i s = .next t ∧ (t.core m.core).eng = (s.core m.core).eng ++ [e] ∧ e.kind = kind ∧ e.team = q ∧ e.tile = tl.toNat ∧ e.n = n ∧
      e.regs = vals ∧ e.t0 = s.ptime ∧ e.began = none ∧ t.team? q = some (m.goesOn (m.tpc + 8) s.ccount) ∧ t.mem = s.mem ∧ t.groups = s.groups

/-- R306, R305, R308, R310, R161, R307, R317, R355: WRITE_ACCEPT of a write to the module's memory that no write that goes before it and no pinned
copy holds up assigns it a GWCT: the latest of PTIME, the lease of its line and the GWCTs of the line's pending writes; no byte has changed yet.
WRITE_PERFORM at that time makes each enabled byte the home's value and changes no other byte of the module's memory (of sets that hold a
line once), and of a group at most what it keeps for its early loads (R152). STORE_GWCT_RETURN of the last part ends the operation and takes the
GWCT into GWCTMAX; WRITE_MASK_RELEASE drops the bytes of a line whose GWCT has been reached and no other (log 24). -/
def Obligations.WritesAtHome : Prop :=
  (∀ (s : State) (o p : Nat) (m : MemOp) (q : Part), s.args = [o, p] → s.part? o p = some (m, q) → q.gwct = none → paClass q.pa = 0 →
    s.earlierWrite m.core ((m.agent.group?).getD 1048576) o q.pa q.len = false →
    (∀ e, e ∈ m.parts.take p → e.gwct = none → e.pa / 256 ≠ q.pa / 256 ∧ e.lane ≠ q.lane) → s.pinnedCopy (q.pa / 256) = false →
    ∃ t id w, exec .writeAccept s = .next t ∧ t.mem = s.mem ∧ t.slices = s.slices ∧ t.groups = s.groups ∧
      kget t.writes id = some w ∧ w.pa = q.pa ∧ w.data = q.data.map some ∧ (t.part? o p).map (·.2.gwct) = some (some w.gwct) ∧
      s.ptime ≤ w.gwct ∧ (s.homeLine (q.pa / 256)).lease ≤ w.gwct ∧ (∀ x, x ∈ s.writes → x.2.pa / 256 = q.pa / 256 → x.2.gwct ≤ w.gwct) ∧
      (w.gwct = s.ptime ∨ w.gwct = (s.homeLine (q.pa / 256)).lease ∨
        ∃ x, x ∈ s.writes ∧ x.2.pa / 256 = q.pa / 256 ∧ w.gwct = x.2.gwct)) ∧
  (∀ (s : State) (id : Nat) (w : PWrite), s.args = [id] → kget s.writes id = some w → kwf s.writes = true → w.gwct ≤ s.ptime →
    s.behindAdd id w = false → w.pa + w.data.length ≤ 2 ^ 50 →
    (∀ i, i < w.data.length → isRegBlock (w.pa + i) = false) → isRegBlock w.pa = false → s.homePlain →
    ∃ t, exec .writePerform s = .next t ∧ kget t.writes id = none ∧ (∀ g r, s.grp? g = some r → ∃ h, t.grp? g = some { r with hid := h }) ∧
      ∀ a, a < 2 ^ 50 → isRegBlock a = false →
        t.homeByte a = if w.pa ≤ a ∧ a < w.pa + w.data.length then (w.data.getD (a - w.pa) none).getD (s.homeByte a) else s.homeByte a) ∧
  (∀ (s : State) (o p g gr : Nat) (m : MemOp) (q : Part) (r : Group), s.args = [o, p] → s.part? o p = some (m, q) → q.gwct = some g →
    q.bound = false → (m.parts.eraseIdx p).all (·.bound) = true → (m.agent = .scalar gr ∨ m.agent = .lane gr) → s.grp? gr = some r →
    kwf s.ops = true →
    ∃ t r', exec .storeGwctReturn s = .next t ∧ t.op? o = none ∧ t.grp? gr = some r' ∧ r'.gwctMax = max r.gwctMax g ∧
      (∀ x, x ∈ r'.outs → x.id = m.out → x.done = true) ∧ t.mem = s.mem ∧ t.slices = s.slices) ∧
  (∀ (s : State) (core line : Nat) (ms : List MaskB), s.args = [core, line] → kget (s.core core).masks line = some ms →
    kwf (s.core core).masks = true →
    ∃ t, exec .writeMaskRelease s = .next t ∧ t = { s with cores := t.cores } ∧
      (∀ b, b ∈ kgetD (t.core core).masks line [] ↔ b ∈ ms ∧ (∀ g w, b.acc = some (g, w) → s.ptime < g)) ∧
      ∀ l, l ≠ line → kget (t.core core).masks l = kget (s.core core).masks l)

/-- R306, R305, R307, R311, R338, R22, R204, R333, R335, R152, R153: HOME_READ of a relaxed load of one part binds it to the home's bytes (for an
early load without what its group's running block has stored), with the core's write masks and the group's own stores over them, and records
the lease of the copy that goes back; FILL_RETURN installs the sector, which then hits until its lease ends, and drops one whose lease has ended;
LEASE_EXPIRY leaves the sector valid only where it was renewed; SCALAR_LOAD_RETURN and LANE_LOAD_RETURN write the registers that wait and no other;
PAGE_WALK leaves the leaf first in the core's TLB, or the fault; EARLY_LOAD_PERFORM performs a load whose load barriers have finished. -/
def Obligations.ReadsAndFills : Prop :=
  (∀ (s : State) (o g : Nat) (m : MemOp) (q : Part), s.args = [o, 0] → s.op? o = some m → m.parts = [q] → m.kind = .load → m.order = .relaxed →
    (m.agent = .scalar g ∨ m.agent = .lane g) → q.bound = false → q.pa + 64 ≤ 2 ^ 50 → isRegBlock q.pa = false → q.pa % 64 + q.len ≤ 64 →
    isRegBlock (q.pa / 64 * 64) = false →
    s.earlierRead g o m.pos m.agent.isLane (q.pa / 64) = false → s.meetsRefresh q.pa = false → s.l2Room q.pa = true →
    s.rdcHit (dieOf m.core) q.pa m.minFill = none → s.homePlain → (∀ x, x ∈ s.ops → x.1 < s.nextId) → kwf s.ops = true →
    ∃ t m' q', exec .homeRead s = .next t ∧ t.op? o = some m' ∧ m'.parts = [q'] ∧ q'.bound = true ∧
      q'.data = s.forward g o m.pos m.agent.isLane q.pa (s.overlayMasks m.core q.pa
        (s.unhidden m.agent q.pa ((List.range q.len).map fun i => s.homeByte (q.pa + i))) (s.skipsMask m.agent)) ∧
      (t.homeLine (q.pa / 256)).lease = max (s.homeLine (q.pa / 256)).lease (s.leaseEnd (q.pa / 256) m.leaseLen) ∧
      (∀ r, s.grp? g = some r → ∃ x, t.grp? g = some { r with seen := x }) ∧ ∀ h, h ≠ g → t.grp? h = s.grp? h) ∧
  (∀ (s : State) (o : Nat) (m : MemOp) (q : Part) (bs : List Byte) (exp ft : Nat), s.args = [o, 0] → s.part? o 0 = some (m, q) →
    q.fill = some (bs, exp, ft) → m.kind = .fetchOnly → m.asize = 0 → bs.length = 64 → paClass q.pa = 0 → isRegBlock (paLow q.pa) = false →
    homeDie (paLow q.pa) = dieOf m.core → kget (s.core m.core).l1 (l1Set (q.pa / 256)) = none → kwf s.ops = true →
    (s.ptime < exp → ∃ t, exec .fillReturn s = .next t ∧ t.l1Hit m.core q.pa ft = some (bs, exp, ft) ∧ t.op? o = none ∧ t.mem = s.mem) ∧
    (exp ≤ s.ptime → ∃ t, exec .fillReturn s = .next t ∧ t.cores = s.cores ∧ t.op? o = none)) ∧
  (∀ (s : State) (c line sec i : Nat) (l : CLine), sec < 4 →
    ((kgetD (s.core c).l1 (l1Set line) CSet.empty).way? line = some (i, l) → ∃ t l', exec (.leaseExpiry (.l1 c) line sec) s = .next t ∧
      (kgetD (t.core c).l1 (l1Set line) CSet.empty).way? line = some (i, l') ∧ l'.data = l.data ∧
      ∀ k, k < 4 → l'.valid.getLsbD k = (l.valid.getLsbD k && (decide (k ≠ sec) || decide (s.ptime < l.exp.getD sec 0)))) ∧
    (c < 4 → s.pinnedRdc c line = false → (kgetD (s.die c).rdc (rdcSet line) CSet.empty).way? line = some (i, l) →
      ∃ t l', exec (.leaseExpiry (.rdc c) line sec) s = .next t ∧
      (kgetD (t.die c).rdc (rdcSet line) CSet.empty).way? line = some (i, l') ∧ l'.data = l.data ∧
      ∀ k, k < 4 → l'.valid.getLsbD k = (l.valid.getLsbD k && (decide (k ≠ sec) || decide (s.ptime < l.exp.getD sec 0)))) ∧
    (kget (s.core c).icache line = some l → ∃ t l', exec (.leaseExpiry (.icache c) line sec) s = .next t ∧
      kget (t.core c).icache line = some l' ∧ l'.data = l.data ∧
      ∀ k, k < 4 → l'.valid.getLsbD k = (l.valid.getLsbD k && (decide (k ≠ sec) || decide (s.ptime < l.exp.getD sec 0))))) ∧
  (∀ (s : State) (o g : Nat) (m : MemOp) (r : Group) (p : PendS), s.args = [o] → s.op? o = some m → m.unbound = false → m.agent = .scalar g →
    s.grp? g = some r → r.pendS.find? (·.id == m.out) = some p → p.reg.toNat < 61 → kwf s.ops = true →
    ∃ t r', exec .scalarLoadReturn s = .next t ∧ t.op? o = none ∧ t.grp? g = some r' ∧ r'.pendS = r.pendS.filter (·.id != m.out) ∧
      (∀ k, r'.sread k = if k = p.reg ∧ k ≠ 0 then BitVec.ofNat 64 (bytesNat (m.parts.flatMap (·.data))) else r.sread k) ∧
      r'.v = r.v ∧ t.mem = s.mem ∧ ∀ h, h ≠ g → t.grp? h = s.grp? h) ∧
  (∀ (s : State) (o g vd : Nat) (sz : MSize) (sext : Bool) (m : MemOp) (r : Group), s.args = [o] → s.op? o = some m → m.unbound = false →
    m.agent = .lane g → m.dest = .lanes vd sz sext → s.grp? g = some r → swf r.v = true → (∀ j, j < mwords sz → r.writable (vd + j) = true) →
    kwf s.ops = true →
    ∃ t r', exec .laneLoadReturn s = .next t ∧ t.op? o = none ∧ t.grp? g = some r' ∧ r'.pendV = r.pendV.filter (·.id != m.out) ∧
      (∀ reg l, l < 96 → r'.vget reg l =
        if vd ≤ reg ∧ reg < vd + mwords sz ∧ m.parts.any (·.lane == l) = true then
          (laneWords sz sext ((m.parts.filter (·.lane == l)).flatMap (·.data))).getD (reg - vd) 0 else r.vget reg l) ∧
      r'.k = r.k ∧ r'.s = r.s ∧ t.mem = s.mem ∧ ∀ h, h ≠ g → t.grp? h = s.grp? h) ∧
  (∀ (s : State) (id : Nat) (w : Walk), s.args = [id] → kget s.walks id = some w → w.stale = false → kwf s.walks = true →
    tlbFind (s.die (dieOf w.core)).tlb w.asn (vaLow w.va) = none → (s.walkReads w.va 5 0 w.root).any s.meetsRefresh = false →
    (∀ e size, s.walk w.root w.va w.priv = .leaf e size → tlbFind (s.core w.core).tlb w.asn (vaLow w.va) = none →
      ∃ t, exec .pageWalk s = .next t ∧ kget t.walks id = none ∧
        (t.core w.core).tlb.head?.map (fun x => (x.asn, x.base, x.size, x.leaf)) = some (w.asn, vaLow w.va / size * size, size, e) ∧
        t.mem = s.mem ∧ t.groups = s.groups) ∧
    (∀ b, s.walk w.root w.va w.priv = .bad b → ∃ t, exec .pageWalk s = .next t ∧ kget t.walks id = none ∧ t.cores = s.cores ∧
      t.walkFaults = s.walkFaults ++ [⟨w.core, w.asn, vaLow w.va / 65536, w.priv, b⟩] ∧ t.mem = s.mem ∧ t.groups = s.groups)) ∧
  (∀ (s : State) (o g : Nat) (m : MemOp) (r : Group), s.args = [o] → s.op? o = some m → m.kind = .load → m.agent = .scalar g → m.performed = false →
    s.grp? g = some r → (∀ i, i ∈ m.waits → i ∉ r.barrierIds) →
    ∃ t m' x, exec .earlyLoadPerform s = .next t ∧ t.op? o = some m' ∧ m'.performed = true ∧ t.mem = s.mem ∧ t.grp? g = some { r with seen := x } ∧
      ∀ h, h ≠ g → t.grp? h = s.grp? h)

/-- R163, R308, R306, R307, R37, R174, R344, R372: ATOMIC_AT_HOME of a scalar atomic on the module's memory reads the latest value in coherence
order and has its new value accepted at once (none where a comparison fails), as one step. ATOMIC_REPLY, with a way for the line in the L1, writes
the old value to the register that waits and takes the GWCT into GWCTMAX. GROUP_WAKE ends the wait it names, one of SWAITA with its instruction.
MONITOR_ARM records a watch with its time; MONITOR_NOTICE and SWAITA_TIMEOUT free the entries of the line or group and send their wakes. -/
def Obligations.AtomicsAndWatches : Prop :=
  (∀ (s : State) (o g : Nat) (m : MemOp) (q : Part), s.args = [o, 0] → s.op? o = some m → m.parts = [q] → m.agent = .scalar g → q.bound = false →
    paClass q.pa = 0 → (m.asize = 4 ∨ m.asize = 8) → s.earlierWrite m.core g o q.pa q.len = false → s.meetsRefresh q.pa = false →
    s.pinnedCopy (q.pa / 256) = false →
    let old := bytesNat (s.latestBytes q.pa m.asize)
    ∀ new : Option Nat, ((∃ op, m.kind = .atomic ∧ m.fn = .int op ∧ new = some (atomicValue op (8 * m.asize) old (q.y.toNat % 2 ^ (8 * m.asize)))) ∨
      (m.kind = .cas ∧ new = if old = q.x.toNat % 2 ^ (8 * m.asize) then some (q.y.toNat % 2 ^ (8 * m.asize)) else none)) →
    ∃ t m' q' id w, exec .atomicAtHome s = .next t ∧ t.op? o = some m' ∧ m'.parts = [q'] ∧ q'.bound = true ∧
      q'.data = s.latestBytes q.pa m.asize ∧ q'.gwct = some w.gwct ∧ kget t.writes id = some w ∧ w.pa = q.pa ∧ w.gwct = s.gwctOf (q.pa / 256) ∧
      w.data = (match new with | some v => (natBytes m.asize v).map some | none => List.replicate m.asize none) ∧ t.mem = s.mem ∧
      t.slices = s.slices) ∧
  (∀ (s : State) (o g k : Nat) (m : MemOp) (q : Part) (r : Group) (p : PendS) (new : List Byte) (x y : Nat), s.args = [o, 0] → s.op? o = some m →
    m.parts = [q] → m.agent = .scalar k → q.bound = true → q.fill = some (new, x, y) → q.gwct = some g → s.grp? k = some r →
    r.pendS.find? (·.id == m.out) = some p → p.reg.toNat < 61 → kwf s.ops = true → (s.l1Alloc m.core q.pa).isSome = true →
    ∃ t r', exec .atomicReply s = .next t ∧ t.op? o = none ∧ t.grp? k = some r' ∧ r.lands r' p (BitVec.ofNat 64 (bytesNat q.data)) ∧
      r'.gwctMax = max r.gwctMax g ∧ t.mem = s.mem ∧ t.writes = s.writes) ∧
  (∀ (s : State) (g : Nat) (r : Group), g < 10240 → s.grp? g = some r → r.atStep = false →
    (∀ n, r.parked = some (.barrier n) → ∃ t, exec (.groupWake g (.barrier n)) s = .next t ∧ t = { s with groups := t.groups } ∧
      t.grp? g = some { r with parked := none }) ∧
    (r.parked = some .watch → ∃ t, exec (.groupWake g .watch) s = .next t ∧ t = { s with groups := t.groups } ∧
      t.grp? g = some { r with parked := none, watch := none, spc := r.spc + 4, drain := false, drained := false }) ∧
    (r.parked = some .fen → ∃ t, exec (.groupWake g .fen) s = .next t ∧ t.grp? g = some { r with parked := none }) ∧
    (∀ d, r.parked = some (.sal d) → ∃ t, exec (.groupWake g .sal) s = .next t ∧ t.grp? g = some { r with parked := none }) ∧
    (r.parked = some .grant → ∃ t, exec (.groupWake g .grant) s = .next t ∧ t.grp? g = some { r with parked := none }) ∧
    (r.parked = some .regroup → ∃ t, exec (.groupWake g .regroup) s = .next t ∧ t.grp? g = some { r with parked := none })) ∧
  (∀ (s : State) (g : Nat) (r : Group) (w : Watch), s.args = [g] → s.grp? g = some r → r.watch = some w → r.parked = some .watch →
    (s.monTable w.slice).length < 256 →
    ∃ t r', exec .monitorArm s = .next t ∧ t.monTable w.slice = (s.monTable w.slice).filter (·.gident != g) ++ [⟨w.line, g, s.ptime⟩] ∧
      t.grp? g = some r' ∧ r'.parked = some .watch ∧
      r'.watch = some { w with armed := some s.ptime, until_ := s.ptime + r.lease.toNat * s.tpc } ∧ t.mem = s.mem) ∧
  (∀ (s : State) (line : Nat) (e : Mon), s.args = [line] → e ∈ kgetD s.pod.mons (switchSlice (line * 256)) [] → e.line = line →
    ∃ t, exec .monitorNotice s = .next t ∧
      kgetD t.pod.mons (switchSlice (line * 256)) [] = (kgetD s.pod.mons (switchSlice (line * 256)) []).filter (·.line != line) ∧
      (∃ x, x ∈ t.timed ∧ x.i = .groupWake e.gident .watch) ∧ t.groups = s.groups ∧ t.mem = s.mem) ∧
  (∀ (s : State) (g : Nat) (r : Group) (w : Watch) (e : Mon), s.args = [g] → s.grp? g = some r → r.watch = some w → e ∈ s.monTable w.slice →
    e.gident = g → w.until_ ≤ s.ptime →
    ∃ t, exec .swaitaTimeout s = .next t ∧ t.monTable w.slice = (s.monTable w.slice).filter (·.gident != g) ∧
      (∃ x, x ∈ t.timed ∧ x.i = .groupWake g .watch) ∧ t.groups = s.groups ∧ t.mem = s.mem)

/-- R157, R190, R225, R226, R227, R245: SCALAR_RESULT_WRITE, LANE_RESULT_WRITE, SFU_RESULT_WRITE and W_RESULT_WRITE write the result that waits
and end its wait; nothing else of the machine changes. -/
def Obligations.LateResults : Prop :=
  (∀ (s : State) (g id : Nat) (r : Group) (p : PendS), s.args = [g, id] → s.grp? g = some r → r.pendS.find? (·.id == id) = some p →
    p.reg.toNat < 61 → ∃ t r', exec .scalarResultWrite s = .next t ∧ t = { s with groups := t.groups } ∧ t.grp? g = some r' ∧
      r.lands r' p p.val ∧ r'.v = r.v ∧ r'.outs = r.outs ∧ ∀ h, h ≠ g → t.grp? h = s.grp? h) ∧
  (∀ (i : Instr) (s : State) (g id : Nat) (r : Group) (x : LanePend), (i = .laneResultWrite ∨ i = .sfuResultWrite) → s.args = [g, id] →
    s.grp? g = some r → r.lres.find? (·.id == id) = some x → swf r.v = true →
    (∀ p, p ∈ x.vw → r.writable (p.1 / 96) = true) → (x.vw.map (·.1)).Nodup → (x.kw.map (·.1)).Nodup →
    ∃ t r', exec i s = .next t ∧ t = { s with groups := t.groups } ∧ t.grp? g = some r' ∧
      r' = { r with v := r'.v, k := r'.k, flags := r.flags ||| x.flags, fset := r'.fset, lres := r.lres.filter (·.id != id), pendV := r.pendV.filter (·.id != id) } ∧
      (∀ k, sget r'.v k = ((x.vw.find? (·.1 == k)).map (·.2)).getD (sget r.v k)) ∧
      (∀ n, n < 16 → r'.kreg n = match x.kw.find? (·.1 == n) with
        | some p => (r.kreg n &&& ~~~p.2.1) ||| (p.2.2 &&& p.2.1)
        | none => r.kreg n) ∧ ∀ h, h ≠ g → t.grp? h = s.grp? h) ∧
  (∀ (s : State) (q id : Nat) (m : Team) (p : PendW), s.args = [q, id] → s.team? q = some m → m.pendW.find? (·.id == id) = some p →
    ∃ t, exec .wResultWrite s = .next t ∧ t = { s with teams := t.teams } ∧
      t.team? q = some { m.takes p.reg p.val with pendW := m.pendW.filter (·.id != id) } ∧ ∀ h, h ≠ q → t.team? h = s.team? h)

/-- R95, R97, R66, R376, R382, R386, R388, R247: an instruction without an assigned meaning takes ILLEGAL with its subcode, or XFUNC with its
function code: while other units of its cycle are still to issue the trap waits behind them, else it is entered at once; TRAP_ENTRY enters one that
was recognised before, once what it waits for has come. Entry writes the trap registers as one update; without a handler the group escalates. A
deferred trap stops its group with its commit queue as it stands; a sequencer stops with TCAUSE. -/
def Obligations.IllegalAndTrapEntry : Prop :=
  (∀ (s : State) (g : Nat) (r : Group) (st : StreamId) (e : DecErr) (cause : BitVec 8) (sub : Nat),
    ((∃ x, e = .illegal x ∧ cause = 6 ∧ sub = x.toNat) ∨ (∃ f, e = .xfunc f ∧ cause = 0x0D ∧ sub = f.toNat)) →
    s.grp? g = some r →
    (s.cur = .scalar g → s.quiet g r = true →
      (Item.close ∈ s.agenda → ∃ t, exec (.unassignedOpcode st e) s = .next t ∧ t.grp? g = some r ∧ t.mem = s.mem ∧
        t.agenda = s.agenda ++ [.trap g ⟨cause, 0, BitVec.ofNat 64 sub, false, false, false, false, none⟩]) ∧
      (s.trapsAtOnce g r → s.handlerFor r cause = none → ∃ t r', exec (.unassignedOpcode st e) s = .next t ∧ t.grp? g = some r' ∧
        r'.trapcause.toNat = cause.toNat ∧ r'.trapva = 0 ∧ r'.trapinfo.toNat = sub ∧ r'.trapspc = r.spc ∧ r'.traplpc = 0 ∧ r'.spc = r.spc ∧
        r'.s = r.s ∧ r'.v = r.v ∧ r'.stop = .escalated ∧ t.mem = s.mem)) ∧
    (s.cur = .lane g →
      (Item.close ∈ s.agenda → ∃ t, exec (.unassignedOpcode st e) s = .next t ∧ t.grp? g = some r ∧ t.mem = s.mem ∧
        t.agenda = s.agenda ++ [.trap g ⟨cause, 0, BitVec.ofNat 64 sub, true, false, false, false, none⟩]) ∧
      (s.trapsAtOnce g r → s.earlyOut g r = false → s.handlerFor r cause = none → ∃ t r', exec (.unassignedOpcode st e) s = .next t ∧
        t.grp? g = some r' ∧ r'.trapcause.toNat = 0x100 + cause.toNat ∧ r'.trapva = 0 ∧ r'.trapinfo.toNat = sub ∧ r'.traplpc = r.lpc ∧
        r'.trapspc = r.ck.spc ∧ r'.v = r.v ∧ r'.k = r.k ∧ r'.stop = .escalated ∧ t.mem = s.mem))) ∧
  (∀ (s : State) (q : Nat) (m : Team) (st : StreamId) (x : BitVec 16), s.cur = .seq q → s.team? q = some m →
    ∃ t m', exec (.unassignedOpcode st (.illegal x)) s = .next t ∧ t.team? q = some m' ∧ m'.seqSt = .trapped ∧ m'.tcause = 0x206 ∧ m'.tva = 0 ∧
      m'.tinfo.toNat = x.toNat ∧ m'.tpc = m.tpc ∧ m'.w = m.w ∧ t.mem = s.mem) ∧
  (∀ (s : State) (g : Nat) (r : Group) (x : TrapRec), s.args = [g] → s.grp? g = some r → r.trap = some x →
    (∀ y, y ∈ (s.core (g / 32)).moves → y.team ≠ r.team) → (recorded x.cause = true → s.fqWaits (g / 32 / 80) 1 = false) →
    (x.defer = none → r.lres = [] → (x.lane = true → s.earlyOut g r = false) → s.handlerFor r x.cause = none →
      ∃ t r', exec .trapEntry s = .next t ∧ t.grp? g = some r' ∧ r'.trap = none ∧ r'.trapcause.toNat = x.cause.toNat + (if x.lane then 0x100 else 0) ∧
        r'.trapva = x.va ∧ r'.trapinfo = x.info ∧ r'.trapspc = (if x.lane then r.ck.spc else r.spc) ∧ r'.traplpc = (if x.lane then r.lpc else 0) ∧
        r'.stop = .escalated ∧ r'.exec = r.exec ∧ r'.v = r.v ∧ r'.k = r.k) ∧
    (∀ pc, x.defer = some pc → ∃ t r', exec .trapEntry s = .next t ∧ t.grp? g = some r' ∧ r'.trap = none ∧
      r'.trapcause.toNat = x.cause.toNat ∧ r'.trapva = x.va ∧ r'.trapinfo = x.info ∧ r'.trapspc = pc ∧ r'.traplpc = 0 ∧ r'.stop = .deferred ∧
      r'.cq = r.cq ∧ r'.exec = r.exec ∧ r'.v = r.v ∧ r'.k = r.k))

/-- R150, R151, R156, R148, R29, R30, R57, R283, R378, R369, R56: BLOCK_START with nothing to release turns the lane stream to the next queued block
with its snapshot; DRAIN completes with its checkpoint once nothing is left to wait for; COMMIT_HEAD_RESUME of a draining group releases the one
effect in its commit queue: a special register and a part of EXEC take their values (FLAGS with the flags that this cycle sets), the bulk target is
set, SREL gives its registers up, a scratchpad store is made; SACQ_GRANT, once in a cycle, gives the one group that asks on its core the full
allotment, v32 and above 0, where the free registers cover it, and parks the group where they do not. -/
def Obligations.BlocksDrainsAndReleases : Prop :=
  (∀ (s : State) (g : Nat) (r : Group) (q : LqEntry) (rest : List LqEntry), s.args = [g] → s.grp? g = some r → r.lq = q :: rest → r.stop = .runs →
    r.trap = none → r.blk = none → r.rel = none → r.cq = [] → s.laneHeld g = false →
    ∃ t r' b, exec .blockStart s = .next t ∧ t.grp? g = some r' ∧ r'.lq = rest ∧ r'.lpc = q.entry ∧ r'.ck = q.ck ∧ r'.blk = some b ∧
      b.entry = q.entry ∧ b.snap = q.snap ∧ b.running = true ∧ r'.s = r.s ∧ r'.v = r.v ∧ r'.exec = r.exec ∧ t.mem = s.mem ∧
      ∀ h, h ≠ g → t.grp? h = s.grp? h) ∧
  (∀ (s : State) (g : Nat) (r : Group), s.args = [g] → s.grp? g = some r → r.drain = true → r.stop = .runs → r.trap = none → r.rel = none →
    s.quiet g r = true → s.laneHeld g = false →
    ∃ t r', exec .drain s = .next t ∧ t = { s with groups := t.groups } ∧ t.grp? g = some r' ∧
      r' = { r with drain := false, drained := true, ck := r'.ck, lastDrain := s.nextId } ∧ r'.ck.spc = r.spc ∧ r'.ck.s = r.s ∧
      r'.ck.pend = r.pendS ∧ r'.ck.pos = r.pos ∧ ∀ h, h ≠ g → t.grp? h = s.grp? h) ∧
  (∀ (s : State) (g : Nat) (r x : Group) (m : Team) (e : CqEntry) (i : Instr), s.args = [g, 0] → s.grp? g = some r → s.team? r.team = some m →
    r.releases s e → e.val = none → decodeScalar e.word = .ok i → releaseLeaves r s.ccount e i = some x →
    ∃ t, exec .commitHeadResume s = .next t ∧ t.grp? g = some (r.released x s.ccount) ∧ t.mem = s.mem ∧ t.teams = s.teams ∧
      ∀ h, h ≠ g → t.grp? h = s.grp? h) ∧
  (∀ (s : State) (g : Nat) (r : Group) (m : Team) (e : CqEntry) (i : Instr) (v : W64) (d : BitVec 6), s.args = [g, 0] → s.grp? g = some r →
    s.team? r.team = some m → r.releases s e → e.val = some v → decodeScalar e.word = .ok i → (scalarNeeds i).dest = some d →
    e.word.extractLsb' 19 6 = d → 61 ≤ d.toNat →
    ∃ t x, exec .commitHeadResume s = .next t ∧ t.grp? g = some (r.released { r with exec := x } s.ccount) ∧
      (∀ l, l < 96 → x.getLsbD l = if l / 32 = d.toNat - 61 then v.getLsbD (l % 32) else r.exec.getLsbD l) ∧ t.mem = s.mem) ∧
  (∀ (s : State) (g : Nat) (r : Group) (m : Team) (e : CqEntry) (b a : BitVec 6) (imm : BitVec 13), s.args = [g, 0] → s.grp? g = some r →
    s.team? r.team = some m → r.releases s e → e.val = none → decodeScalar e.word = .ok (.sstsp b a imm) → swf m.sp = true → 256 ≤ e.x.toNat →
    s.spLoadBefore g e.pos = false → r.hidSp = [] →
    ∃ t m', exec .commitHeadResume s = .next t ∧ t.grp? g = some (r.released r s.ccount) ∧ t.team? r.team = some m' ∧
      (∀ k, sget m'.sp k = if e.x.toNat ≤ k ∧ k < e.x.toNat + 8 then (natBytes 8 e.y.toNat).getD (k - e.x.toNat) 0 else sget m.sp k) ∧ t.mem = s.mem) ∧
  (∀ (s : State) (g c : Nat) (r : Group) (m : Team), s.args = [c * 32] → s.grp? g = some r → s.requesters c = [(g, r)] →
    s.team? r.team = some m → (s.core c).decided ≠ s.ccount + 1 → ∃ t r', exec .sacqGrant s = .next t ∧ t.grp? g = some r' ∧ t.mem = s.mem ∧
      (if m.fullAllot - 32 ≤ s.freeRegs c then r' = { r with allot := m.fullAllot, allotSt := .full, v := r.v.filter fun p => decide (p.1 < 32 * 96) }
       else r' = { r with allotSt := .waiting, parked := some .grant, waitS := 0, waitL := 0 }))

/-- R44, R47, R176, R388: BARRIER_ARRIVAL counts the arrival at the head of the commit queue at an armed word of its own team and records the
phase; at an unarmed one the group stops with a deferred trap, ILLEGAL 3, behind the other units of its cycle (R66). REMOTE_BARRIER_UPDATE does the
same at the home word of the cluster, and an unarmed home word sends BARRIER_REFUSAL, which stops the group, raises the waiting group's trap, or
stops the sequencer.
R215, R216, R374, R60: in a team of one group REGRP_MOVE_COMPLETE places the lanes of EXEC in the order of key and lane: position l takes
the window's registers of the l-th placed lane, a position past them 0; EXEC covers the placed positions, the masks are 0. RJOIN_MOVE_COMPLETE
gives each lane its window back from its position, and the masks and EXEC of the REGROUP entry. -/
def Obligations.BarrierAndRegroupEvents : Prop :=
  ((∀ (s : State) (g : Nat) (r : Group) (m : Team) (e : CqEntry) (rest : List CqEntry) (n : BitVec 4) (sc : Scope), s.args = [g] → s.grp? g = some r →
     r.cq = e :: rest → decodeScalar e.word = .ok (.bara n sc) → e.acted = false → r.stop = .runs → r.trap = none → r.rel.isSome = true →
     s.team? r.team = some m →
     ((m.bar n).armed = true → m.forwards r.team n = false → (m.bar n).err = false → (m.bar n).arrived + 1 < (m.bar n).expect → swf m.sp = true →
       ∃ t r' m', exec .barrierArrival s = .next t ∧ t.team? r.team = some m' ∧ m'.bar n = { m.bar n with arrived := (m.bar n).arrived + 1 } ∧
         t.grp? g = some r' ∧ kget r'.arr n.toNat = some (BitVec.ofNat 32 (m.bar n).phase) ∧ r'.cq = { e with acted := true } :: rest ∧ t.mem = s.mem) ∧
     ((m.bar n).armed = false → Item.close ∉ s.agenda → (∀ y, y ∈ (s.core (g / 32)).moves → y.team ≠ r.team) →
       ∃ t r', exec .barrierArrival s = .next t ∧ t.grp? g = some r' ∧ r'.stop = .deferred ∧ r'.trapcause = 6 ∧
         r'.trapinfo = 3 ∧ r'.trapspc = e.pc ∧ r'.cq = r.cq ∧ t.teams = s.teams ∧ t.mem = s.mem) ∧
     ((m.bar n).armed = false → Item.close ∈ s.agenda → (∀ u, Item.trap g u ∈ s.agenda → u.defer = none) →
       ∃ t, exec .barrierArrival s = .next t ∧ t.grp? g = some r ∧ t.teams = s.teams ∧ t.mem = s.mem ∧
         t.agenda = s.agenda ++ [.trap g ⟨6, 0, 3, false, false, false, false, some e.pc⟩])) ∧
   (∀ (s : State) (id ctx clid home g : Nat) (n : BitVec 4) (r : Group) (h : Team), s.args = [id] →
     kget s.barMsgs id = some (ctx, clid, .groupArrive home n.toNat g) → kwf s.barMsgs = true → s.grp? g = some r → s.team? home = some h → h.ctx = ctx →
     h.clpos.toNat / 2 ^ 16 % 2 ^ 32 = clid →
     ((h.bar n).armed = true → (h.bar n).err = false → (h.bar n).arrived + 1 < (h.bar n).expect → swf h.sp = true →
       ∃ t r' h', exec .remoteBarrierUpdate s = .next t ∧ kget t.barMsgs id = none ∧ t.team? home = some h' ∧
         h'.bar n = { h.bar n with arrived := (h.bar n).arrived + 1 } ∧ t.grp? g = some r' ∧
         kget r'.arr n.toNat = some (BitVec.ofNat 32 (h.bar n).phase) ∧ t.mem = s.mem) ∧
     ((h.bar n).armed = false → ∃ t, exec .remoteBarrierUpdate s = .next t ∧ (∃ x, x ∈ t.timed ∧ x.i = .barrierRefusal ∧ x.args = [id]) ∧
       t.teams = s.teams ∧ t.groups = s.groups)) ∧
   (∀ (s : State) (id ctx clid home n : Nat), s.args = [id] → kwf s.barMsgs = true →
     (∀ g r e, kget s.barMsgs id = some (ctx, clid, .groupArrive home n g) → s.grp? g = some r → r.cq.head? = some e → Item.close ∉ s.agenda →
       (∀ y, y ∈ (s.core (g / 32)).moves → y.team ≠ r.team) → ∃ t r', exec .barrierRefusal s = .next t ∧
       kget t.barMsgs id = none ∧ t.grp? g = some r' ∧ r'.stop = .deferred ∧ r'.trapcause = 6 ∧ r'.trapinfo = 3 ∧ r'.trapspc = e.pc ∧ r'.cq = r.cq ∧
       t.mem = s.mem) ∧
     (∀ g r tg, kget s.barMsgs id = some (ctx, clid, .groupWait home n g tg) → s.grp? g = some r → r.atStep = false → s.trapsAtOnce g r →
       s.handlerFor r 6 = none →
       ∃ t r', exec .barrierRefusal s = .next t ∧ kget t.barMsgs id = none ∧ t.grp? g = some r' ∧ r'.parked = none ∧ r'.trapcause = 6 ∧
         r'.trapinfo = 3 ∧ r'.trapspc = r.spc ∧ t.mem = s.mem) ∧
     (∀ q m, kget s.barMsgs id = some (ctx, clid, .seqArrive home n q) → s.team? q = some m → ∃ t m', exec .barrierRefusal s = .next t ∧
       t.team? q = some m' ∧ m'.seqSt = .trapped ∧ m'.tcause = 0x206 ∧ m'.tva = 0 ∧ m'.tinfo = 3 ∧ m'.w = m.w ∧ t.mem = s.mem))) ∧
  (∀ (s : State) (g : Nat) (r : Group) (m : Team) (a : RgArrive), s.args = [r.team] → s.grp? g = some r → s.team? r.team = some m →
     s.liveOf r.team = [(g, r)] → r.rgArr = some a → r.parked = some .regroup → (s.core (r.team / 4)).moves.length = 1 → swf r.v = true →
     (let order := (List.range 8).flatMap fun k => (List.range 96).filter fun l => r.exec.getLsbD l && decide ((r.vread a.key l).toNat = k)
      ∃ t r' w, exec .regrpMoveComplete s = .next t ∧ t.grp? g = some r' ∧ r'.lpc = a.pc + 12 ∧ r'.parked = none ∧ r'.rgArr = none ∧
        r'.rg = some w ∧ w.host = true ∧ w.base = a.base ∧ w.count = a.count ∧ w.keptK = r.k ∧ r'.rs = r.rs ∧ t.mem = s.mem ∧
        (∀ l, l < 96 → r'.exec.getLsbD l = decide (l < order.length) ∧ r'.kreg (l % 16) = 0 ∧
          w.map[l]? = some (match order[l]? with | some o => BitVec.ofNat 16 (r.gid.toNat + 256 * o + 0x8000) | none => 0) ∧
          ∀ reg, r'.vget reg l = if a.base ≤ reg ∧ reg < a.base + a.count then ((order[l]?).map fun o => r.vget reg o).getD 0 else r.vget reg l)) ∧
     (∀ w e, r.rg = some w → r.rs.getLast? = some e → w.map.length = 96 → w.map.Nodup ∨ (∀ x, x ∈ w.map → x = 0 ∨ w.map.count x = 1) →
       ∃ t r', exec .rjoinMoveComplete s = .next t ∧ t.grp? g = some r' ∧ r'.lpc = a.pc + 12 ∧ r'.parked = none ∧ r'.rg = none ∧ r'.rs = r.rs.dropLast ∧
         r'.exec = e.mask ∧ r'.k = w.keptK ∧ t.mem = s.mem ∧
         (∀ l, l < 96 → ∀ reg,
           (¬(w.base ≤ reg ∧ reg < w.base + w.count) → r'.vget reg l = r.vget reg l) ∧
           (w.base ≤ reg ∧ reg < w.base + w.count →
             (∀ i, i < 96 → w.map[i]? = some (BitVec.ofNat 16 (r.gid.toNat + 256 * l + 0x8000)) → r'.vget reg l = r.vget reg i) ∧
             ((∀ i : Nat, w.map[i]? ≠ some (BitVec.ofNat 16 (r.gid.toNat + 256 * l + 0x8000))) → e.mask.getLsbD l = false →
               r'.vget reg l = sget w.kept (reg * 96 + l))))))

/-- R259 to R261, R337, R341, R338, R463, R256: TILE_FETCH_RETURN of a line of the core's own die, none of whose sectors in use meets a refresh or lacks
a way, pins the line, or keeps the fault of its translation for the operation; LEAVE_REQUEST makes
the request of an MMA, LEAVE_GRANT grants it once the balance covers its cost, which the balance pays, and else waits.
R267, R321, R306, R308, R260: MDRAINA_REPORT reserves its lines at a home slice, when no copy of them is pinned, and reports the later of PTIME and their leases; MDRAINA_COMMIT
gives every line of the operation one GWCT, the later of the latest report and 64 core cycles and of now and 96; MDRAINA_APPLY adds to each
word the value that is performed there, as FP32 to nearest even or as INT32, and ends the reservations. -/
def Obligations.EngineFetchLeaveAndAddOnStores : Prop :=
  (∀ (s : State) (c : Nat) (e : EngOp) (m : Team), s.args = [c] → (s.core c).eng = [e] → s.team? e.team = some m → e.finish = none →
     e.cancelled = false → s.stopping e.team = false →
     (∀ (lo hi last pa : Nat) (leaf : W64) (u : State), e.fetching = true → e.nextLine = some (lo, hi, last) → e.fault = none →
       s.checkVa c m.ctx (BitVec.ofNat 64 lo) .read false = (.ok leaf pa, u) → (u.core c).eng = [e] → paClass pa = 0 → isRegBlock (paLow pa) = false →
       homeDie (paLow pa) = c / 80 → (∀ p ∈ e.usesOf (lo / 256), u.poisonRead c (pa / 256 * 256 + p.1 % 256) (p.2 - p.1) = none) →
       (∀ k ∈ e.sectorsOf (lo / 256), u.meetsRefresh (pa / 256 * 256 + 64 * k) = false ∧ u.l2Room (paLow (pa / 256 * 256 + 64 * k)) = true) →
       u.pinsOf c < 512 →
       u.pinsWhere (fun _ x => !x.copied && homeSlice (x.pline * 256) == homeSlice (pa / 256 * 256)) < 1024 →
       ∃ t, exec .tileFetchReturn s = .next t ∧
         (t.core c).eng = [{ e with fetching := false, fetched := e.fetched ++ [⟨lo / 256, pa / 256, false, 15, [], last⟩] }]) ∧
     (∀ (lo hi last : Nat) (b : Bad) (u : State), e.fetching = true → e.nextLine = some (lo, hi, last) → e.fault = none →
       s.checkVa c m.ctx (BitVec.ofNat 64 lo) .read false = (.bad b, u) → (u.core c).eng = [e] →
       ∃ t, exec .tileFetchReturn s = .next t ∧ t.mem = u.mem ∧
         (t.core c).eng = [{ e with fetching := false, fault := some ⟨b.cause, b.va, b.badpte⟩ }]) ∧
     (e.kind = .mma → e.leave = .none → e.doneG < e.groups → (s.core c).leave = none →
       ∃ t, exec .leaveRequest s = .next t ∧ (t.core c).leave = some e.id ∧ (t.core c).eng = [{ e with leave := .asked }] ∧
         (∃ x, x ∈ t.timed ∧ x.i = .leaveGrant ∧ x.args = [c]) ∧ t.teams = s.teams ∧ t.mem = s.mem) ∧
     ((s.core c).leave = some e.id → ∃ t, exec .leaveGrant s = .next t ∧ t.teams = s.teams ∧ t.mem = s.mem ∧
       (if min e.cost 65536 ≤ (s.core c).bal then
         (t.core c).bal = (s.core c).bal - e.cost ∧ (t.core c).leave = none ∧ (t.core c).eng = [{ e with leave := .granted }]
       else t.cores = s.cores ∧ ∃ x, x ∈ t.timed ∧ x.i = .leaveGrant ∧ x.args = [c]))) ∧
  ((∀ (s : State) (c x : Nat) (e : EngOp), s.args = [c, x] → (s.core c).eng = [e] → e.kind = .mdraina → e.began.isSome = true → e.commitT = none →
     e.ctl.spd = false → (e.reports.any fun r => r.1 == x) = false → e.partAt x ≠ [] →
     (∀ u ∈ e.partAt x, s.pinnedCopy (u.1 / 256) = false) →
     ∃ t late, exec .mdrainaReport s = .next t ∧ (t.core c).eng = [{ e with reports := e.reports ++ [(x, late)] }] ∧ s.ptime ≤ late ∧
       (∀ u, u ∈ e.partAt x → (s.homeLine (u.1 / 256)).lease ≤ late ∧ e.id ∈ (t.homeLine (u.1 / 256)).resv) ∧ t.mem = s.mem ∧
       t.writes = s.writes) ∧
   (∀ (s : State) (c : Nat) (e : EngOp), s.args = [c] → (s.core c).eng = [e] → e.kind = .mdraina → e.began.isSome = true → e.commitT = none →
     e.ctl.spd = false → e.reports.length = e.slices.length →
     ∃ t T, exec .mdrainaCommit s = .next t ∧ (t.core c).eng = [{ e with commitT := some T }] ∧ s.ptime + 96 * s.tpc ≤ T ∧
       (∀ r, r ∈ e.reports → r.2 + 64 * s.tpc ≤ T) ∧ t.mem = s.mem ∧
       (∀ u, u ∈ e.upd → ∃ id w, kget t.writes id = some w ∧ w.pa = u.1 ∧ w.data = u.2.map some ∧ w.gwct = T ∧
         w.add = some (e.ctl.ofmt == .fp32))) ∧
   (∀ (s : State) (c id k : Nat) (e : EngOp) (w : PWrite) (fp : Bool) (x : List Byte), s.args = [c, id] →
     (s.core c).eng.find? (·.id == id) = some e → e.ctl.spd = false → s.poisonIn w.pa 4 = none → s.writes = [(k, w)] → w.op = id → w.add = some fp →
     w.gwct ≤ s.ptime → w.data = x.map some → x.length = 4 → w.pa % 4 = 0 → w.pa + 4 ≤ 2 ^ 50 → isRegBlock w.pa = false → s.homePlain →
     ∃ t, exec .mdrainaApply s = .next t ∧ t.writes = [] ∧ (∀ l, (t.homeLine l).resv = (s.homeLine l).resv.erase id) ∧
       bytesW 32 (t.homeBytes w.pa 4) = addWord fp (bytesW 32 (s.homeBytes w.pa 4)) (bytesW 32 x) ∧
       ∀ a, a < 2 ^ 50 → isRegBlock a = false → a < w.pa ∨ w.pa + 4 ≤ a → t.homeByte a = s.homeByte a))

/-- R258, R262 to R265, R268, R269, R45, R147: MMA_COMPLETION, MLOAD_COMPLETION and DRAIN_COMPLETION make the operation's arrival at its
barrier and take it from the queue, MMA's 4 cycles after its last group with its flags waiting for the phase; MZERO_COMPLETION and a drain with ZERO clear the tile and no other cell,
MLOAD writes the cells of its shape; ERROR_PHASE_DELIVERY puts the operation's fault into the barrier word and completes its phase. -/
def Obligations.EngineCompletions : Prop :=
  ∀ (s : State) (c : Nat) (e : EngOp) (rest : List EngOp) (m : Team), (s.core c).eng = e :: rest → s.team? e.team = some m → m.core = c →
    m.ended.length ≠ m.groups → e.cancelled = false → swf m.acc = true →
    (∀ n, s.args = [c] → e.kind = .mma → e.finish = some n → n + 4 ≤ s.ccount → e.fault = none → s.stopping e.team = false → m.openWord e.team e.n →
      ∃ t m', exec .mmaCompletion s = .next t ∧ t.team? e.team = some m' ∧ m'.bar e.n = { m.bar e.n with arrived := (m.bar e.n).arrived + 1 } ∧
        m'.flagWait = m.flagWait ++ [⟨e.n, e.team, e.flags⟩] ∧ m'.acc = m.acc ∧ (t.core c).eng = rest.filter (·.id != e.id) ∧ t.mem = s.mem) ∧
    (s.args = [c] → e.kind = .mzero → e.began.isSome = true → e.finish = none →
      ∃ t m', exec .mzeroCompletion s = .next t ∧ t.team? e.team = some m' ∧ (t.core c).eng = rest.filter (·.id != e.id) ∧
        (∀ k, sget m'.acc k = if e.tile * 16384 ≤ k ∧ k < (e.tile + 1) * 16384 then 0 else sget m.acc k) ∧ m'.sp = m.sp ∧ t.mem = s.mem) ∧
    (s.args = [c] → e.kind = .mload → e.began.isSome = true → e.finish = none → shRows (e.reg 1) ≤ 128 → shKlen (e.reg 1) ≤ 128 →
      m.openWord e.team e.n →
      ∃ t m', exec .mloadCompletion s = .next t ∧ t.team? e.team = some m' ∧ m'.bar e.n = { m.bar e.n with arrived := (m.bar e.n).arrived + 1 } ∧
        (∀ i j, i < 128 → j < 128 → sget m'.acc (e.tile * 16384 + i * 128 + j) = if i < shRows (e.reg 1) ∧ j < shKlen (e.reg 1) then
            BitVec.ofNat 32 (bytesNat ((List.range 4).map fun b => s.tileByte e ((e.reg 0).toNat + i * shStride (e.reg 1) + 4 * j + b)))
          else sget m.acc (e.tile * 16384 + i * 128 + j)) ∧ t.mem = s.mem) ∧
    (s.args = [c, e.id] → s.drainReady e = true → m.openWord e.team e.n →
      ∃ t m', exec .drainCompletion s = .next t ∧ t.team? e.team = some m' ∧ m'.bar e.n = { m.bar e.n with arrived := (m.bar e.n).arrived + 1 } ∧
        (∀ k, sget m'.acc k = if e.ctl.zero = true ∧ e.tile * 16384 ≤ k ∧ k < (e.tile + 1) * 16384 then 0 else sget m.acc k) ∧
        (t.core c).eng = rest.filter (·.id != e.id) ∧ t.mem = s.mem) ∧
    (∀ f, s.args = [c] → rest = [] → e.fault = some f → e.finish.isSome = true → e.writes = 0 → e.gmax ≤ s.ptime → e.kind ≠ .mzero → (m.bar e.n).armed = true → (m.bar e.n).err = false →
      m.forwards e.team e.n = false → swf m.sp = true →
      ∃ t m', exec .errorPhaseDelivery s = .next t ∧ t.team? e.team = some m' ∧ (t.core c).eng = [] ∧ m'.acc = m.acc ∧
        m'.bar e.n = { m.bar e.n with
          err := true, errcode := f.cause.toNat, pend := f.va.toNat % 2 ^ 32, btarg := f.va.toNat / 2 ^ 32, arrived := 0
          phase := ((m.bar e.n).phase + 1) % 2 ^ 32 })

/-- R275 to R278, R305, R311, R319, R39, R36: COPY_PIECE of a piece whose bytes lie in the scratchpad, or have been read and have come back, writes
them at its destination row: in the scratchpad to those bytes and no other, in memory by a store of the copy engine, once the loads before the copy
have bound. COPY_PIECE_DONE at the piece's GWCT sets the piece's bit in the progress bitmap and takes its GWCT into the batch; with the last piece
the command leaves the queue, CPC falls and its batch counts one command less, and is complete when it is sealed and none is left. -/
def Obligations.Copies : Prop :=
  (∀ (s : State) (core row lo n : Nat) (c : CopyCmd) (m : Team) (bs : List Byte), s.args = [core] → (s.core core).copyQ = [c] → c.ended = false →
    s.stopping c.team = false → c.busy = false → s.fqWaits (core / 80) = false → c.next < c.pieces → c.skipBits = false →
    c.piece? c.next = some (row, lo, n) → s.team? c.team = some m →
    let d := descOf c.desc
    let dst := (d.rowStart row + BitVec.ofNat 64 lo).toNat
    let inSp := d.ssp = true ∧ m.poison = [] ∧ s.copyRead core c = none ∧ bs = (List.range n).map fun j => sget m.sp (d.srcOf c.form row (lo + j)).toNat
    (d.dsp = true → swf m.sp = true → 256 ≤ dst → (inSp ∨ ∃ o op, s.copyRead core c = some (o, op) ∧ op.unbound = false ∧
        bs = op.parts.flatMap (·.data)) →
      ∃ t m', exec .copyPiece s = .next t ∧ (t.core core).copyQ = [{ c with busy := true }] ∧ t.team? c.team = some m' ∧
        (∀ k, sget m'.sp k = if dst ≤ k ∧ k < dst + bs.length then bs.getD (k - dst) 0 else sget m.sp k) ∧
        (∃ x, x ∈ t.timed ∧ x.i = .copyPieceDone ∧ x.args = [core, c.id, c.next, s.ptime]) ∧ t.mem = s.mem ∧
        ((∀ g r, g ∈ m.members → s.grp? g = some r → r.hidSp = []) → t.groups = s.groups)) ∧
    (∀ (u v : State) (l : List (Nat × W64 × Nat)), d.dsp = false →
      ((inSp ∧ ∃ l0, State.copyPages core m.ctx .write [dst] s = (.ok l0, u)) ∨
        ∃ o op, s.copyRead core c = some (o, op) ∧ op.unbound = false ∧ bs = op.parts.flatMap (·.data) ∧ u = s.delOp o) →
      u.loadsBound c.g c.key c.pos false = true → State.copyPages core m.ctx .write [dst] u = (.ok l, v) → (v.core core).copyQ = [c] →
      ∃ t o op, exec .copyPiece s = .next t ∧ (t.core core).copyQ = [{ c with busy := true }] ∧ kget t.ops o = some op ∧ op.kind = .store ∧
        op.agent = .copier core ∧ op.out = c.id ∧ op.pos = c.next ∧ op.parts.map (fun q => (q.pa, q.data)) = [((paOfByte l dst).1, bs)] ∧
        t.mem = v.mem)) ∧
  (∀ (s : State) (core i g row lo n : Nat) (c : CopyCmd) (m : Team) (r : Group), s.args = [core, c.id, i, g] → g ≤ s.ptime →
    (s.core core).copyQ = [c] → c.piece? i = some (row, lo, n) → s.team? c.team = some m → s.grp? c.g = some r → (descOf c.desc).ben = false →
    swf m.sp = true → 256 ≤ (descOf c.desc).prog → c.batch < 16 →
    let b := r.batches.getD c.batch ⟨.idle, false, 0, 0, 0⟩
    ∃ t m' r', exec .copyPieceDone s = .next t ∧ t.team? c.team = some m' ∧ t.grp? c.g = some r' ∧ t.mem = s.mem ∧
      (∀ k, sget m'.sp k = if k = (descOf c.desc).prog + i / 8 then sget m.sp k ||| ((1 : Byte) <<< (i % 8)) else sget m.sp k) ∧
      (i + 1 ≠ c.pieces → (t.core core).copyQ = [{ c with busy := false, next := i + 1 }] ∧ r'.outs = r.outs ∧
        r'.batches.getD c.batch ⟨.idle, false, 0, 0, 0⟩ = { b with gwct := max b.gwct g }) ∧
      (i + 1 = c.pieces → (t.core core).copyQ = [] ∧ (∀ x, x ∈ r'.outs → x.id = c.id → x.done = true) ∧
        (r'.batches.getD c.batch ⟨.idle, false, 0, 0, 0⟩).live = b.live - 1 ∧
        (b.live = 1 → b.st = .sealed → (r'.batches.getD c.batch ⟨.idle, false, 0, 0, 0⟩).st = .complete)))

/-- R284 to R286, R305 to R307, R320, R44: BULK_PACKET_SEND reads the source bytes of the next packet of a transfer, up to the next 256-byte boundary
of its target, and sends them to a home of the own module when they have come back and the packet's line has a way in the L1; BULK_WRITE has it accepted at its home, counts
its bytes into the selected barrier word once they are performed, and acknowledges it with a code; with the last acknowledgement BULK_ACK writes
the status: the code, the cause and the bytes done. -/
def Obligations.BulkTransfers : Prop :=
  (∀ (s : State) (core : Nat) (x : Xfer), s.args = [core] → (s.core core).xferQ = [x] → x.stopped = false → 0 < x.left →
    s.stopping (s.xferTeam x) = false → s.fqWaits (core / 80) = false →
    let n := min x.left (256 - x.dst.toNat % 256)
    let srcs := (List.range n).map fun j => (x.src + BitVec.ofNat 64 j).toNat
    (∀ (pa : Nat) (leaf : W64) (u v : State) (l : List (Nat × W64 × Nat)), s.xferRead core x = none →
      State.copyPages core (s.xferCtx x) .read (lowOfPages srcs) s = (.ok l, u) →
      (∀ a, a ∈ srcs → paClass (paOfByte l a).1 = 0 ∧ u.poisonRead core (paOfByte l a).1 1 = none) →
      u.checkVa core (s.xferCtx x) x.dst .write false = (.ok leaf pa, v) → paClass pa ≠ 1 → (paClass pa = 0 → isRegBlock (paLow pa) = false) →
      exec .bulkPacketSend s = .next (v.engineRead core (.xfer core) x.g x.id 0 (srcs.map fun a => paOfByte l a))) ∧
    (∀ (o : Nat) (op : MemOp) (pa : Nat) (leaf : W64) (u : State), s.xferRead core x = some (o, op) → op.unbound = false →
      s.checkVa core (s.xferCtx x) x.dst .write false = (.ok leaf pa, u) → paClass pa = 0 → (u.core core).xferQ = [x] →
      (u.l1Alloc core pa).isSome = true →
      let data := op.parts.flatMap (·.data)
      ∃ t k p, exec .bulkPacketSend s = .next t ∧ kget t.pkts k = some p ∧ p.core = core ∧ p.xfer = x.id ∧ p.dst = pa ∧ p.sel = x.sel ∧
        p.data = data ∧ p.gwct = none ∧ p.code = none ∧ p.fromPeer = none ∧ (t.core core).xferQ = [{ x with
          src := x.src + BitVec.ofNat 64 data.length, dst := x.dst + BitVec.ofNat 64 data.length, left := x.left - data.length
          inFlight := x.inFlight + 1, paid := false }] ∧
        (∃ y, y ∈ t.timed ∧ y.i = .bulkWrite ∧ y.args = [k]))) ∧
  (∀ (s : State) (k : Nat) (p : BulkPkt), s.args = [k] → kget s.pkts k = some p → p.fromPeer = none → kwf s.pkts = true →
    let acks := fun (t : State) (code g : Nat) => kget t.pkts k = none ∧ ∃ y, y ∈ t.timed ∧ y.i = .bulkAck ∧ y.args = [p.core, p.xfer, p.data.length, code, g]
    (p.gwct = none → s.pinnedCopy (p.dst / 256) = false → s.earlierWrite p.core 1048576 k p.dst p.data.length = false →
      ∃ t id w, exec .bulkWrite s = .next t ∧ kget t.writes id = some w ∧ w.pa = p.dst ∧
        w.data = p.data.map some ∧ w.gwct = s.gwctOf (p.dst / 256) ∧ kget t.pkts k = some { p with gwct := some w.gwct } ∧ t.mem = s.mem) ∧
    (∀ g, p.gwct = some g →
      (∀ c, p.code = some c → c ≠ 4 → ∃ t, exec .bulkWrite s = .next t ∧ acks t c g ∧ t.teams = s.teams) ∧
      (p.code = none → g ≤ s.ptime →
        (p.sel.getLsbD 31 = false → ∃ t, exec .bulkWrite s = .next t ∧ acks t 0 g ∧ t.teams = s.teams) ∧
        (p.sel.getLsbD 31 = true → s.selTeam p.sel = none → s.fqWaits ((p.sel.extractLsb' 0 9).toNat / 80 % 4) = false →
          ∃ t, exec .bulkWrite s = .next t ∧ acks t 4 g ∧ t.teams = s.teams) ∧
        (∀ q n m, p.sel.getLsbD 31 = true → s.selTeam p.sel = some (q, n) → s.team? q = some m → m.openWord q n →
          ∃ t m', exec .bulkWrite s = .next t ∧ acks t 0 g ∧ t.team? q = some m' ∧
            m'.bar n = { m.bar n with pend := min 0xFFFFFFFF ((m.bar n).pend + p.data.length) })))) ∧
  (∀ (s : State) (core n code g : Nat) (x : Xfer) (r : Group) (d : PendS), s.args = [core, x.id, n, code, g] → (s.core core).xferQ = [x] →
    s.grp? x.g = some r →
    (1 < x.inFlight → ∃ t, exec .bulkAck s = .next t ∧ t.groups = s.groups ∧ (t.core core).xferQ = [{ x with
      inFlight := x.inFlight - 1, done := x.done + n, code := if x.code = 0 then code else x.code }]) ∧
    (x.inFlight = 1 → x.left = 0 → x.code = 0 → code < 256 → x.cause = 0 → x.done + n < 2 ^ 32 → r.pendS.find? (·.id == x.id) = some d →
      d.reg.toNat < 61 → ∃ t r', exec .bulkAck s = .next t ∧ (t.core core).xferQ = [] ∧ t.grp? x.g = some r' ∧
        r.lands r' d (BitVec.ofNat 64 (code + (x.done + n) * 2 ^ 32)) ∧ t.mem = s.mem))

/-- R289, R290, R292, R294, R295, R301, R345 to R347, R393: a request that reaches its home slice acts at once when none of its region waits there and
its search and its access to the ring take no further cycle (fenDelay: its count is the model's, log 68), and else acts in turn. With no parked
request FEN_DEPOSIT stores the tuple on-chip with the
slice's next sequence, FEN_TAKE answers FOUND with the oldest tuple that matches and removes it, FEN_COPY answers and leaves it; a request
without blocking that finds no room or no match is answered FULL or NONE; a deposit that finds a matching parked take hands its tuple to it.
FEN_REFILL moves the oldest ring tuple on-chip, FEN_PARKED_DEPOSIT_STORE stores the oldest parked deposit, FEN_REQUEST_RETRY sends a request
that the slice sent back again, FEN_WITHDRAWAL takes a parked one of the module back. -/
def Obligations.FenHomes : Prop :=
  (∀ (s : State) (q : Nat) (u : FenReq) (rg : Region), s.args = [q] → s.req? q = some u → kget s.alder.regions u.region = some rg →
    ((s.fenPart u.slice u.region).queue = [] → s.fenBehind q u = false → s.fenDelay rg u ≠ 0 → ∀ i, (i, u.kind) ∈ [(Instr.fenDeposit, .deposit),
      (.fenTake, .take), (.fenCopy, .copy)] → ∃ t, exec i s = .next t ∧ (t.fenPart u.slice u.region).queue = [q] ∧ t.fenReqs = s.fenReqs ∧
        ∃ x, x ∈ t.timed ∧ x.i = i ∧ x.args = [q, 1]) ∧
    ((s.fenPart u.slice u.region).queue = [] → s.fenBehind q u = false → s.fenDelay rg u = 0 →
    (u.kind = .deposit → (s.slice u.slice).parked = [] → (s.fenPart u.slice u.region).onchip.length < rg.onchip →
      ∃ t, exec .fenDeposit s = .next t ∧ (t.req? q).map (·.code) = some (some 0) ∧ (t.slice u.slice).nextSeq = (s.slice u.slice).nextSeq + 1 ∧
        (t.fenPart u.slice u.region).onchip = (s.fenPart u.slice u.region).onchip ++ [⟨(s.slice u.slice).nextSeq, u.words⟩] ∧ t.mem = s.mem ∧
        (∃ x, x ∈ t.timed ∧ x.i = .fenStatusReturn ∧ x.args = [q])) ∧
    (u.kind = .deposit → (s.slice u.slice).parked = [] → rg.onchip ≤ (s.fenPart u.slice u.region).onchip.length → rg.ring = 0 → u.blk = false →
      ∃ t, exec .fenDeposit s = .next t ∧ (t.req? q).map (·.code) = some (some 4) ∧ t.slices = s.slices) ∧
    (∀ k v, u.kind = .deposit → (s.slice u.slice).parked = [k] → k ≠ q → s.req? k = some v → v.region = u.region → v.kind = .take →
      matchesTuple v u.words = true → ∃ t, exec .fenDeposit s = .next t ∧ (t.req? q).map (·.code) = some (some 1) ∧
        (t.req? k).map (fun w => (w.code, w.reply)) = some (some 2, u.words) ∧ (t.slice u.slice).parked = [] ∧
        (t.fenPart u.slice u.region).onchip = (s.fenPart u.slice u.region).onchip) ∧
    (∀ c, (s.slice u.slice).parked = [] → (s.fenPart u.slice u.region).head = (s.fenPart u.slice u.region).tail →
      c ∈ (s.fenPart u.slice u.region).onchip → matchesTuple u c.words = true →
      (∀ d, d ∈ (s.fenPart u.slice u.region).onchip → matchesTuple u d.words = true → d = c ∨ c.sq < d.sq) →
      (∃ t, exec .fenTake s = .next t ∧ (t.req? q).map (fun w => (w.code, w.reply)) = some (some 2, c.words) ∧
        (t.fenPart u.slice u.region).onchip = (s.fenPart u.slice u.region).onchip.erase c ∧ t.mem = s.mem) ∧
      (∃ t, exec .fenCopy s = .next t ∧ (t.req? q).map (fun w => (w.code, w.reply)) = some (some 2, c.words) ∧
        (t.fenPart u.slice u.region).onchip = (s.fenPart u.slice u.region).onchip ∧ t.mem = s.mem)) ∧
    ((s.slice u.slice).parked = [] → (s.fenPart u.slice u.region).head = (s.fenPart u.slice u.region).tail → u.blk = false →
      (∀ d, d ∈ (s.fenPart u.slice u.region).onchip → matchesTuple u d.words = false) →
      (∃ t, exec .fenTake s = .next t ∧ (t.req? q).map (·.code) = some (some 3) ∧ t.slices = s.slices) ∧
      (∃ t, exec .fenCopy s = .next t ∧ (t.req? q).map (·.code) = some (some 3) ∧ t.slices = s.slices))) ∧
    (u.withdrawn = false → u.sent = true → ∃ t, exec .fenRequestRetry s = .next t ∧ t.fenReqs = s.fenReqs ∧ t.slices = s.slices ∧
      ∃ x, x ∈ t.timed ∧ x.args = [q] ∧ x.i = (match u.kind with | .deposit => .fenDeposit | .take => .fenTake | .copy => .fenCopy)) ∧
    (q ∈ (s.slice u.slice).parked → u.fromPeer = none → ∃ t, exec .fenWithdrawal s = .next t ∧ (t.slice u.slice).parked = (s.slice u.slice).parked.erase q ∧
      t.req? q = some { u with withdrawn := true } ∧ t.mem = s.mem)) ∧
  (∀ (s : State) (x region i : Nat) (rg : Region) (c : Tuple), s.args = [x, region] → kget s.alder.regions region = some rg →
    (s.ringLive rg x (s.fenPart x region)).head? = some (i, c) → (s.fenPart x region).onchip.length < rg.onchip →
    paClass (ringSeqPa rg x i) = 0 → isRegBlock (paLow (ringSeqPa rg x i)) = false → s.ringRefreshes rg x i 1 = false →
    ∃ t, exec .fenRefill s = .next t ∧ (t.fenPart x region).onchip = (s.fenPart x region).onchip ++ [c] ∧
      (t.fenPart x region).tail = (s.fenPart x region).tail ∧ t.groups = s.groups) ∧
  (∀ (s : State) (x region q : Nat) (rest : List Nat) (rg : Region) (u : FenReq), s.args = [x, region] → kget s.alder.regions region = some rg →
    (s.slice x).parked = q :: rest → s.req? q = some u → u.kind = .deposit → u.region = region →
    (s.fenPart x region).onchip.length < rg.onchip →
    ∃ t, exec .fenParkedDepositStore s = .next t ∧ (t.slice x).parked = rest ∧ (t.req? q).map (·.code) = some (some 0) ∧
      (t.fenPart x region).onchip = (s.fenPart x region).onchip ++ [⟨(s.slice x).nextSeq, u.words⟩] ∧ t.mem = s.mem)

/-- R291 to R293, R297, R37: FEN_STATUS_RETURN of the last lane of a lane Fen instruction writes the lane's status word and, where a take or
copy found one, its tuple, and ends the instruction; that of a scalar form writes its register. -/
def Obligations.FenStatus : Prop :=
  ∀ (s : State) (k : Nat) (q : FenReq) (o : FenOp) (r : Group) (code : Nat), s.args = [k] → s.req? k = some q → q.code = some code → q.fromPeer = none →
    kget s.fenOps q.op = some o → s.grp? q.g = some r → kwf s.fenReqs = true → kwf s.fenOps = true → code ≠ 4 →
    let status := BitVec.ofNat 32 (code + 256 * min q.copies 255)
    (o.scalar = false → o.left = 1 → o.fullHandle = none → q.lane < 96 → swf r.v = true →
      (∀ j, r.writable j = true) → (o.vs < o.vd ∨ o.vd + 16 ≤ o.vs) →
      ∃ t r', exec .fenStatusReturn s = .next t ∧ t.req? k = none ∧ kget t.fenOps q.op = none ∧ t.grp? q.g = some r' ∧
        r'.pendV = r.pendV.filter (·.id != q.op) ∧ r'.k = r.k ∧ r'.s = r.s ∧ t.mem = s.mem ∧
        (∀ reg l, l < 96 → r'.vget reg l =
          if l = q.lane ∧ reg = o.vs then status
          else if l = q.lane ∧ code = 2 ∧ q.kind ≠ .deposit ∧ o.vd ≤ reg ∧ reg < o.vd + 16 then q.reply.getD (reg - o.vd) 0 else r.vget reg l)) ∧
    (∀ p, o.scalar = true → (code ≠ 2 ∨ q.kind = .deposit) → r.pendS.find? (·.id == o.rid) = some p → p.reg.toNat < 61 →
      ∃ t r', exec .fenStatusReturn s = .next t ∧ t.req? k = none ∧ kget t.fenOps q.op = none ∧ t.grp? q.g = some r' ∧
        r.lands r' p (status.setWidth 64) ∧ r'.v = r.v ∧ t.mem = s.mem)

/-- R353 to R356, R381, R391, R395, R405 to R407, R462: each host command with its reserved fields 0. RESUME of a seed image that passes its checks makes
a context active; TRAPSET replaces the address space's trap table; PREEMPT sends STOP to the 32 Willows; QFENCE with nothing before it completes;
TLBINV sends the invalidation to the 32 Willows. QUEUE_VISIT takes the entry at the head of an enabled queue with no entry held back and has it executed. -/
def Obligations.HostCommands : Prop :=
  (∀ (q : Nat) (cmd : BitVec 512) (s : State) (h : List Byte) (c : Ctx), cmdField cmd 2 2 < 2 → cmdField cmd 4 2 ≠ 0 →
    (∀ x, x ∈ s.alder.ctxs → x.ctxid ≠ cmdField cmd 4 2) → cmdField cmd 6 2 = 0 → cmdField cmd 32 32 = 0 → cmdField cmd 8 8 % 256 = 0 →
    cmdField cmd 16 8 % 256 = 0 → s.alderRead (cmdField cmd 8 8) 64 = some h → fieldN h 4 4 % 2 = 1 →
    (s.takeCmd q (natBytes 64 cmd.toNat)).2.imageOf q (natBytes 64 cmd.toNat) h s.nextId = .ok c →
    ∃ t, exec (.resume q cmd) s = .next t ∧ t.alder.ctxs = s.alder.ctxs ++ [c] ∧ c.ctxid = cmdField cmd 4 2 ∧ c.save = cmdField cmd 16 8 ∧
      t.groups = s.groups ∧ t.mem = s.mem) ∧
  (∀ (q : Nat) (cmd : BitVec 512) (s : State) (b : List Byte), s.mayComplete q → s.alder.cmds = [] → cmdField cmd 2 2 < 2 → cmdField cmd 4 4 = 0 →
    cmdField cmd 16 8 = 0 → cmdField cmd 32 32 = 0 → cmdField cmd 8 8 % 64 = 0 → s.alderRead (cmdField cmd 8 8) 64 = some b →
    fieldN b 0 4 = 0x54540001 → fieldN b 6 2 = 0 → fieldN b 20 44 = 0 → b.length = 64 → fieldN b 8 8 % 4 = 0 →
    (BitVec.ofNat 32 (fieldN b 16 4) &&& 0xFFFC9000 = 0) →
    ∃ t, exec (.trapset q cmd) s = .next t ∧ completes s t q (BitVec.ofNat 64 (cmdField cmd 24 8)) 0 (cmdField cmd 0 2) 0 ∧
      t.tableOf (fieldN b 4 2) = some (BitVec.ofNat 64 (fieldN b 8 8), BitVec.ofNat 32 (fieldN b 16 4)) ∧
      ∀ a, a ≠ fieldN b 4 2 → t.tableOf a = s.tableOf a) ∧
  (∀ (q : Nat) (cmd : BitVec 512) (s : State) (c : Ctx), s.mayComplete q → s.alder.cmds = [] → s.alder.ctxs = [c] → c.ctxid = cmdField cmd 4 2 →
    cmdField cmd 2 2 < 2 → cmdField cmd 6 18 = 0 → cmdField cmd 32 32 = 0 → c.pre = none →
    ∃ t p, exec (.preempt q cmd) s = .next t ∧ completes s t q (BitVec.ofNat 64 (cmdField cmd 24 8)) (cmdField cmd 4 2) (cmdField cmd 0 2) 0 ∧
      (t.ctx? c.id).bind (·.pre) = some p ∧ p.reason = 3 ∧ ∀ w, w < 32 → ∃ x, x ∈ t.timed ∧ x.i = .willowStop ∧ x.args = [w, c.id]) ∧
  (∀ (q : Nat) (cmd : BitVec 512) (s : State), s.mayComplete q → s.alder.cmds = [] → cmdField cmd 0 2 = 5 → cmdField cmd 2 2 < 2 →
    cmdField cmd 4 20 = 0 → cmdField cmd 32 32 = 0 →
    ∃ t, exec (.qfence q cmd) s = .next t ∧ completes s t q (BitVec.ofNat 64 (cmdField cmd 24 8)) 0 5 0 ∧ t.alder.cmds = []) ∧
  (∀ (q : Nat) (cmd : BitVec 512) (s : State), cmdField cmd 2 2 < 2 → cmdField cmd 4 4 = 0 → cmdField cmd 10 1 ≤ 2 → cmdField cmd 11 13 = 0 →
    cmdField cmd 48 16 = 0 →
    (cmdField cmd 10 1 = 1 → cmdField cmd 32 8 % 65536 = 0 ∧ cmdField cmd 40 8 % 65536 = 0 ∧ cmdField cmd 40 8 ≠ 0) →
    ∃ t, exec (.tlbinv q cmd) s = .next t ∧ t.groups = s.groups ∧ t.mem = s.mem ∧ ∀ w, w < 32 → ∃ x, x ∈ t.timed ∧ x.i = .willowTinv ∧
      x.args = [w, s.nextId, cmdField cmd 8 2, cmdField cmd 10 1, cmdField cmd 32 8, cmdField cmd 40 8]) ∧
  (∀ (s : State) (q : Nat) (x : HQueue) (e : List Byte) (i : Instr), s.args = [q] → q < 16 → s.queue q = x → x.waiting = [] → x.qctl.getLsbD 8 = true →
    x.room = true → 4 ≤ s.phase.toNat → x.qtail ≠ x.qhead → (x.qtail - x.qhead).toNat ≤ 2 ^ x.size → s.full = true →
    e = s.homeBytes (2 ^ 50 + (x.qbase.extractLsb' 12 40).toNat * 4096 + 64 * (x.qhead.toNat % 2 ^ x.size)) 64 →
    fieldN e 2 2 % 2 = 0 → commandOf q e = some i → s.alder.ctxs.length < 16 → s.phase ≠ 5 → s.openFences = [] →
    ∃ t, exec .queueVisit s = .next t ∧ (t.queue q).qhead = x.qhead + 1 ∧ (∃ y, y ∈ t.timed ∧ y.i = i) ∧
      (∃ y, y ∈ t.timed ∧ y.i = .queueVisit ∧ y.args = [q + 1]) ∧ t.groups = s.groups ∧ t.mem = s.mem)

/-- R61 to R63, R94, R355, R360 to R365, R390 to R392, R395, R455, R462: PLACEMENT_PASS places the one cluster that is left of a context of single
teams, to start 512 cycles later; WILLOW_PLACE empties the core's instruction cache; TEAM_START makes the team and its groups resident;
TIME_SLICE_EXPIRY asks for the pre-emption; WILLOW_STOP stops the grove, ENGINE_STOP_ACK acknowledges once all rest; WILLOW_REPORT notes the
report of a stop, the last of an invalidation completes it; WILLOW_TINV drops what the invalidation covers; PREEMPT_COMPLETION and CONTEXT_COMPLETION free the context and
write status 2 and 0. -/
def Obligations.Scheduling : Prop :=
  (∀ (s : State) (c : Ctx) (o : Nat), s.alder.ctxs = [c] → c.pre = none → c.restore = [] → c.cw = 1 → c.ch = 1 → c.clusters = c.nextCl + 1 →
    s.chooseOrigin 1 1 [c.freshTeam c.nextCl 0 0] = some o →
    ∃ t p, exec .placementPass s = .next t ∧ kget t.alder.placements s.nextId = some p ∧ p.core = o ∧ p.ctx = c.id ∧ p.start = s.ccount + 512 ∧
      p.team.tid = (c.freshTeam c.nextCl 0 0).team.tid ∧ p.grps.length = c.kd 24 2 ∧
      (∀ g, g ∈ p.grps → g.2.spc = BitVec.ofNat 64 (c.kd 8 8) ∧ g.2.s.getD 1 0 = c.args ∧ g.2.allot = 32 ∧ g.2.exec = BitVec.allOnes 96) ∧
      (∃ x, x ∈ t.timed ∧ x.i = .teamStart ∧ x.args = [s.nextId] ∧ x.due = s.ccount + 512) ∧ (t.ctx? c.id).map (·.nextCl) = some (c.nextCl + 1) ∧
      t.groups = s.groups) ∧
  (∀ (s : State) (k : Nat) (p : Placement), s.args = [k] → kget s.alder.placements k = some p → kwf s.alder.placements = true →
    (∃ t, exec .willowPlace s = .next t ∧ (t.core p.core).icache = [] ∧ t.groups = s.groups ∧ t.alder = s.alder ∧ t.mem = s.mem) ∧
    ((p.grps.map (·.1)).Nodup → ((s.ctx? p.team.ctx).bind (·.pre)) = none → ∃ t, exec .teamStart s = .next t ∧
      kget t.alder.placements k = none ∧ t.team? (p.core * 4 + p.sq) = some p.team ∧
      (∀ g, g ∈ p.grps → t.grp? g.1 = some { g.2 with age := s.ccount, preReq := false }) ∧
      (∀ x, (∀ g, g ∈ p.grps → g.1 ≠ x) → t.grp? x = s.grp? x) ∧ t.mem = s.mem)) ∧
  (∀ (s : State) (c : Ctx), s.args = [c.id, c.placedAt] → s.alder.ctxs = [c] → c.pre = none →
    ∃ t p, exec .timeSliceExpiry s = .next t ∧ (t.ctx? c.id).bind (·.pre) = some p ∧ p.reason = 2 ∧ t.groups = s.groups ∧
      ∀ w, w < 32 → ∃ x, x ∈ t.timed ∧ x.i = .willowStop ∧ x.args = [w, c.id]) ∧
  (∀ (s : State) (w g : Nat) (c : Ctx) (p : Preempt) (r : Group), s.args = [w, c.id] → s.alder.ctxs = [c] → c.pre = some p →
    s.groups = [(g, r)] → r.ctx = c.id → willowOf (g / 32) = w →
    (∃ t r' p', exec .willowStop s = .next t ∧ t.grp? g = some r' ∧ r'.preReq = true ∧ (t.ctx? c.id).bind (·.pre) = some p' ∧ w ∈ p'.stopped) ∧
    (w ∈ p.stopped → w ∉ p.acked → s.groveStopped w c.id = true → ∃ t r' p', exec .engineStopAck s = .next t ∧
      (t.ctx? c.id).bind (·.pre) = some p' ∧ w ∈ p'.acked ∧ t.grp? g = some r' ∧ r'.stop ≠ .runs ∧ r'.spc = r.spc ∧ r'.v = r.v ∧
      ∃ x, x ∈ t.timed ∧ x.i = .willowReport w (.stopped c.id))) ∧
  (∀ (s : State) (w : Nat) (c : Ctx) (p : Preempt), s.alder.ctxs = [c] → c.pre = some p → w ∉ p.reports → p.reports.length ≠ 31 →
    ∃ t p', exec (.willowReport w (.stopped c.id)) s = .next t ∧ (t.ctx? c.id).bind (·.pre) = some p' ∧ p'.reports = w :: p.reports ∧
      t.groups = s.groups ∧ t.mem = s.mem) ∧
  (∀ (s : State) (w : Nat) (c : Cmd), s.alder.cmds = [c] → w ∉ c.reports → c.reports.length = 31 → s.walks.any (·.2.stale) = false →
    s.mayComplete c.queue → ∃ t, exec (.willowReport w (.tinv c.id)) s = .next t ∧
      completes s t c.queue c.cookie c.ctxid c.opc 0 ∧ t.alder.cmds = []) ∧
  (∀ (s : State) (w id asn kind va len : Nat), s.args = [w, id, asn, kind, va, len] → w < 32 →
    ∃ t, exec .willowTinv s = .next t ∧ t.groups = s.groups ∧ (∃ x, x ∈ t.timed ∧ x.i = .willowReport w (.tinv id)) ∧
      ∀ k, k < 320 → (t.core k).tlb = if willowOf k = w then (s.core k).tlb.filter (fun e => !tinvHits asn kind va len e.asn e.base e.size)
        else (s.core k).tlb) ∧
  (∀ (s : State) (c : Ctx) (m : Cmd), s.args = [c.id] → s.alder.ctxs = [c] → s.alder.cmds = [m] → m.id = c.id → s.mayComplete m.queue →
    (∀ p, c.pre = some p → p.done = true → p.imgG < s.ptime → c.halted = false → ∃ t, exec .preemptCompletion s = .next t ∧
      t.alder.ctxs = [] ∧ (∀ x, x ∈ t.groups → x.2.ctx ≠ c.id) ∧ (∀ x, x ∈ t.teams → x.2.ctx ≠ c.id) ∧
      completes s t m.queue m.cookie m.ctxid m.opc 2) ∧
    (c.pre = none → c.restore = [] → c.live = [] → c.clusters ≤ c.nextCl → c.gmax < s.ptime → ∃ t, exec .contextCompletion s = .next t ∧
      t.alder.ctxs = [] ∧ t.groups = s.groups ∧ completes s t m.queue m.cookie m.ctxid m.opc 0))

/-- R411, R414, R417, R419, R420, R306, R308: a peer's read is answered with the 64 bytes of the home and a lease that the home records; its
write is accepted and answered with the GWCT, and its unit is owed; its atomic is performed on the latest value, its old value answered and the
word delegated. A response ends the request that it answers: a write's GWCT goes to its part, a read's bytes bind the load. -/
def Obligations.PeerRequests : Prop :=
  (∀ (s : State) (p : Packet), s.fromPeer p → s.meetsRefresh (p.addr.toNat % 2 ^ 42 / 64 * 64) = false → s.homePlain →
    ∃ t r, exec (.peerRead p) s = .next t ∧ responds s t p r (s.leaseEnd (p.addr.toNat % 2 ^ 42 / 256) Config.switchLease) ∧
      r.data = s.homeBytes (p.addr.toNat % 2 ^ 42 / 64 * 64) 64 ∧ t.groups = s.groups ∧
      s.leaseEnd (p.addr.toNat % 2 ^ 42 / 256) Config.switchLease ≤ (t.homeLine (p.addr.toNat % 2 ^ 42 / 256)).lease) ∧
  (∀ (s : State) (p : Packet) (i : Nat), s.fromPeer p → p.kind = 2 → p.addr.toNat % 2 ^ 42 % 64 = 0 → p.data.length = 64 → i < 64 →
    p.ben.getLsbD i = true → s.pinnedCopy (p.addr.toNat % 2 ^ 42 / 256) = false →
    ∃ t r w, exec (.peerWrite p) s = .next t ∧ kget t.writes s.nextId = some w ∧ w.pa = p.addr.toNat % 2 ^ 42 ∧
      w.gwct = s.gwctOf (p.addr.toNat % 2 ^ 42 / 256) ∧ w.data = (List.range 64).map (fun k => if p.ben.getLsbD k then some (p.data.getD k 0) else none) ∧
      responds s t p r w.gwct ∧ t.owed = s.owed ++ [⟨p.src.toNat, p.score.toNat / 80 % 4, 1, s.ccount⟩] ∧ t.mem = s.mem) ∧
  (∀ (s : State) (p : Packet), s.fromPeer p → p.addr.toNat % 2 ^ 42 % 8 = 0 → p.ben.extractLsb' 8 8 = (8 : BitVec 8) → s.pod.hot = [] →
    s.meetsRefresh (p.addr.toNat % 2 ^ 42) = false → s.pinnedCopy (p.addr.toNat % 2 ^ 42 / 256) = false →
    let a := p.addr.toNat % 2 ^ 42
    ∃ t r w, exec (.peerAtomic p) s = .next t ∧ kget t.writes s.nextId = some w ∧ w.pa = a ∧ responds s t p r w.gwct ∧
      (r.ben.extractLsb' 0 64 : BitVec 64) = bytesW 64 (s.latestBytes a 8) ∧
      w.data = (match atomicNew p (s.latestBytes a 8) with | some b => b.map some | none => List.replicate 8 none) ∧
      a ∈ (t.homeLine (a / 256)).deleg ∧ t.mem = s.mem) ∧
  (∀ (s : State) (p : Packet) (d : Nat) (x : PeerReq) (m : MemOp) (q : Part), d < 4 → s.peerReq? p.src.toNat p.eseq.toNat p.addr = some (d, x) →
    s.part? x.op x.part = some (m, q) →
    (x.pkt.kind = 2 → ∃ t, exec (.peerResponse p) s = .next t ∧ (t.part? x.op x.part).map (·.2.gwct) = some (some p.time.toNat) ∧
      (t.die d).reqs = (s.die d).reqs.filter (fun y => y.dst != x.dst || y.eseq != x.eseq) ∧
      (∃ y, y ∈ t.timed ∧ y.i = .storeGwctReturn ∧ y.args = [x.op, x.part]) ∧ t.mem = s.mem) ∧
    (∀ g, x.pkt.kind = 1 → x.part = 0 → m.parts = [q] → m.kind = .load → m.order = .relaxed → m.agent = .scalar g → q.bound = false →
      q.unc = false → p.data.length = 64 → q.pa % 64 + q.len ≤ 64 → (∀ y, y ∈ s.ops → y.1 < s.nextId) → kwf s.ops = true →
      ∃ t m' q', exec (.peerResponse p) s = .next t ∧ t.op? x.op = some m' ∧ m'.parts = [q'] ∧ q'.bound = true ∧
        q'.data = s.forward g x.op m.pos false q.pa (s.overlayMasks m.core q.pa
          (s.unhidden (.scalar g) q.pa ((p.data.drop (q.pa % 64)).take q.len)) (s.skipsMask (.scalar g)))))

/-- R410, R412 to R415, R417, R431, R440, R460: CREDIT_RETURN adds units up to the grant; CREDIT_PACKET_SEND sends the units owed; END_TO_END_RESEND
sends the request again with RESEND, and gives its destination up after 15 resends; FLIT_RECEIVE takes a good flit in sequence, its packet going to
the port's gate, counts a bad CRC and NAKs once; NAK_RECEIVE sends the buffered flits from the
named one on again; LINK_RETRAIN empties the buffers; TIMEX records the
exchange; HOLD_FLIT of a frozen module sends a HOLD; CRCERR_READ clears the count. That retraining brings a link of full service up is the
model's reading (log 36). -/
def Obligations.FabricLinks : Prop :=
  (∀ (s : State) (die dst n : Nat), s.args = [die, dst, n] → die < 4 → dst ∉ (s.die die).salOff → (s.die die).salWait = [] →
    swf (s.die die).sal = true →
    ∃ t, exec .creditReturn s = .next t ∧ (sget (t.die die).sal dst).toNat = min 512 ((sget (s.die die).sal dst).toNat + n) ∧
      (∀ k, k ≠ dst → sget (t.die die).sal k = sget (s.die die).sal k) ∧ t.groups = s.groups ∧ t.mem = s.mem) ∧
  (∀ (s : State) (die dst : Nat) (o : Owed), s.args = [die, dst] → o ∈ s.owed → o.src = dst → o.since + 256 ≤ s.ccount →
    s.portFree (portFor die dst) 1 →
    ∃ t p, exec .creditPacketSend s = .next t ∧ t.owed = s.owed.filter (·.src != dst) ∧ Sent.packet (portFor die dst) p ∈ t.sent ∧ p.kind = 7 ∧
      p.dst = BitVec.ofNat 8 dst ∧ p.src = s.modNum ∧ p.score = 0xFFFF ∧ p.cred = (takeOwed dst s.owed).1 ∧ t.groups = s.groups) ∧
  (∀ (s : State) (die dst : Nat) (x : PeerReq), s.args = [die, dst, x.eseq] → die < 4 → (s.die die).reqs = [x] → x.dst = dst → s.held die dst = false →
    (x.tries < 15 → s.portFree (portFor die dst) (1 + (x.pkt.data.length + 63) / 64) → ∃ t, exec .endToEndResend s = .next t ∧
      Sent.packet (portFor die dst) { x.pkt with resend := true, cred := 0 } ∈ t.sent ∧ (t.die die).reqs = [{ x with tries := x.tries + 1 }] ∧
      (t.die die).salOff = (s.die die).salOff) ∧
    (15 ≤ x.tries → dst < 256 → ∃ t, exec .endToEndResend s = .next t ∧ dst ∈ (t.die die).salOff ∧ t.sent = s.sent ∧
      (t.port (portFor die dst)).unreach = true ∧ (t.port (portFor die dst)).lastd.toNat = dst)) ∧
  (∀ (s : State) (port plane : Nat) (f : Flit) (pl : Plane), port < 16 → plane < 2 → (s.port port).planes.getD plane ⟨0, 0, [], [], false⟩ = pl →
    (flitGood f = true → f.lseq = pl.inSeq → pl.rx = [] → fieldN f.content 6 1 = 0 → (packetOf f.content).crit = false →
      ∃ t, exec (.flitReceive port plane f) s = .next t ∧
        (t.port port).planes.getD plane ⟨0, 0, [], [], false⟩ = { pl with inSeq := pl.inSeq + 1, rx := [], naked := false } ∧
        (∃ y, y ∈ t.timed ∧ y.i = .gateAdmit (1 + port) (.packet (packetOf f.content))) ∧ t.sent = s.sent) ∧
    (flitGood f = false → pl.naked = false → ∃ t, exec (.flitReceive port plane f) s = .next t ∧
      (t.port port).crcerr.toNat = min 0xFFFFFFFF ((s.port port).crcerr.toNat + 1) ∧ t.sent = s.sent ++ [.nak port plane pl.inSeq] ∧
      (t.port port).planes.getD plane ⟨0, 0, [], [], false⟩ = { pl with naked := true } ∧ t.timed = s.timed) ∧
    (∀ l : BitVec 12, let again := pl.buf.dropWhile (·.lseq != l)
      (again = [] → exec (.nakReceive port plane l) s = .next s) ∧
      (again ≠ [] → ∃ t, exec (.nakReceive port plane l) s = .next t ∧ t = { s with ports := t.ports, sent := t.sent } ∧
        t.sent = s.sent ++ again.map (fun f => .flit port plane f) ∧
        (t.port port).planes.getD plane ⟨0, 0, [], [], false⟩ = { pl with buf := again })) ∧
    (∀ a b c d : W64, ∃ t, exec (.timex port a b c d) s = .next t ∧ (t.port port).timex = some (a, b, c, d, s.ptime) ∧ t = { s with ports := t.ports }) ∧
    (s.args = [port] → (s.frozen = true → ∃ t, exec .holdFlit s = .next t ∧ t = { s with sent := s.sent ++ [.hold port] }) ∧
      (∃ t, exec .crcerrRead s = .next t ∧ t = { s with ports := t.ports } ∧ (t.port port).crcerr = 0) ∧
      (∃ t, exec .linkRetrain s = .next t ∧ t = { s with ports := t.ports } ∧ (t.port port).up = s.full ∧ (t.port port).pl0 = s.full ∧
        (t.port port).pl1 = s.full ∧ ((t.port port).planes.getD plane ⟨0, 0, [], [], false⟩).buf = [] ∧
        ((t.port port).planes.getD plane ⟨0, 0, [], [], false⟩).rx = [])))

/-- R401 to R404, R318, R329, R443, R458, R484: BAR2_READ of backed bytes within a sector is completed with the bytes of the home, of unbacked space
with Unsupported Request, of a frozen package from DRAM in completions of up to 512 bytes; BAR2_WRITE is accepted at the home with its enabled bytes, and discarded for unbacked space and by
a frozen package; BAR2_ATOMICOP performs FetchAdd, Swap or CAS on the latest value and completes with the old one; ZERO_LENGTH_WRITE changes
nothing; HOST_READ_COMPLETION of the last bytes binds a load, HOST_ATOMIC_COMPLETION brings the old value; FLOW_CONTROL_UPDATE holds the limit,
CONFIG_REQUEST is answered, PCIE_LINK_TRAINING sets what is in force; each SPDM request is answered, GET_MEASUREMENTS with a measurement register.
The completion statuses and SPDM codes are the model's (logs 16 and 20). -/
def Obligations.HostLink : Prop :=
  (∀ (s : State) (tag a n : Nat), s.args = [tag, a, n] → s.transmits 0 →
    (s.backed a = false → isRegBlock a = false →
      ∃ t, exec .bar2Read s = .next t ∧ Sent.completion tag cplUR [] ∈ t.sent ∧ t.mem = s.mem ∧ t.slices = s.slices) ∧
    (s.backed a = true → s.backed (a + n - 1) = true →
      (s.frozen = true → ∃ t, exec .bar2Read s = .next t ∧ t.slices = s.slices ∧ t.mem = s.mem ∧
        ∀ i, i < max 1 ((n + 511) / 512) →
          Sent.completion tag cplOk ((((List.range n).map fun i => s.dram (a + i)).drop (512 * i)).take 512) ∈ t.sent) ∧
      (s.frozen = false → 0 < n → a % 64 + n ≤ 64 → s.meetsRefresh (a / 64 * 64) = false → s.homePlain →
        ∃ t, exec .bar2Read s = .next t ∧ Sent.completion tag cplOk (s.homeBytes a n) ∈ t.sent ∧ t.groups = s.groups ∧ t.writes = s.writes))) ∧
  (∀ (s : State) (a : Nat) (data : List Byte) (ben : List Bool),
    (s.frozen = true ∨ (s.backed a = false ∧ isRegBlock a = false) → ∃ t, exec (.bar2Write a data ben) s = .next t ∧ t = s) ∧
    (∀ k, s.frozen = false → s.backed a = true → s.backed (a + data.length - 1) = true → s.pinnedCopy (a / 256) = false → a % 64 + data.length ≤ 64 →
      k < data.length → ben.getD k false = true → ∃ t w, exec (.bar2Write a data ben) s = .next t ∧ kget t.writes s.nextId = some w ∧
        w.pa = a / 64 * 64 ∧ w.gwct = s.gwctOf (a / 256) ∧ w.add = none ∧
        w.data = List.replicate (a % 64) none ++ data.mapIdx (fun i b => if ben.getD i false then some b else none) ∧ t.mem = s.mem)) ∧
  (∀ (s : State) (tag a : Nat) (op : PcieAtomic) (wide : Bool) (x y : W64), s.transmits 0 →
    let n := if wide then 8 else 4
    let o : W64 := bytesW 64 (s.latestBytes a n)
    (a % n ≠ 0 ∨ s.backed a = false → ∃ t, exec (.bar2Atomicop tag a op wide x y) s = .next t ∧ Sent.completion tag cplUR [] ∈ t.sent ∧
      t.writes = s.writes ∧ t.mem = s.mem) ∧
    (a % n = 0 → s.backed a = true → s.meetsRefresh a = false → s.pinnedCopy (a / 256) = false →
      ∃ t w, exec (.bar2Atomicop tag a op wide x y) s = .next t ∧ Sent.completion tag cplOk (s.latestBytes a n) ∈ t.sent ∧ t.mem = s.mem ∧
        kget t.writes s.nextId = some w ∧ w.pa = a ∧ w.gwct = s.gwctOf (a / 256) ∧
        w.data = (match op with
          | .fetchAdd => (wBytes n (o + x)).map some
          | .swap => (wBytes n x).map some
          | .cas => if o.toNat = x.toNat % 256 ^ n then (wBytes n y).map some else List.replicate n none))) ∧
  (∀ s : State, ∃ t, exec .zeroLengthWrite s = .next t ∧ t = s) ∧
  (∀ (s : State) (tag : Nat) (q : HostReq) (m : MemOp) (p : Part) (g : Nat) (data : List Byte), kget s.pendingHost tag = some q →
    kwf s.pendingHost = true → s.part? q.op q.part = some (m, p) →
    (q.part = 0 → q.got = [] → q.len = p.len → p.unc = true → m.kind = .load → m.order = .relaxed → m.parts = [p] → p.bound = false →
      m.agent = .scalar g → data.length = p.len → p.pa % 64 + p.len ≤ 64 → ∃ t m' p', exec (.hostReadCompletion tag 0 data) s = .next t ∧
        kget t.pendingHost tag = none ∧ t.op? q.op = some m' ∧ m'.parts = [p'] ∧ p'.bound = true ∧
        p'.data = s.forward g q.op m.pos false p.pa (s.overlayMasks m.core p.pa (s.unhidden (.scalar g) p.pa data) (s.skipsMask (.scalar g))) ∧
        t.mem = s.mem) ∧
    (∀ old : W64, ∃ t, exec (.hostAtomicCompletion tag old) s = .next t ∧ kget t.pendingHost tag = none ∧
      (t.part? q.op q.part).map (fun x => (x.2.data, x.2.bound)) = some (wBytes m.asize old, true) ∧
      (∃ y, y ∈ t.timed ∧ y.i = .atomicReply ∧ y.args = [q.op, q.part]) ∧ t.mem = s.mem)) ∧
  (∀ (s : State) (k v : Nat), s.args = [k, v] →
    ∃ t, exec .flowControlUpdate s = .next t ∧ t = { s with fcLimits := t.fcLimits } ∧ kget t.fcLimits k = some v) ∧
  (∀ (s : State) (write : Bool) (off : Nat) (data : BitVec 32), ∃ t v, exec (.configRequest write off data) s = .next t ∧
    t.sent = s.sent ++ [.config off v] ∧ (write = true → v = data) ∧ t.groups = s.groups ∧ t.mem = s.mem) ∧
  (∀ (s : State) (width rate : Nat) (atomics : Bool), ∃ t, exec (.pcieLinkTraining width rate atomics) s = .next t ∧
    t = { s with linkWidth := width, linkRate := rate, hostAtomics := atomics }) ∧
  (∀ (s : State) (slot : Nat) (nonce : BitVec 256) (code : Byte),
    (∃ t, exec .getVersion s = .next t ∧ t = { s with sent := s.sent ++ [.spdm 0x04 [0x00, 0x13]] }) ∧
    (∃ t bs, exec .getCapabilities s = .next t ∧ t = { s with sent := s.sent ++ [.spdm 0x61 bs] }) ∧
    (∃ t, exec .negotiateAlgorithms s = .next t ∧ t = { s with sent := s.sent ++ [.spdm 0x63 [0x40, 0, 0, 0, 0x04, 0, 0, 0]] }) ∧
    (∃ t bs, exec .getDigests s = .next t ∧ t = { s with sent := s.sent ++ [.spdm 0x01 bs] }) ∧
    (∃ t bs, exec .getCertificate s = .next t ∧ t = { s with sent := s.sent ++ [.spdm 0x02 bs] } ∧ bs.length = s.a2) ∧
    (∃ t bs, exec (.challenge slot nonce) s = .next t ∧ t = { s with sent := s.sent ++ [.spdm 0x03 bs] } ∧ bs.length = 512) ∧
    (∃ t, exec (.spdmUnsupported code) s = .next t ∧ t = { s with sent := s.sent ++ [.spdm 0x7F [0x07, code]] })) ∧
  (∀ (s : State) (n : Nat), s.args = [n] → 1 ≤ n → n ≤ 4 →
    ∃ t, exec .getMeasurements s = .next t ∧ t = { s with sent := s.sent ++ [.spdm 0x60 (wBytes 64 (s.mr.getD (n - 1) 0)).reverse] })

/-- R433 to R438, R428, R484: an arrival at a gate that writes records and has room is recorded and takes effect 8 cycles later; with a full
ring it waits outside in strict mode and is counted lost in lossy mode; a gate that is off admits it, one in replay discards it. GATE_LOSS_RECORD
writes a LOSS record. ARRIVAL_CROSSING gives what has crossed its effect. REPLAY_INJECT injects the record whose stamp has come, waits for one
whose stamp has not, and freezes the package where the record is not the expected one. -/
def Obligations.Gates : Prop :=
  (∀ (s : State) (g : Nat) (x : Arrival), 0 < g → g < 18 → (∀ c, x ≠ .stepEvent c) → (∀ a b, x ≠ .credit a b) →
    ((s.gateAt g).on = true → (s.gateAt g).mode ≠ .replay → (s.gateAt g).isFull = false → (s.gateAt g).headDelay = false →
      (s.gateAt g).waiting = [] → (s.gateAt g).lost = 0 →
      ∃ t, exec (.gateAdmit g x) s = .next t ∧ records s t g (recordKind x) ∧ t.waits (if g = 17 then 0 else 8) (.arrivalCrossing g x) [] ∧
        t.groups = s.groups ∧ t.mem = s.mem) ∧
    ((s.gateAt g).on = true → (s.gateAt g).isFull = true →
      ((s.gateAt g).mode = .strict → ∃ t, exec (.gateAdmit g x) s = .next t ∧ t = { s with gates := t.gates } ∧
        t.gateAt g = { s.gateAt g with waiting := (s.gateAt g).waiting ++ [x] }) ∧
      ((s.gateAt g).mode = .lossy → ∃ t, exec (.gateAdmit g x) s = .next t ∧ t.sent = s.sent ∧ (t.gateAt g).lost = (s.gateAt g).lost + 1 ∧
        (t.gateAt g).lossBit = true ∧ t.waits (if g = 17 then 0 else 8) (.arrivalCrossing g x) [])) ∧
    ((s.gateAt g).on = false → ∃ t, exec (.gateAdmit g x) s = .next t ∧ t.gates = s.gates ∧ t.sent = s.sent ∧
      t.waits (if g = 17 then 0 else 8) (.arrivalCrossing g x) []) ∧
    ((s.gateAt g).on = true → (s.gateAt g).mode = .replay → (∀ a b c d, x ≠ .barRead a b c d) → (∀ a b c d e f, x ≠ .barAtomic a b c d e f) →
      ∃ t, exec (.gateAdmit g x) s = .next t ∧ t = s)) ∧
  (∀ (s : State) (g : Nat), s.args = [g] → g < 18 → (s.gateAt g).on = true → (s.gateAt g).mode = .lossy → (s.gateAt g).lost ≠ 0 →
    (s.gateAt g).isFull = false → ∃ t, exec .gateLossRecord s = .next t ∧ records s t g 10 ∧ (t.gateAt g).lost = 0 ∧ t.groups = s.groups) ∧
  (∀ (s : State) (g : Nat) (a b c d : W64) (k v : Nat) (p : Packet) (xs : List W32),
    (∃ t, exec (.arrivalCrossing g (.timex a b c d)) s = .next t ∧ t.waits 0 (.timex (g - 1) a b c d) []) ∧
    (∃ t, exec (.arrivalCrossing g (.credit k v)) s = .next t ∧ t.waits 0 .flowControlUpdate [k + 256 * g, v]) ∧
    (∃ t, exec (.arrivalCrossing g (.samples xs)) s = .next t ∧ t.waits 0 (.samplePoint xs) []) ∧
    (∃ t, exec (.arrivalCrossing g (.wcorr a b)) s = .next t ∧ t.waits 0 (.wcorrApply a b) []) ∧
    (0 < g → g < 17 → ∃ t, exec (.arrivalCrossing g (.hold k)) s = .next t ∧ kget (t.port (g - 1)).holds k = some s.ptime) ∧
    (p.dst ≠ s.modNum → ∃ t, exec (.arrivalCrossing g (.packet p)) s = .next t ∧ t = s) ∧
    (p.dst = s.modNum → p.kind = 6 → p.cred = 0 → ∃ t, exec (.arrivalCrossing g (.packet p)) s = .next t ∧ t.waits 0 (.peerResponse p) [])) ∧
  (∀ (s : State) (g tag off n : Nat) (data : List Byte) (a : W64), (s.transmits 0 → crcerrOf off n = none →
      ∃ t, exec (.arrivalCrossing g (.barRead 0 tag off n)) s = .next t ∧ Sent.completion tag cplOk (s.regRead off n) ∈ t.sent ∧ t.timed = s.timed) ∧
    (∃ t y, exec (.arrivalCrossing g (.barRead 2 tag off n)) s = .next t ∧ y ∈ t.timed ∧ y.i = .bar2Read ∧ y.args = [tag, off, n]) ∧
    (∃ t y, exec (.arrivalCrossing g (.readCpl tag off data)) s = .next t ∧ y ∈ t.timed ∧ y.i = .hostReadCompletion tag off data) ∧
    (∃ t y, exec (.arrivalCrossing g (.atomicCpl tag a)) s = .next t ∧ y ∈ t.timed ∧ y.i = .hostAtomicCompletion tag a)) ∧
  (∀ (s : State) (g stamp kind len code : Nat) (seq : BitVec 32) (body : List Byte), s.args = [g] → g < 18 → (s.gateAt g).on = true →
    (s.gateAt g).mode = .replay → s.slotRecord ((s.gateAt g).slot (s.gateAt g).gtail.toNat) = (stamp, kind, len, seq, code, body) →
    (s.gateAt g).gtail ≠ (s.gateAt g).grlim →
    (seq ≠ (s.gateAt g).gtail ∨ kind = 10 ∨ stamp < s.ptime → ∃ t, exec .replayInject s = .next t ∧ t.frozen = true ∧ t.fcause.getLsbD 5 = true ∧
      (t.gateAt g).diverge = true ∧ t.groups = s.groups) ∧
    (seq = (s.gateAt g).gtail → kind ≠ 10 →
      (s.ptime < stamp → ∃ t, exec .replayInject s = .next t ∧ t = s) ∧
      (∀ x, stamp = s.ptime → kind ≠ 8 → arrivalOf kind body = some x → (∀ a b c, x ≠ .wakeEntry a b c) → ∃ t, exec .replayInject s = .next t ∧
        (t.gateAt g).gtail = (s.gateAt g).gtail + 1 ∧ t.waits (if g = 17 then 0 else 8) (.arrivalCrossing g x) [] ∧ t.waits 0 .replayInject [g] ∧
        t.frozen = s.frozen) ∧
      (stamp = s.ptime → kind = 8 → code = s.step.toNat → ∃ t, exec .replayInject s = .next t ∧ (t.gateAt g).gtail = (s.gateAt g).gtail + 1 ∧
        t.frozen = s.frozen) ∧
      (stamp = s.ptime → kind = 8 → code ≠ s.step.toNat → ∃ t, exec .replayInject s = .next t ∧ t.frozen = true ∧ (t.gateAt g).diverge = true)))

/-- R13, R351, R405, R406, R408, R409, R426, R435, R436, R439, R448, R449, R459, R461, R464, R466, R482: WAKE and a doorbell while gated enter the latch
and start the wake; WAKE_COMPLETE ends the gating, LATCHED_WRITE_APPLY applies one write, GATE_CLOSE gates an idle device. QTAIL, CQHEAD, FQHEAD,
GHEAD, TRRHEAD, STEPREQ, STOPAT and MBOXIN hold what is written, within their rules; another register takes its writable bits. -/
def Obligations.RegistersAndLatch : Prop :=
  (∀ (s : State) (data : W64) (ben : BitVec 8),
    (s.gated = true → s.wakeAt = none → ∃ t, exec (.wake data ben) s = .next t ∧ t.latch = s.latch ++ [⟨0, data, ben, s.ptime⟩] ∧
      t.wakeAt = some (s.ccount + 65536) ∧ t.waits 65536 .wakeComplete [] ∧ t.groups = s.groups) ∧
    (s.gated = false → ∃ t, exec (.wake data ben) s = .next t ∧ t = { s with alder := t.alder } ∧
      t.alder = { s.alder with idle := if 16777215 ≤ s.alder.idle then 0 else s.alder.idle })) ∧
  (∀ (s : State) (q : Nat) (v : W32), q < 16 →
    (s.gated = true → ∃ t, exec (.qtailDoorbell q v) s = .next t ∧
      t.latch = s.latch ++ [⟨0x1010 + 0x40 * q, v.setWidth 64, 0x0F, s.ptime⟩] ∧ t.queues = s.queues ∧ t.wakeAt.isSome = true) ∧
    (s.gated = false → ∃ t, exec (.qtailDoorbell q v) s = .next t ∧ t = { s with queues := t.queues } ∧ t.queue q = { s.queue q with qtail := v } ∧
      ∀ k, k ≠ q → t.queue k = s.queue k) ∧
    ((s.queue q).waiting = [] → s.alder.cmds = [] → ∃ t, exec (.cqheadWrite q v) s = .next t ∧ t = { s with queues := t.queues } ∧
      t.queue q = { s.queue q with cqhead := v }) ∧
    (∀ c, (s.queue q).waiting = [c] → s.alder.cmds = [] → ({ s.queue q with cqhead := v }).room = true → (s.queue q).qctl.getLsbD 9 = false →
      s.transmits 0 → ∃ t, exec (.cqheadWrite q v) s = .next t ∧
        t.queue q = { s.queue q with cqhead := v, cqtail := (s.queue q).cqtail + 1, waiting := [] } ∧
        Sent.hostWrite (((s.queue q).cqbase.extractLsb' 12 40).toNat * 4096 + 32 * ((s.queue q).cqtail.toNat % 2 ^ (s.queue q).size))
          (c.bytes s.ptime) ∈ t.sent)) ∧
  (∀ s : State, ∃ t, exec .wakeComplete s = .next t ∧ t.gated = false ∧ t.wakeAt = none ∧ t.waits 0 .latchedWriteApply [] ∧ t.latch = s.latch) ∧
  (∀ (s : State) (e : LatchE) (r : List LatchE), s.latch = e :: r → ∃ t, exec .latchedWriteApply s = .next t ∧ t.latch = r ∧
    (∃ y, y ∈ t.timed ∧ y.due = s.ccount ∧ y.i = regEvent s e.off e.data e.ben) ∧ t.waits 1 .latchedWriteApply []) ∧
  (∀ s : State, s.alder.gateen = true → 16777216 ≤ s.alder.idle → s.alder.ctxs = [] → (∀ q, q < 16 → (s.queue q).qtail = (s.queue q).qhead) →
    s.wakeAt = none → ∃ t, exec .gateClose s = .next t ∧ t = { s with gated := true }) ∧
  (∀ (s : State) (d : Nat) (v : W32), d < 4 →
    (∃ t, exec (.fqheadWrite d v) s = .next t ∧ t = { s with dies := t.dies } ∧
      ((s.die d).fqtail.toNat < 2 ^ 31 → v.toNat ≤ (s.die d).fqtail.toNat → (t.die d).fqhead = v) ∧
      ((s.die d).fqtail.toNat < v.toNat → v.toNat ≤ (s.die d).fqtail.toNat + 2 ^ 31 → (t.die d).fqhead = (s.die d).fqtail)) ∧
    (∃ t, exec (.trrheadWrite d v) s = .next t ∧ t = { s with dies := t.dies } ∧ t.die d = { s.die d with trhead := v })) ∧
  (∀ (s : State) (g : Nat) (v : W32), g < 18 → ∃ t, exec (.gheadWrite g v) s = .next t ∧ t = { s with gates := t.gates } ∧ (t.gateAt g).ghead = v ∧
    (t.gateAt g).gtail = (s.gateAt g).gtail) ∧
  (∀ (s : State) (v : BitVec 2), ∃ t, exec (.stepreqWrite v) s = .next t ∧
    t = { s with stepReq := v, reqAt := some s.ptime, alder := { s.alder with fastest := v } }) ∧
  (∀ (s : State) (v : W64), ∃ t, exec (.stopatdWrite v) s = .next t ∧ t.stopat = v.toNat ∧ t.stopHit = false ∧ t.groups = s.groups ∧ t.mem = s.mem) ∧
  (∀ (s : State) (v : W64), ∃ t, exec (.mboxinWrite v) s = .next t ∧ t.mboxin = v ∧ t.alder.gateen = v.getLsbD 0 ∧
    (s.phase = 5 → t.alder.pendThot = if (Config.mailbox v).1 = 1 ∧ 480 ≤ (Config.mailbox v).2 ∧ (Config.mailbox v).2 ≤ 840
      then some (Config.mailbox v).2 else s.alder.pendThot) ∧
    (s.phase ≠ 5 → t = { s with mboxin := v, alder := { s.alder with gateen := v.getLsbD 0 } })) ∧
  (∀ (s : State) (v : W64) (n : Nat),
    (n < 16 → ∃ t, exec (.registerWrite (0x1000 + 0x40 * n) v 0xFF) s = .next t ∧ t = { s with queues := t.queues } ∧
      t.queue n = { s.queue n with qbase := v &&& 0x000FFFFFFFFFF000 }) ∧
    (n < 4 → ∃ t, exec (.registerWrite (0x100008 + 0x10000 * n) v 0xFF) s = .next t ∧ t = { s with dies := t.dies } ∧
      t.die n = { s.die n with fqctl := v &&& 0x31F }) ∧
    (n < 18 → ∃ t, exec (.registerWrite (0x200008 + 0x100 * n) v 0xFF) s = .next t ∧ t = { s with gates := t.gates } ∧
      t.gateAt n = { s.gateAt n with gctl := v &&& 0x17F }) ∧
    (n < 4 → ∃ t, exec (.registerWrite (0x205000 + 0x100 * n) v 0xFF) s = .next t ∧ t = { s with dies := t.dies } ∧
      t.die n = { s.die n with trbase := v &&& 0x000FFFFFFFFFFF00 }) ∧
    (v.getLsbD 1 = false → v.getLsbD 2 = false → v.getLsbD 3 = false → v.getLsbD 4 = false →
      ∃ t, exec (.registerWrite 0x204028 v 0xFF) s = .next t ∧ t = { s with attach := v.getLsbD 0 }) ∧
    (∃ t, exec (.registerWrite 0x400000 v 0xFF) s = .next t ∧ t = s))

/-- R341, R342, R366, R367, R426, R427, R430, R463 to R467: SAMPLE_POINT gives each core its thermal state, requests the slower step under heat, the faster one
after 4 quiet points, S when the step is faster; it sets the leave rate by the budget, and a trip halts every context. WILLOW_LRATE sets the rate
of the grove's cores. STEP_BOUNDARY takes a due step and logs it. DROOP_STRETCH counts a stretch, WCORR_APPLY corrects wall time, which does not fall.
DRAM_REFRESH occupies a channel, REFRESH_END frees it; SOFT_ERROR counts or poisons. -/
def Obligations.PowerClocksAndErrors : Prop :=
  (∀ (s : State) (xs : List W32),
    (∀ k x, xs[k]? = some x → ∃ t, exec (.samplePoint xs) s = .next t ∧ ((t.core k).hi, (t.core k).lo, (t.core k).hot) =
      thermal (s.alder.pendThot.getD s.alder.thot) (s.alder.pendDhot.getD s.alder.dhot) (s.core k).hi (s.core k).lo (s.core k).hot x) ∧
    (∀ x, x ∈ xs → warm (s.alder.pendTstep.getD s.alder.tstep) x → (∀ y, y ∈ xs → y.getLsbD 31 = true ∧ ¬ warm 880 y) → s.alder.trips = [] →
      s.alder.fastest.toNat ≤ s.step.toNat → s.step.toNat < 3 → ∃ t, exec (.samplePoint xs) s = .next t ∧ t.stepReq = s.step + 1 ∧
        t.reqAt = some s.ptime ∧ t.alder.good = 0 ∧ t.alder.ctxs = s.alder.ctxs) ∧
    (s.cores = [] → s.alder.trips = [] → (∀ y, y ∈ xs → y.getLsbD 31 = true ∧ ¬ warm 880 y ∧ ¬ warm (s.alder.pendTstep.getD s.alder.tstep) y) →
      (s.step.toNat < s.alder.fastest.toNat → ∃ t, exec (.samplePoint xs) s = .next t ∧ t.stepReq = s.alder.fastest ∧ t.reqAt = some s.ptime) ∧
      (3 ≤ s.alder.good → s.alder.fastest.toNat < s.step.toNat → ∃ t, exec (.samplePoint xs) s = .next t ∧ t.stepReq = s.step - 1 ∧
        t.reqAt = some s.ptime) ∧
      (s.alder.good < 3 → s.alder.fastest.toNat ≤ s.step.toNat → ∃ t, exec (.samplePoint xs) s = .next t ∧ t.stepReq = s.stepReq ∧
        t.reqAt = s.reqAt ∧ t.alder.good = s.alder.good + 1)) ∧
    (∃ t, exec (.samplePoint xs) s = .next t ∧ t.alder.e = 0 ∧ t.mem = s.mem ∧ t.groups = s.groups ∧
      (s.alder.pendEbud.getD s.alder.ebud < s.alder.e → t.alder.lrate = max 1 (s.alder.lrate - 1) ∧
        ∀ w, w < 32 → ∃ y, y ∈ t.timed ∧ y.i = .willowLrate ∧ y.args = [w, max 1 (s.alder.lrate - 1)]) ∧
      (s.alder.e * 4 < s.alder.pendEbud.getD s.alder.ebud * 3 → t.alder.lrate = min 4 (s.alder.lrate + 1) ∧
        ∀ w, w < 32 → ∃ y, y ∈ t.timed ∧ y.i = .willowLrate ∧ y.args = [w, min 4 (s.alder.lrate + 1)])) ∧
    ((∃ x, x ∈ xs ∧ warm 880 x) ∨ (∃ k x, xs[k]? = some x ∧ x.getLsbD 31 = false ∧ kget s.alder.trips k = some 1) →
      ∃ t, exec (.samplePoint xs) s = .next t ∧ (∀ c, c ∈ t.alder.ctxs → c.halted = true) ∧ t.stepReq = 3 ∧ t.reqAt = some s.ptime ∧
        t.alder.fastest = 3)) ∧
  (∀ (s : State) (w n : Nat), s.args = [w, n] → ∃ t, exec .willowLrate s = .next t ∧ t.groups = s.groups ∧ t.alder = s.alder ∧
    ∀ k, k < 320 → t.core k = if willowOf k = w then { s.core k with lrateNext := some n } else s.core k) ∧
  (∀ (s : State) (a : Nat), s.reqAt = some a →
    (s.ptime % 24000 = 0 → a + 48000 ≤ s.ptime → s.reduced = false → ∃ t, exec .stepBoundary s = .next t ∧ t.step = s.stepReq ∧ t.reqAt = none ∧
      (s.stepReq ≠ s.step → t.waits 0 (.gateAdmit 17 (.stepEvent s.stepReq)) []) ∧ t.ptime = s.ptime ∧ t.groups = s.groups) ∧
    (s.ptime % 24000 ≠ 0 ∨ s.ptime < a + 48000 → ∃ t, exec .stepBoundary s = .next t ∧ t = s)) ∧
  (∀ (s : State) (d n : Nat), s.args = [d, n] →
    (s.ccount < s.stretchHold → ∃ t, exec .droopStretch s = .next t ∧ t = s) ∧
    (s.stretchHold ≤ s.ccount → ∃ t, exec .droopStretch s = .next t ∧ t = { s with strcnt := s.strcnt + 1, stretchHold := s.ccount + min n 3 + 64 })) ∧
  (∀ (s : State) (w q : W64), ∃ t, exec (.wcorrApply w q) s = .next t ∧ t.wtime = max s.wtime w.toNat ∧ t.pbase = s.ptime ∧
    0x0AAAAAAA - 2 ^ 20 ≤ t.rate ∧ t.rate ≤ 0x0AAAAAAA + 2 ^ 20 ∧ (0x0AAAAAAA - 2 ^ 20 ≤ q.toNat → q.toNat ≤ 0x0AAAAAAA + 2 ^ 20 → t.rate = q.toNat) ∧
    t.ptime = s.ptime ∧ t.groups = s.groups) ∧
  (∀ (s : State) (d c : Nat) (lp : Bool), d < 4 →
    (∃ t, exec (.dramRefresh d c lp) s = .next t ∧ (c, lp) ∈ (t.die d).refresh ∧ t.mem = s.mem ∧
      (∀ x, x ∈ (s.die d).refresh → x ∈ (t.die d).refresh) ∧
      t.waits (s.cyclesTo (s.ptime + (if lp then 56 else 28) * 120)) (.refreshEnd d c lp) []) ∧
    (∃ t, exec (.refreshEnd d c lp) s = .next t ∧ t = { s with dies := t.dies } ∧
      (t.die d).refresh = (s.die d).refresh.filter (fun x => x != (c, lp)))) ∧
  (∀ (s : State) (arr : ErrArray) (a core q : Nat) (m : Team),
    (∃ t, exec (.softError arr a true) s = .next t ∧ t = { s with softErrs := s.softErrs + 1 }) ∧
    (∃ t, exec (.softError .dram a false) s = .next t ∧ t = { s with poison := a / 8 * 8 :: s.poison }) ∧
    (s.team? q = some m → m.core = core → m.spBase ≤ a → a < m.spBase + m.spSize → ∃ t, exec (.softError (.scratchpad core) a false) s = .next t ∧
      t.team? q = some { m with poison := (a - m.spBase) / 8 * 8 :: m.poison } ∧ t = { s with teams := t.teams }))

/-- R424, R439 to R442, R456, R457, R459, R460, R485: BOOT_IMAGE_VERIFY extends the measurement register of an image that passes, and reports one that
does not; RESET begins bring-up; BRINGUP_PHASE goes from phase to phase, zeroing LPDDR and bonded DRAM and setting the allowance, or reports a failure;
FULL_SERVICE_ENTRY; RSTREQ_RST resets the domain and keeps what R485 names. STOPAT_REACHED and DBGCTL_FREEZE freeze the package, RESUME, DUMP and RESTORE act
on a frozen one, PEAT_IMAGE_COMPLETE keeps the domain's state. -/
def Obligations.BootAndFreeze : Prop :=
  (∀ (s : State) (image : List Byte) (k : Nat), s.phase = 1 → s.bootErr = 0 → s.bootNext = k + 1 → k < 4 →
    (image.length < 2048 → ∃ t, exec (.bootImageVerify image) s = .next t ∧ t = { s with bootErr := 3 }) ∧
    (s.imageErr image ≠ 0 → ∃ t, exec (.bootImageVerify image) s = .next t ∧ t = { s with bootErr := BitVec.ofNat 8 (s.imageErr image) }) ∧
    (s.imageErr image = 0 → ∃ t, exec (.bootImageVerify image) s = .next t ∧ t.bootErr = 0 ∧ t.bootNext = k + 2 ∧ t.phase = 1 ∧
      t.mr = s.mr.setIfInBounds k (BitVec.ofNat 512 (beNat (sha512 (beBytes 64 (s.mr.getD k 0).toNat ++ sha512 image)))) ∧
      (k = 3 → ∃ y, y ∈ t.timed ∧ y.i = .bringupPhase))) ∧
  (∀ s : State, ∃ t, exec .reset s = .next t ∧ t.phase = 1 ∧ t.bootNext = 1 ∧ t.bootErr = 0 ∧ t.ccount = 0 ∧ t.ptime = 0 ∧ t.groups = [] ∧ t.teams = [] ∧
    t.frozen = false ∧ t.full = false ∧ t.mem = [] ∧ t.flash = s.flash ∧ t.hostMem = s.hostMem ∧ t.sent = s.sent) ∧
  (∀ (s : State) (e d : Nat), s.args = [e, d] →
    (e ≠ 0 → ∃ t, exec .bringupPhase s = .next t ∧ t = { s with bootErr := BitVec.ofNat 8 e, errDie := BitVec.ofNat 4 d }) ∧
    (e = 0 → s.phase = 1 ∨ s.phase = 2 → ∃ t, exec .bringupPhase s = .next t ∧ t.phase = s.phase + 1 ∧ (∃ y, y ∈ t.timed ∧ y.i = .bringupPhase) ∧
      t.mem = s.mem) ∧
    (e = 0 → s.phase = 3 → swf (w := 8) s.mem = true → ∃ t, exec .bringupPhase s = .next t ∧ t.phase = 4 ∧ t.reduced = true ∧
      (∃ y, y ∈ t.timed ∧ y.i = .bringupPhase) ∧ ∀ a, t.dram a = if isLpddr a then 0 else s.dram a) ∧
    (e = 0 → s.phase = 4 → ∃ t, exec .bringupPhase s = .next t ∧ t.phase = 5 ∧ t.reduced = s.reduced ∧ (∃ y, y ∈ t.timed ∧ y.i = .bringupPhase) ∧
      ∀ i d, i < 4 → d < 256 → (sget (t.die i).sal d).toNat =
        if d < (s.salcfg.extractLsb' 8 9).toNat ∧ d ≠ s.modNum.toNat then 512 else 0) ∧
    (e = 0 → s.phase = 5 → swf (w := 8) s.mem = true → ∃ t, exec .bringupPhase s = .next t ∧ t.phase = 5 ∧
      ∀ a, t.dram a = if isBonded a then 0 else s.dram a)) ∧
  (∀ s : State, s.phase = 5 → s.alder.ctxs = [] →
    ∃ t, exec .fullServiceEntry s = .next t ∧ t = { s with phase := 6, reduced := false, full := true }) ∧
  (∀ s : State, ∃ t, exec .rstreqRst s = .next t ∧ t.phase = 1 ∧ t.bootErr = 0 ∧ t.ccount = 0 ∧ t.ptime = 0 ∧ t.stopat = 0 ∧ t.groups = [] ∧ t.teams = [] ∧
    t.modNum = s.modNum ∧ t.mem = s.mem ∧ t.attach = s.attach ∧ t.ibps = s.ibps ∧ t.strcnt = s.strcnt ∧ t.fcause = s.fcause ∧ t.latch = s.latch ∧
    (∀ i, i < 4 → (t.die i).trctl = 0) ∧
    ∀ g, g < 18 → (t.gateAt g).ghead = 0 ∧ (t.gateAt g).gtail = 0 ∧ (t.gateAt g).gbase = (s.gateAt g).gbase ∧ (t.gateAt g).gctl = (s.gateAt g).gctl ∧
      (t.gateAt g).grlim = (s.gateAt g).grlim) ∧
  (∀ s : State,
    (∃ t, exec .stopatReached s = .next t ∧ t.frozen = true ∧ t.fcause.getLsbD 0 = true ∧ t.stopHit = true ∧ t.groups = s.groups ∧ t.mem = s.mem) ∧
    (∃ t, exec .dbgctlFreeze s = .next t ∧ t.frozen = true ∧ t.fcause.getLsbD 4 = true ∧ t.toDomain = s.toDomain ∧ t.mem = s.mem) ∧
    (s.frozen = false → (∃ t, exec .dbgctlResume s = .next t ∧ t = s) ∧ (∃ t, exec .dbgctlDump s = .next t ∧ t = s) ∧
      (∃ t, exec .dbgctlRestore s = .next t ∧ t = s)) ∧
    (s.frozen = true → s.scanning = false → (∃ t, exec .dbgctlResume s = .next t ∧ t = { s with frozen := false }) ∧
      (∃ t, exec .dbgctlDump s = .next t ∧ t = { s with scanning := true }) ∧
      (∀ p, s.peat = some p → ∃ t, exec .dbgctlRestore s = .next t ∧ t = { s with toDomain := { p.dom with ports := s.ports } })) ∧
    (s.frozen = true → s.scanning = true → ∃ t p, exec .peatImageComplete s = .next t ∧ t.peat = some p ∧ p.dom = s.toDomain ∧ p.ptime = s.ptime ∧
      p.ccount = s.ccount ∧ p.fcause = s.fcause ∧ t.dumped = true ∧ t.scanning = false ∧ t.toDomain = s.toDomain))

/-- R449 to R453, R482: TRACE_INTERVAL selects the one group of a core that a comparator matches and writes a SYNC, and none where tracing is off or no
group is there; TRACE_RESYNC of a core with no group selected writes LOSS and SYNC once 64 bytes are free; TRACE_BLOCK_WRITE moves up to 252 bytes into
a ring in host memory; STALL_SAMPLE writes a packet for each stream of the sampled group: reason 0 for one that issues in the cycle, the reason of its
parking for one that is parked. The groups and the module's memory do not change. -/
def Obligations.TraceUnit : Prop :=
  ∀ (s : State) (core : Nat), s.args = [core] →
    let tr := (s.core core).trace
    ((s.trDie core).traceOn = false → ∃ t, exec .traceInterval s = .next t ∧ t = { s with cores := t.cores } ∧ (t.core core).trace = { tr with sel := none }) ∧
    ((s.trDie core).traceOn = true →
      (∀ g r, s.groups = [(core * 32 + g, r)] → g < 32 → s.selects (s.trDie core) r = true → tr.dropping = false →
        ∃ t, exec .traceInterval s = .next t ∧ t = { s with cores := t.cores } ∧ (t.core core).trace = { tr with
          sel := some g, now := tr.now ++ [(1, natBytes 8 s.ptime ++ natBytes 2 core ++ natBytes 1 g ++ wBytes 8 r.lpc ++ wBytes 12 r.exec ++
            natBytes 1 r.rs.length)] }) ∧
      (s.groups = [] → tr.dropping = true → ∃ t, exec .traceInterval s = .next t ∧ (t.core core).trace = { tr with sel := none }) ∧
      (tr.dropping = true → tr.buf.length + 64 ≤ 2048 → tr.sel = none → ∃ t, exec .traceResync s = .next t ∧ t = { s with cores := t.cores } ∧
        (t.core core).trace = { tr with dropping := false, dropP := 0, dropB := 0, now := tr.now ++
          [(11, natBytes 4 tr.dropP ++ natBytes 4 tr.dropB), (1, natBytes 8 s.ptime ++ natBytes 2 core ++ [0xFF])] }) ∧
      (s.grp? (core * 32 + tr.samples % 32) = none → ∃ t, exec .stallSample s = .next t ∧
        (t.core core).trace = { tr with samples := tr.samples + 1 } ∧ t = { s with cores := t.cores }) ∧
      (∀ r, s.grp? (core * 32 + tr.samples % 32) = some r →
        let n := tr.samples % 32
        ∃ t a b x y, exec .stallSample s = .next t ∧ t = { s with cores := t.cores } ∧ (t.core core).trace = { tr with
          samples := tr.samples + 1
          now := tr.now ++ [(10, natBytes 1 n ++ [0] ++ natBytes 1 a ++ wBytes 8 r.spc ++ wBytes 8 (x : W64)),
            (10, natBytes 1 n ++ [1] ++ natBytes 1 b ++ wBytes 8 r.lpc ++ wBytes 8 (y : W64))] } ∧
          (Item.scalar (core * 32 + n) ∈ s.agenda → a = 0 ∧ x = 0) ∧ (Item.lane (core * 32 + n) ∈ s.agenda → b = 0 ∧ y = 0) ∧
          (∀ p, r.parked = some p → (Item.lane (core * 32 + n) ∉ s.agenda → b = p.reason ∧ y = 0) ∧
            (Item.scalar (core * 32 + n) ∉ s.agenda → r.scalarParked = true → a = p.reason ∧ x = 0)))) ∧
    (tr.dropping = false ∨ 2048 < tr.buf.length + 64 → ∃ t, exec .traceResync s = .next t ∧ t = s) ∧
    (tr.blockDue s.ccount = false ∨ (s.trDie core).ringRoom = false → ∃ t, exec .traceBlockWrite s = .next t ∧ t = s) ∧
    (∀ a, tr.blockDue s.ccount = true → (s.trDie core).ringRoom = true → dieOf core < 4 → s.transmits 0 →
      a = ((s.trDie core).trbase.extractLsb' 8 44).toNat * 256 +
        (s.trDie core).trtail.toNat % (2 ^ ((s.trDie core).trctl.extractLsb' 0 5).toNat * 256) → paClass a = 1 →
      ∃ t, exec .traceBlockWrite s = .next t ∧ (s.trDie core).trtail + 256 = (t.trDie core).trtail ∧ (t.core core).trace.buf = tr.buf.drop 252 ∧
        t.groups = s.groups ∧ t.mem = s.mem ∧ Sent.hostWrite (paLow a) (natBytes 2 core ++ natBytes 2 (min 252 tr.buf.length) ++ tr.buf.take 252 ++
          List.replicate (252 - tr.buf.length) 0) ∈ t.sent)

/-- R19, R66, R67, R76, R88 to R90, R97, R389: a step runs the decoded instruction. With no event due and a unit at the head of the cycle's agenda that
may issue, whose program counter is canonical and aligned and whose words stand in the instruction cache and decode to i, with no breakpoint
at it (or one gone through, whose mark the issue takes away), the step is the meaning of i in that state; the step around it has taken the unit from the
agenda and the translation has marked the pages used. An event that is due and may run before the agenda's head runs first. A trap that was
recognised in the cycle is taken when its place in the agenda comes. -/
def Obligations.StepRunsDecoded : Prop :=
  (∀ (s s' t : State) (st : StreamId) (core ctx lease : Nat) (pc : W64) (w : W32) (ws : List W32) (i : Instr) (x : Item) (r : List Item),
    (∀ e, e ∈ s.timed → s.ccount < e.due) → s.agenda = x :: r →
    ((∃ g, x = .scalar g ∧ s' = { s with agenda := r, args := [], cur := .scalar g }) ∨
      (∃ g, x = .lane g ∧ s' = { s with agenda := r, args := [], cur := .lane g }) ∨
      (∃ q, x = .seq q ∧ s' = { s with agenda := r, args := [], cur := .seq q })) →
    s'.mayIssue s'.cur = true → s'.unitPc = some (st, core, ctx, lease, pc) → canonical pc = true →
    pc.toNat % (if st = .team then 8 else 4) = 0 → s'.codeWords core ctx pc (w :: ws) t → wordsFrom st w = ws.length + 1 →
    decodeIn st (w :: ws) = .ok i →
    (t.bpSkip.contains t.cur = false → t.breakAt i = none → step s = exec i t) ∧
    (t.bpSkip.contains t.cur = true → isBreak i = true → step s = exec i t) ∧
    (t.bpSkip.contains t.cur = true → isBreak i = false → ∀ u, exec i t = .next u →
      step s = exec i (if u.cur = .none then { t with bpSkip := t.bpSkip.erase t.cur } else t))) ∧
  (∀ (s : State) (e : Timed) (r : List Timed), s.timed = e :: r → e.due ≤ s.ccount → s.gated = false →
    (eventBound s.agenda).all (fun b => decide (e.rank < b)) = true → step s = exec e.i { s with timed := r, args := e.args, cur := eventCur e.i e.args }) ∧
  (∀ (s : State) (i : Instr) (args : List Nat) (r : List Item), (∀ e, e ∈ s.timed → s.ccount < e.due) → s.agenda = .run i args :: r →
    step s = exec i { s with agenda := r, args := args, cur := .none }) ∧
  (∀ (s : State) (g : Nat) (x : TrapRec) (r : List Item), (∀ e, e ∈ s.timed → s.ccount < e.due) → s.agenda = .trap g x :: r →
    step s = .next ({ s with agenda := r, cur := .none }.takeTrap g x))

/-- R67, R73, R74, R76, R79 to R89: words that the spec writes out decode to the instructions it gives them for. -/
def Obligations.SpecWordsDecode : Prop :=
  decodeScalar 0x4229A2B3 = .ok (.slui 5 0x1A2B3) ∧
  decodeScalar 0x3428B89A = .ok (.sori 5 5 0x189A) ∧
  decodeScalar 0x44280012 = .ok (.slxi 5 0x12) ∧
  decodeScalar 0xFC4945A0 = .ok (.fsdep 9 10 11) ∧
  decodeScalar 0x90000FC0 = .ok (.swaitc 0 0 7 7) ∧
  decodeLane [0xF3900000, 0xA040B000, 0x8280A401, 0] = .ok (.vfadd ⟨.f32, 40, 41, .snap 1, true, some 3, false, 2, none⟩) ∧
  decodeLane [0xA0C4701A, 0x80A01001, 0] = .ok (.vatom ⟨.n32, 10, 4, .snap 1, false, none, false, 0, none⟩ .add .w .relaxed .dev 0) ∧
  decodeLane [0xA1090000, 0x00008400, 0x00004020] = .ok (.regrp 33 32 16) ∧
  decodeTeam 0x01110C8100000000 = .ok (.mma 2 4 6 8 1)

/-- R67 to R75: every word that the encoder gives for a scalar instruction or an XCMD decodes to that instruction, with every operand at every
value. DELETE and READ_COUNTERS of FCFG are spelled by the one word that decodes to the first row of FCFG (log 8). -/
def Obligations.ScalarRoundTrip : Prop :=
  ∀ i : Instr, i.wf = true → (encode i).length = 1 → (∀ d a b, i ≠ .fcfgDelete d a b) → (∀ d a b, i ≠ .fcfgReadCounters d a b) →
    decodeIn .scalar (encode i) = .ok i

/-- R76 to R87: the words that the encoder gives for a well-formed lane instruction decode to it, with every field at every value its
row of R84 admits, with and without a prefix; their number is the length that the first word says. -/
def Obligations.LaneRoundTrip : Prop :=
  ∀ i : Instr, i.wf = true → 2 < (encode i).length →
    decodeIn .lane (encode i) = .ok i ∧ 4 * (encode i).length = laneLen ((encode i).headD 0) ∧
    wordsFrom .lane ((encode i).headD 0) = (encode i).length

/-- R88, R89, R265: the two words that the encoder gives for a well-formed team instruction decode to it, with every field at every value. -/
def Obligations.TeamRoundTrip : Prop :=
  ∀ i : Instr, i.wf = true → (encode i).length = 2 → decodeIn .team (encode i) = .ok i

/-- R95: no step of this model ends in a fault or a refusal: every instruction, event and host operation answers a next state in every
state, an instruction that the spec refuses by taking its trap. -/
def Obligations.EveryStepAnswers : Prop :=
  (∀ (i : Instr) (s : State), ∃ t, exec i s = .next t) ∧ ∀ s : State, ∃ t, step s = .next t

/-- The module's memory stays in its canonical form (log 1): from every state in which addresses strictly rise and no listed byte is what an
unlisted one reads as, every step leads to such a state. -/
def Obligations.StepKeepsMemoryCanonical : Prop :=
  ∀ s t : State, s.memOk → step s = .next t → t.memOk

/-- R338, R367, R416, R423, R425, R430, R435, R439, R457, R463, R465, R466: what reset leaves: no group and no team, CCOUNT, PTIME and STOPAT 0, wall time
from 0 at its nominal rate, empty caches, no allowance, every core cool with a full leave balance at rate 4, the firmware's default values,
queues and gates disabled, measurement registers 0; and a memory in its canonical form. -/
def Obligations.ResetState : Prop :=
  State.reset.memOk ∧ State.reset.mem = [] ∧ State.reset.groups = [] ∧ State.reset.teams = [] ∧ State.reset.ccount = 0 ∧ State.reset.ptime = 0 ∧
  State.reset.stopat = 0 ∧ State.reset.pbase = 0 ∧ State.reset.wbase = 0 ∧ State.reset.rate = 0x0AAAAAAA ∧ State.reset.frozen = false ∧
  State.reset.alder.ctxs = [] ∧ State.reset.alder.thot = 8 * 95 ∧ State.reset.alder.dhot = 60 ∧ State.reset.alder.tstep = 8 * 100 ∧
  State.reset.alder.ebud = 2 ^ 31 ∧ State.reset.alder.lrate = 4 ∧
  (∀ c, (State.reset.core c).hot = false ∧ (State.reset.core c).bal = 65536 ∧ (State.reset.core c).l1 = [] ∧ (State.reset.core c).icache = []) ∧
  (∀ d k, d < 4 → sget (State.reset.die d).sal k = 0 ∧ (State.reset.die d).fqctl = 0 ∧ (State.reset.die d).trctl = 0) ∧
  (∀ q, q < 16 → (State.reset.queue q).qctl = 0 ∧ (State.reset.queue q).qtail = 0 ∧ (State.reset.queue q).qhead = 0) ∧
  (∀ g, g < 18 → (State.reset.gateAt g).gctl = 0 ∧ (State.reset.gateAt g).gtail = 0 ∧ (State.reset.gateAt g).outcnt = 0) ∧
  (∀ k, k < 4 → State.reset.mr.getD k 1 = 0)
end

