-- ==== Sys2Proof/Laws/Maps.lean ====
section
/-! SUPPORT. Laws of the sparse maps: a read after a write, and that every operation keeps the canonical form. -/
namespace Sys2Proof.Machine

variable {α : Type}

@[simp] theorem kget_kset_same (m : KMap α) (x : Nat) (a : α) : kget (kset m x a) x = some a := by
  induction m with
  | nil => simp [kset, kget]
  | cons p r ih =>
    obtain ⟨k, v⟩ := p
    unfold kset
    split
    · simp [kget]
    · split
      · simp [kget]
      · simp_all [kget]

@[simp] theorem kget_kset_ne (m : KMap α) {x y : Nat} (a : α) (h : y ≠ x) : kget (kset m x a) y = kget m y := by
  induction m with
  | nil => simp [kset, kget, Ne.symm h]
  | cons p r ih =>
    obtain ⟨k, v⟩ := p
    unfold kset
    split
    · next e => subst e; simp [kget, Ne.symm h]
    · split
      · simp only [kget]
        rw [if_neg (Ne.symm h)]
        by_cases hy : y < x
        · rw [if_pos hy, if_neg (by omega), if_pos (by omega)]
        · rw [if_neg hy]
      · simp only [kget, ih]

@[simp] theorem kget_kmod_same (m : KMap α) (x : Nat) (f : α → α) : kget (kmod m x f) x = (kget m x).map f := by
  induction m with
  | nil => simp [kmod, kget]
  | cons p r ih =>
    obtain ⟨k, v⟩ := p
    simp only [kmod, List.map_cons] at ih ⊢
    by_cases h : k = x
    · simp [kget, h]
    · simp only [h, if_false, kget]
      split
      · rfl
      · exact ih

@[simp] theorem kget_kmod_ne (m : KMap α) {x y : Nat} (f : α → α) (h : y ≠ x) : kget (kmod m x f) y = kget m y := by
  induction m with
  | nil => simp [kmod, kget]
  | cons p r ih =>
    obtain ⟨k, v⟩ := p
    simp only [kmod, List.map_cons] at ih ⊢
    by_cases hk : k = x
    · subst hk
      simp only [kget, if_true, Ne.symm h, if_false, ih]
    · simp only [kget, hk, if_false, ih]

/-! ## The canonical form -/

theorem risesFrom_weaken {m : KMap α} {b : Option Nat} (h : risesFrom b m = true) : risesFrom none m = true := by
  cases m with
  | nil => rfl
  | cons p r => obtain ⟨k, v⟩ := p; simp_all [risesFrom]

theorem risesFrom_kdel {m : KMap α} {b : Option Nat} (x : Nat) (h : risesFrom b m = true) : risesFrom b (kdel m x) = true := by
  induction m generalizing b with
  | nil => rfl
  | cons p r ih =>
    obtain ⟨k, v⟩ := p
    simp only [risesFrom, Bool.and_eq_true] at h
    unfold kdel
    split
    · cases r with
      | nil => rfl
      | cons q t =>
        obtain ⟨k2, v2⟩ := q
        obtain ⟨h1, h2⟩ := h
        simp only [risesFrom, Bool.and_eq_true, decide_eq_true_eq] at h2 ⊢
        refine ⟨?_, h2.2⟩
        cases b with
        | none => rfl
        | some y => simp only [decide_eq_true_eq] at h1 ⊢; omega
    · split
      · simp [risesFrom, h]
      · simp [risesFrom, h.1, ih h.2]

theorem risesFrom_kset {m : KMap α} {b : Option Nat} {x : Nat} (a : α) (h : risesFrom b m = true)
    (hb : ∀ y, b = some y → y < x) : risesFrom b (kset m x a) = true := by
  induction m generalizing b with
  | nil =>
    cases b with
    | none => rfl
    | some y => simp [kset, risesFrom, hb y rfl]
  | cons p r ih =>
    obtain ⟨k, v⟩ := p
    simp only [risesFrom, Bool.and_eq_true] at h
    unfold kset
    split
    · next e => subst e; simp [risesFrom, h]
    · split
      · next hlt =>
        simp only [risesFrom, Bool.and_eq_true]
        refine ⟨?_, by simpa using hlt, h.2⟩
        cases b with
        | none => rfl
        | some y => simpa using hb y rfl
      · simp only [risesFrom, Bool.and_eq_true]
        exact ⟨h.1, ih h.2 (by intro y hy; cases hy; omega)⟩

theorem mem_kdel {m : KMap α} {x : Nat} {p : Nat × α} (h : p ∈ kdel m x) : p ∈ m := by
  induction m with
  | nil => simp [kdel] at h
  | cons q r ih =>
    obtain ⟨k, v⟩ := q
    unfold kdel at h
    split at h
    · exact List.mem_cons_of_mem _ h
    · split at h
      · exact h
      · rcases List.mem_cons.1 h with h | h
        · simp [h]
        · exact List.mem_cons_of_mem _ (ih h)

theorem mem_kset {m : KMap α} {x : Nat} {a : α} {p : Nat × α} (h : p ∈ kset m x a) : p = (x, a) ∨ p ∈ m := by
  induction m with
  | nil => simpa [kset] using h
  | cons q r ih =>
    obtain ⟨k, v⟩ := q
    unfold kset at h
    split at h
    · rcases List.mem_cons.1 h with h | h
      · exact .inl h
      · exact .inr (List.mem_cons_of_mem _ h)
    · split at h
      · rcases List.mem_cons.1 h with h | h
        · exact .inl h
        · exact .inr h
      · rcases List.mem_cons.1 h with h | h
        · exact .inr (by simp [h])
        · rcases ih h with h | h
          · exact .inl h
          · exact .inr (List.mem_cons_of_mem _ h)

/-- A write of one word keeps the canonical form. -/
theorem swf_sset {w : Nat} {m : SMap w} (x : Nat) (v : BitVec w) (h : swf m = true) : swf (sset m x v) = true := by
  simp only [swf, Bool.and_eq_true, List.all_eq_true] at h ⊢
  unfold sset
  split
  · exact ⟨risesFrom_kdel x h.1, fun p hp => h.2 p (mem_kdel hp)⟩
  · next hv =>
    refine ⟨risesFrom_kset v h.1 (by simp), fun p hp => ?_⟩
    rcases mem_kset hp with e | hp
    · subst e; simpa using hv
    · exact h.2 p hp

/-- A write of words at consecutive keys keeps the canonical form. -/
theorem swf_ssetL {w : Nat} (l : List (BitVec w)) : ∀ {m : SMap w} (x : Nat), swf m = true → swf (ssetL m x l) = true := by
  induction l with
  | nil => intro m x h; exact h
  | cons v r ih => intro m x h; exact ih (x + 1) (swf_sset x v h)

/-- Removing the words at some keys keeps the canonical form. -/
theorem risesFrom_filter {m : KMap α} (q : Nat × α → Bool) {b : Option Nat} (h : risesFrom b m = true) :
    risesFrom b (m.filter q) = true := by
  induction m generalizing b with
  | nil => rfl
  | cons p r ih =>
    obtain ⟨k, v⟩ := p
    simp only [risesFrom, Bool.and_eq_true] at h
    by_cases hq : q (k, v) = true
    · rw [List.filter_cons_of_pos hq]
      simp only [risesFrom, Bool.and_eq_true]
      exact ⟨h.1, ih h.2⟩
    · rw [List.filter_cons_of_neg hq]
      refine ih ?_
      cases r with
      | nil => rfl
      | cons c t =>
        obtain ⟨k2, v2⟩ := c
        obtain ⟨h1, h2⟩ := h
        simp only [risesFrom, Bool.and_eq_true, decide_eq_true_eq] at h2 ⊢
        refine ⟨?_, h2.2⟩
        cases b with
        | none => rfl
        | some y => simp only [decide_eq_true_eq] at h1 ⊢; omega

theorem swf_filter {w : Nat} {m : SMap w} (q : Nat × BitVec w → Bool) (h : swf m = true) : swf (m.filter q) = true := by
  simp only [swf, Bool.and_eq_true, List.all_eq_true] at h ⊢
  exact ⟨risesFrom_filter q h.1, fun p hp => h.2 p (List.mem_filter.1 hp).1⟩

/-! ## A read after a write -/

theorem kget_kdel_same {m : KMap α} {b : Option Nat} (x : Nat) (h : risesFrom b m = true) : kget (kdel m x) x = none := by
  induction m generalizing b with
  | nil => rfl
  | cons p r ih =>
    obtain ⟨k, v⟩ := p
    simp only [risesFrom, Bool.and_eq_true] at h
    unfold kdel
    split
    · next e =>
      subst e
      cases r with
      | nil => rfl
      | cons q t =>
        obtain ⟨k2, v2⟩ := q
        have h2 := h.2
        simp only [risesFrom, Bool.and_eq_true, decide_eq_true_eq] at h2
        simp only [kget]
        rw [if_neg (by omega), if_pos h2.1]
    · next hne =>
      split
      · next hlt => simp [kget, hne, hlt]
      · simp only [kget, hne, if_false]
        split
        · rfl
        · exact ih h.2

theorem kget_lt {m : KMap α} {b x : Nat} (h : risesFrom (some b) m = true) (hx : x ≤ b) : kget m x = none := by
  cases m with
  | nil => rfl
  | cons p r =>
    obtain ⟨k, v⟩ := p
    simp only [risesFrom, Bool.and_eq_true, decide_eq_true_eq] at h
    simp only [kget]
    rw [if_neg (by omega), if_pos (by omega)]

theorem kget_kdel_ne {m : KMap α} {b : Option Nat} {x y : Nat} (hm : risesFrom b m = true) (h : y ≠ x) :
    kget (kdel m x) y = kget m y := by
  induction m generalizing b with
  | nil => rfl
  | cons p r ih =>
    obtain ⟨k, v⟩ := p
    simp only [risesFrom, Bool.and_eq_true] at hm
    unfold kdel
    split
    · next e =>
      subst e
      simp only [kget]
      rw [if_neg (Ne.symm h)]
      split
      · next hlt => exact kget_lt hm.2 (by omega)
      · rfl
    · split
      · rfl
      · simp only [kget, ih hm.2]

/-- A read of a word after a write of it. -/
theorem sget_sset_same {w : Nat} {m : SMap w} (x : Nat) (v : BitVec w) (h : swf m = true) : sget (sset m x v) x = v := by
  simp only [swf, Bool.and_eq_true] at h
  unfold sget sset
  split
  · next e => simp [kget_kdel_same x h.1, e]
  · simp

/-- A write of a word leaves every other word alone. -/
theorem sget_sset_ne {w : Nat} {m : SMap w} {x y : Nat} (v : BitVec w) (h : swf m = true) (hne : y ≠ x) :
    sget (sset m x v) y = sget m y := by
  simp only [swf, Bool.and_eq_true] at h
  unfold sget sset
  split
  · rw [kget_kdel_ne h.1 hne]
  · rw [kget_kset_ne m v hne]

end Sys2Proof.Machine
end

