-- ==== Sys2Proof/Laws/State.lean ====
section
/-! SUPPORT. What the named updates of the state leave alone: one lemma for each field and each update, true by unfolding the record, so that no
later proof unfolds one; and what the fields they change become. -/
namespace Sys2Proof.Machine

/-! ## setGrp -/

@[simp] theorem State.setGrp_ccount (s : State) (g : Nat) (r : Group) : (s.setGrp g r).ccount = s.ccount := rfl
@[simp] theorem State.setGrp_ptime (s : State) (g : Nat) (r : Group) : (s.setGrp g r).ptime = s.ptime := rfl
@[simp] theorem State.setGrp_step (s : State) (g : Nat) (r : Group) : (s.setGrp g r).step = s.step := rfl
@[simp] theorem State.setGrp_stepReq (s : State) (g : Nat) (r : Group) : (s.setGrp g r).stepReq = s.stepReq := rfl
@[simp] theorem State.setGrp_reqAt (s : State) (g : Nat) (r : Group) : (s.setGrp g r).reqAt = s.reqAt := rfl
@[simp] theorem State.setGrp_pbase (s : State) (g : Nat) (r : Group) : (s.setGrp g r).pbase = s.pbase := rfl
@[simp] theorem State.setGrp_wbase (s : State) (g : Nat) (r : Group) : (s.setGrp g r).wbase = s.wbase := rfl
@[simp] theorem State.setGrp_rate (s : State) (g : Nat) (r : Group) : (s.setGrp g r).rate = s.rate := rfl
@[simp] theorem State.setGrp_stopat (s : State) (g : Nat) (r : Group) : (s.setGrp g r).stopat = s.stopat := rfl
@[simp] theorem State.setGrp_stopHit (s : State) (g : Nat) (r : Group) : (s.setGrp g r).stopHit = s.stopHit := rfl
@[simp] theorem State.setGrp_stopFrom (s : State) (g : Nat) (r : Group) : (s.setGrp g r).stopFrom = s.stopFrom := rfl
@[simp] theorem State.setGrp_prevPtime (s : State) (g : Nat) (r : Group) : (s.setGrp g r).prevPtime = s.prevPtime := rfl
@[simp] theorem State.setGrp_stretchHold (s : State) (g : Nat) (r : Group) : (s.setGrp g r).stretchHold = s.stretchHold := rfl
@[simp] theorem State.setGrp_teams (s : State) (g : Nat) (r : Group) : (s.setGrp g r).teams = s.teams := rfl
@[simp] theorem State.setGrp_cores (s : State) (g : Nat) (r : Group) : (s.setGrp g r).cores = s.cores := rfl
@[simp] theorem State.setGrp_dies (s : State) (g : Nat) (r : Group) : (s.setGrp g r).dies = s.dies := rfl
@[simp] theorem State.setGrp_slices (s : State) (g : Nat) (r : Group) : (s.setGrp g r).slices = s.slices := rfl
@[simp] theorem State.setGrp_ops (s : State) (g : Nat) (r : Group) : (s.setGrp g r).ops = s.ops := rfl
@[simp] theorem State.setGrp_writes (s : State) (g : Nat) (r : Group) : (s.setGrp g r).writes = s.writes := rfl
@[simp] theorem State.setGrp_lines (s : State) (g : Nat) (r : Group) : (s.setGrp g r).lines = s.lines := rfl
@[simp] theorem State.setGrp_walks (s : State) (g : Nat) (r : Group) : (s.setGrp g r).walks = s.walks := rfl
@[simp] theorem State.setGrp_walkFaults (s : State) (g : Nat) (r : Group) : (s.setGrp g r).walkFaults = s.walkFaults := rfl
@[simp] theorem State.setGrp_fenReqs (s : State) (g : Nat) (r : Group) : (s.setGrp g r).fenReqs = s.fenReqs := rfl
@[simp] theorem State.setGrp_fenOps (s : State) (g : Nat) (r : Group) : (s.setGrp g r).fenOps = s.fenOps := rfl
@[simp] theorem State.setGrp_pkts (s : State) (g : Nat) (r : Group) : (s.setGrp g r).pkts = s.pkts := rfl
@[simp] theorem State.setGrp_barMsgs (s : State) (g : Nat) (r : Group) : (s.setGrp g r).barMsgs = s.barMsgs := rfl
@[simp] theorem State.setGrp_queues (s : State) (g : Nat) (r : Group) : (s.setGrp g r).queues = s.queues := rfl
@[simp] theorem State.setGrp_alder (s : State) (g : Nat) (r : Group) : (s.setGrp g r).alder = s.alder := rfl
@[simp] theorem State.setGrp_pod (s : State) (g : Nat) (r : Group) : (s.setGrp g r).pod = s.pod := rfl
@[simp] theorem State.setGrp_pendingHost (s : State) (g : Nat) (r : Group) : (s.setGrp g r).pendingHost = s.pendingHost := rfl
@[simp] theorem State.setGrp_posted (s : State) (g : Nat) (r : Group) : (s.setGrp g r).posted = s.posted := rfl
@[simp] theorem State.setGrp_owed (s : State) (g : Nat) (r : Group) : (s.setGrp g r).owed = s.owed := rfl
@[simp] theorem State.setGrp_ports (s : State) (g : Nat) (r : Group) : (s.setGrp g r).ports = s.ports := rfl
@[simp] theorem State.setGrp_full (s : State) (g : Nat) (r : Group) : (s.setGrp g r).full = s.full := rfl
@[simp] theorem State.setGrp_reduced (s : State) (g : Nat) (r : Group) : (s.setGrp g r).reduced = s.reduced := rfl
@[simp] theorem State.setGrp_salcfg (s : State) (g : Nat) (r : Group) : (s.setGrp g r).salcfg = s.salcfg := rfl
@[simp] theorem State.setGrp_modNum (s : State) (g : Nat) (r : Group) : (s.setGrp g r).modNum = s.modNum := rfl
@[simp] theorem State.setGrp_cur (s : State) (g : Nat) (r : Group) : (s.setGrp g r).cur = s.cur := rfl
@[simp] theorem State.setGrp_args (s : State) (g : Nat) (r : Group) : (s.setGrp g r).args = s.args := rfl
@[simp] theorem State.setGrp_agenda (s : State) (g : Nat) (r : Group) : (s.setGrp g r).agenda = s.agenda := rfl
@[simp] theorem State.setGrp_timed (s : State) (g : Nat) (r : Group) : (s.setGrp g r).timed = s.timed := rfl
@[simp] theorem State.setGrp_nextId (s : State) (g : Nat) (r : Group) : (s.setGrp g r).nextId = s.nextId := rfl
@[simp] theorem State.setGrp_draws (s : State) (g : Nat) (r : Group) : (s.setGrp g r).draws = s.draws := rfl
@[simp] theorem State.setGrp_mem (s : State) (g : Nat) (r : Group) : (s.setGrp g r).mem = s.mem := rfl
@[simp] theorem State.setGrp_poison (s : State) (g : Nat) (r : Group) : (s.setGrp g r).poison = s.poison := rfl
@[simp] theorem State.setGrp_hostMem (s : State) (g : Nat) (r : Group) : (s.setGrp g r).hostMem = s.hostMem := rfl
@[simp] theorem State.setGrp_frozen (s : State) (g : Nat) (r : Group) : (s.setGrp g r).frozen = s.frozen := rfl
@[simp] theorem State.setGrp_attach (s : State) (g : Nat) (r : Group) : (s.setGrp g r).attach = s.attach := rfl
@[simp] theorem State.setGrp_fcause (s : State) (g : Nat) (r : Group) : (s.setGrp g r).fcause = s.fcause := rfl
@[simp] theorem State.setGrp_dumped (s : State) (g : Nat) (r : Group) : (s.setGrp g r).dumped = s.dumped := rfl
@[simp] theorem State.setGrp_scanning (s : State) (g : Nat) (r : Group) : (s.setGrp g r).scanning = s.scanning := rfl
@[simp] theorem State.setGrp_freport (s : State) (g : Nat) (r : Group) : (s.setGrp g r).freport = s.freport := rfl
@[simp] theorem State.setGrp_bpSkip (s : State) (g : Nat) (r : Group) : (s.setGrp g r).bpSkip = s.bpSkip := rfl
@[simp] theorem State.setGrp_ibps (s : State) (g : Nat) (r : Group) : (s.setGrp g r).ibps = s.ibps := rfl
@[simp] theorem State.setGrp_strcnt (s : State) (g : Nat) (r : Group) : (s.setGrp g r).strcnt = s.strcnt := rfl
@[simp] theorem State.setGrp_peatbase (s : State) (g : Nat) (r : Group) : (s.setGrp g r).peatbase = s.peatbase := rfl
@[simp] theorem State.setGrp_peatsize (s : State) (g : Nat) (r : Group) : (s.setGrp g r).peatsize = s.peatsize := rfl
@[simp] theorem State.setGrp_peat (s : State) (g : Nat) (r : Group) : (s.setGrp g r).peat = s.peat := rfl
@[simp] theorem State.setGrp_gates (s : State) (g : Nat) (r : Group) : (s.setGrp g r).gates = s.gates := rfl
@[simp] theorem State.setGrp_latch (s : State) (g : Nat) (r : Group) : (s.setGrp g r).latch = s.latch := rfl
@[simp] theorem State.setGrp_gated (s : State) (g : Nat) (r : Group) : (s.setGrp g r).gated = s.gated := rfl
@[simp] theorem State.setGrp_wakeAt (s : State) (g : Nat) (r : Group) : (s.setGrp g r).wakeAt = s.wakeAt := rfl
@[simp] theorem State.setGrp_flash (s : State) (g : Nat) (r : Group) : (s.setGrp g r).flash = s.flash := rfl
@[simp] theorem State.setGrp_phase (s : State) (g : Nat) (r : Group) : (s.setGrp g r).phase = s.phase := rfl
@[simp] theorem State.setGrp_bootErr (s : State) (g : Nat) (r : Group) : (s.setGrp g r).bootErr = s.bootErr := rfl
@[simp] theorem State.setGrp_errDie (s : State) (g : Nat) (r : Group) : (s.setGrp g r).errDie = s.errDie := rfl
@[simp] theorem State.setGrp_bootNext (s : State) (g : Nat) (r : Group) : (s.setGrp g r).bootNext = s.bootNext := rfl
@[simp] theorem State.setGrp_mboxin (s : State) (g : Nat) (r : Group) : (s.setGrp g r).mboxin = s.mboxin := rfl
@[simp] theorem State.setGrp_mboxout (s : State) (g : Nat) (r : Group) : (s.setGrp g r).mboxout = s.mboxout := rfl
@[simp] theorem State.setGrp_mr (s : State) (g : Nat) (r : Group) : (s.setGrp g r).mr = s.mr := rfl
@[simp] theorem State.setGrp_alderKey (s : State) (g : Nat) (r : Group) : (s.setGrp g r).alderKey = s.alderKey := rfl
@[simp] theorem State.setGrp_softErrs (s : State) (g : Nat) (r : Group) : (s.setGrp g r).softErrs = s.softErrs := rfl
@[simp] theorem State.setGrp_linkWidth (s : State) (g : Nat) (r : Group) : (s.setGrp g r).linkWidth = s.linkWidth := rfl
@[simp] theorem State.setGrp_linkRate (s : State) (g : Nat) (r : Group) : (s.setGrp g r).linkRate = s.linkRate := rfl
@[simp] theorem State.setGrp_hostAtomics (s : State) (g : Nat) (r : Group) : (s.setGrp g r).hostAtomics = s.hostAtomics := rfl
@[simp] theorem State.setGrp_fcLimits (s : State) (g : Nat) (r : Group) : (s.setGrp g r).fcLimits = s.fcLimits := rfl
@[simp] theorem State.setGrp_sent (s : State) (g : Nat) (r : Group) : (s.setGrp g r).sent = s.sent := rfl
@[simp] theorem State.setGrp_inbox (s : State) (g : Nat) (r : Group) : (s.setGrp g r).inbox = s.inbox := rfl

/-! ## modGrp -/

@[simp] theorem State.modGrp_ccount (s : State) (g : Nat) (f : Group → Group) : (s.modGrp g f).ccount = s.ccount := rfl
@[simp] theorem State.modGrp_ptime (s : State) (g : Nat) (f : Group → Group) : (s.modGrp g f).ptime = s.ptime := rfl
@[simp] theorem State.modGrp_step (s : State) (g : Nat) (f : Group → Group) : (s.modGrp g f).step = s.step := rfl
@[simp] theorem State.modGrp_stepReq (s : State) (g : Nat) (f : Group → Group) : (s.modGrp g f).stepReq = s.stepReq := rfl
@[simp] theorem State.modGrp_reqAt (s : State) (g : Nat) (f : Group → Group) : (s.modGrp g f).reqAt = s.reqAt := rfl
@[simp] theorem State.modGrp_pbase (s : State) (g : Nat) (f : Group → Group) : (s.modGrp g f).pbase = s.pbase := rfl
@[simp] theorem State.modGrp_wbase (s : State) (g : Nat) (f : Group → Group) : (s.modGrp g f).wbase = s.wbase := rfl
@[simp] theorem State.modGrp_rate (s : State) (g : Nat) (f : Group → Group) : (s.modGrp g f).rate = s.rate := rfl
@[simp] theorem State.modGrp_stopat (s : State) (g : Nat) (f : Group → Group) : (s.modGrp g f).stopat = s.stopat := rfl
@[simp] theorem State.modGrp_stopHit (s : State) (g : Nat) (f : Group → Group) : (s.modGrp g f).stopHit = s.stopHit := rfl
@[simp] theorem State.modGrp_stopFrom (s : State) (g : Nat) (f : Group → Group) : (s.modGrp g f).stopFrom = s.stopFrom := rfl
@[simp] theorem State.modGrp_prevPtime (s : State) (g : Nat) (f : Group → Group) : (s.modGrp g f).prevPtime = s.prevPtime := rfl
@[simp] theorem State.modGrp_stretchHold (s : State) (g : Nat) (f : Group → Group) : (s.modGrp g f).stretchHold = s.stretchHold := rfl
@[simp] theorem State.modGrp_teams (s : State) (g : Nat) (f : Group → Group) : (s.modGrp g f).teams = s.teams := rfl
@[simp] theorem State.modGrp_cores (s : State) (g : Nat) (f : Group → Group) : (s.modGrp g f).cores = s.cores := rfl
@[simp] theorem State.modGrp_dies (s : State) (g : Nat) (f : Group → Group) : (s.modGrp g f).dies = s.dies := rfl
@[simp] theorem State.modGrp_slices (s : State) (g : Nat) (f : Group → Group) : (s.modGrp g f).slices = s.slices := rfl
@[simp] theorem State.modGrp_ops (s : State) (g : Nat) (f : Group → Group) : (s.modGrp g f).ops = s.ops := rfl
@[simp] theorem State.modGrp_writes (s : State) (g : Nat) (f : Group → Group) : (s.modGrp g f).writes = s.writes := rfl
@[simp] theorem State.modGrp_lines (s : State) (g : Nat) (f : Group → Group) : (s.modGrp g f).lines = s.lines := rfl
@[simp] theorem State.modGrp_walks (s : State) (g : Nat) (f : Group → Group) : (s.modGrp g f).walks = s.walks := rfl
@[simp] theorem State.modGrp_walkFaults (s : State) (g : Nat) (f : Group → Group) : (s.modGrp g f).walkFaults = s.walkFaults := rfl
@[simp] theorem State.modGrp_fenReqs (s : State) (g : Nat) (f : Group → Group) : (s.modGrp g f).fenReqs = s.fenReqs := rfl
@[simp] theorem State.modGrp_fenOps (s : State) (g : Nat) (f : Group → Group) : (s.modGrp g f).fenOps = s.fenOps := rfl
@[simp] theorem State.modGrp_pkts (s : State) (g : Nat) (f : Group → Group) : (s.modGrp g f).pkts = s.pkts := rfl
@[simp] theorem State.modGrp_barMsgs (s : State) (g : Nat) (f : Group → Group) : (s.modGrp g f).barMsgs = s.barMsgs := rfl
@[simp] theorem State.modGrp_queues (s : State) (g : Nat) (f : Group → Group) : (s.modGrp g f).queues = s.queues := rfl
@[simp] theorem State.modGrp_alder (s : State) (g : Nat) (f : Group → Group) : (s.modGrp g f).alder = s.alder := rfl
@[simp] theorem State.modGrp_pod (s : State) (g : Nat) (f : Group → Group) : (s.modGrp g f).pod = s.pod := rfl
@[simp] theorem State.modGrp_pendingHost (s : State) (g : Nat) (f : Group → Group) : (s.modGrp g f).pendingHost = s.pendingHost := rfl
@[simp] theorem State.modGrp_posted (s : State) (g : Nat) (f : Group → Group) : (s.modGrp g f).posted = s.posted := rfl
@[simp] theorem State.modGrp_owed (s : State) (g : Nat) (f : Group → Group) : (s.modGrp g f).owed = s.owed := rfl
@[simp] theorem State.modGrp_ports (s : State) (g : Nat) (f : Group → Group) : (s.modGrp g f).ports = s.ports := rfl
@[simp] theorem State.modGrp_full (s : State) (g : Nat) (f : Group → Group) : (s.modGrp g f).full = s.full := rfl
@[simp] theorem State.modGrp_reduced (s : State) (g : Nat) (f : Group → Group) : (s.modGrp g f).reduced = s.reduced := rfl
@[simp] theorem State.modGrp_salcfg (s : State) (g : Nat) (f : Group → Group) : (s.modGrp g f).salcfg = s.salcfg := rfl
@[simp] theorem State.modGrp_modNum (s : State) (g : Nat) (f : Group → Group) : (s.modGrp g f).modNum = s.modNum := rfl
@[simp] theorem State.modGrp_cur (s : State) (g : Nat) (f : Group → Group) : (s.modGrp g f).cur = s.cur := rfl
@[simp] theorem State.modGrp_args (s : State) (g : Nat) (f : Group → Group) : (s.modGrp g f).args = s.args := rfl
@[simp] theorem State.modGrp_agenda (s : State) (g : Nat) (f : Group → Group) : (s.modGrp g f).agenda = s.agenda := rfl
@[simp] theorem State.modGrp_timed (s : State) (g : Nat) (f : Group → Group) : (s.modGrp g f).timed = s.timed := rfl
@[simp] theorem State.modGrp_nextId (s : State) (g : Nat) (f : Group → Group) : (s.modGrp g f).nextId = s.nextId := rfl
@[simp] theorem State.modGrp_draws (s : State) (g : Nat) (f : Group → Group) : (s.modGrp g f).draws = s.draws := rfl
@[simp] theorem State.modGrp_mem (s : State) (g : Nat) (f : Group → Group) : (s.modGrp g f).mem = s.mem := rfl
@[simp] theorem State.modGrp_poison (s : State) (g : Nat) (f : Group → Group) : (s.modGrp g f).poison = s.poison := rfl
@[simp] theorem State.modGrp_hostMem (s : State) (g : Nat) (f : Group → Group) : (s.modGrp g f).hostMem = s.hostMem := rfl
@[simp] theorem State.modGrp_frozen (s : State) (g : Nat) (f : Group → Group) : (s.modGrp g f).frozen = s.frozen := rfl
@[simp] theorem State.modGrp_attach (s : State) (g : Nat) (f : Group → Group) : (s.modGrp g f).attach = s.attach := rfl
@[simp] theorem State.modGrp_fcause (s : State) (g : Nat) (f : Group → Group) : (s.modGrp g f).fcause = s.fcause := rfl
@[simp] theorem State.modGrp_dumped (s : State) (g : Nat) (f : Group → Group) : (s.modGrp g f).dumped = s.dumped := rfl
@[simp] theorem State.modGrp_scanning (s : State) (g : Nat) (f : Group → Group) : (s.modGrp g f).scanning = s.scanning := rfl
@[simp] theorem State.modGrp_freport (s : State) (g : Nat) (f : Group → Group) : (s.modGrp g f).freport = s.freport := rfl
@[simp] theorem State.modGrp_bpSkip (s : State) (g : Nat) (f : Group → Group) : (s.modGrp g f).bpSkip = s.bpSkip := rfl
@[simp] theorem State.modGrp_ibps (s : State) (g : Nat) (f : Group → Group) : (s.modGrp g f).ibps = s.ibps := rfl
@[simp] theorem State.modGrp_strcnt (s : State) (g : Nat) (f : Group → Group) : (s.modGrp g f).strcnt = s.strcnt := rfl
@[simp] theorem State.modGrp_peatbase (s : State) (g : Nat) (f : Group → Group) : (s.modGrp g f).peatbase = s.peatbase := rfl
@[simp] theorem State.modGrp_peatsize (s : State) (g : Nat) (f : Group → Group) : (s.modGrp g f).peatsize = s.peatsize := rfl
@[simp] theorem State.modGrp_peat (s : State) (g : Nat) (f : Group → Group) : (s.modGrp g f).peat = s.peat := rfl
@[simp] theorem State.modGrp_gates (s : State) (g : Nat) (f : Group → Group) : (s.modGrp g f).gates = s.gates := rfl
@[simp] theorem State.modGrp_latch (s : State) (g : Nat) (f : Group → Group) : (s.modGrp g f).latch = s.latch := rfl
@[simp] theorem State.modGrp_gated (s : State) (g : Nat) (f : Group → Group) : (s.modGrp g f).gated = s.gated := rfl
@[simp] theorem State.modGrp_wakeAt (s : State) (g : Nat) (f : Group → Group) : (s.modGrp g f).wakeAt = s.wakeAt := rfl
@[simp] theorem State.modGrp_flash (s : State) (g : Nat) (f : Group → Group) : (s.modGrp g f).flash = s.flash := rfl
@[simp] theorem State.modGrp_phase (s : State) (g : Nat) (f : Group → Group) : (s.modGrp g f).phase = s.phase := rfl
@[simp] theorem State.modGrp_bootErr (s : State) (g : Nat) (f : Group → Group) : (s.modGrp g f).bootErr = s.bootErr := rfl
@[simp] theorem State.modGrp_errDie (s : State) (g : Nat) (f : Group → Group) : (s.modGrp g f).errDie = s.errDie := rfl
@[simp] theorem State.modGrp_bootNext (s : State) (g : Nat) (f : Group → Group) : (s.modGrp g f).bootNext = s.bootNext := rfl
@[simp] theorem State.modGrp_mboxin (s : State) (g : Nat) (f : Group → Group) : (s.modGrp g f).mboxin = s.mboxin := rfl
@[simp] theorem State.modGrp_mboxout (s : State) (g : Nat) (f : Group → Group) : (s.modGrp g f).mboxout = s.mboxout := rfl
@[simp] theorem State.modGrp_mr (s : State) (g : Nat) (f : Group → Group) : (s.modGrp g f).mr = s.mr := rfl
@[simp] theorem State.modGrp_alderKey (s : State) (g : Nat) (f : Group → Group) : (s.modGrp g f).alderKey = s.alderKey := rfl
@[simp] theorem State.modGrp_softErrs (s : State) (g : Nat) (f : Group → Group) : (s.modGrp g f).softErrs = s.softErrs := rfl
@[simp] theorem State.modGrp_linkWidth (s : State) (g : Nat) (f : Group → Group) : (s.modGrp g f).linkWidth = s.linkWidth := rfl
@[simp] theorem State.modGrp_linkRate (s : State) (g : Nat) (f : Group → Group) : (s.modGrp g f).linkRate = s.linkRate := rfl
@[simp] theorem State.modGrp_hostAtomics (s : State) (g : Nat) (f : Group → Group) : (s.modGrp g f).hostAtomics = s.hostAtomics := rfl
@[simp] theorem State.modGrp_fcLimits (s : State) (g : Nat) (f : Group → Group) : (s.modGrp g f).fcLimits = s.fcLimits := rfl
@[simp] theorem State.modGrp_sent (s : State) (g : Nat) (f : Group → Group) : (s.modGrp g f).sent = s.sent := rfl
@[simp] theorem State.modGrp_inbox (s : State) (g : Nat) (f : Group → Group) : (s.modGrp g f).inbox = s.inbox := rfl

/-! ## setTeam -/

@[simp] theorem State.setTeam_ccount (s : State) (q : Nat) (m : Team) : (s.setTeam q m).ccount = s.ccount := rfl
@[simp] theorem State.setTeam_ptime (s : State) (q : Nat) (m : Team) : (s.setTeam q m).ptime = s.ptime := rfl
@[simp] theorem State.setTeam_step (s : State) (q : Nat) (m : Team) : (s.setTeam q m).step = s.step := rfl
@[simp] theorem State.setTeam_stepReq (s : State) (q : Nat) (m : Team) : (s.setTeam q m).stepReq = s.stepReq := rfl
@[simp] theorem State.setTeam_reqAt (s : State) (q : Nat) (m : Team) : (s.setTeam q m).reqAt = s.reqAt := rfl
@[simp] theorem State.setTeam_pbase (s : State) (q : Nat) (m : Team) : (s.setTeam q m).pbase = s.pbase := rfl
@[simp] theorem State.setTeam_wbase (s : State) (q : Nat) (m : Team) : (s.setTeam q m).wbase = s.wbase := rfl
@[simp] theorem State.setTeam_rate (s : State) (q : Nat) (m : Team) : (s.setTeam q m).rate = s.rate := rfl
@[simp] theorem State.setTeam_stopat (s : State) (q : Nat) (m : Team) : (s.setTeam q m).stopat = s.stopat := rfl
@[simp] theorem State.setTeam_stopHit (s : State) (q : Nat) (m : Team) : (s.setTeam q m).stopHit = s.stopHit := rfl
@[simp] theorem State.setTeam_stopFrom (s : State) (q : Nat) (m : Team) : (s.setTeam q m).stopFrom = s.stopFrom := rfl
@[simp] theorem State.setTeam_prevPtime (s : State) (q : Nat) (m : Team) : (s.setTeam q m).prevPtime = s.prevPtime := rfl
@[simp] theorem State.setTeam_stretchHold (s : State) (q : Nat) (m : Team) : (s.setTeam q m).stretchHold = s.stretchHold := rfl
@[simp] theorem State.setTeam_groups (s : State) (q : Nat) (m : Team) : (s.setTeam q m).groups = s.groups := rfl
@[simp] theorem State.setTeam_cores (s : State) (q : Nat) (m : Team) : (s.setTeam q m).cores = s.cores := rfl
@[simp] theorem State.setTeam_dies (s : State) (q : Nat) (m : Team) : (s.setTeam q m).dies = s.dies := rfl
@[simp] theorem State.setTeam_slices (s : State) (q : Nat) (m : Team) : (s.setTeam q m).slices = s.slices := rfl
@[simp] theorem State.setTeam_ops (s : State) (q : Nat) (m : Team) : (s.setTeam q m).ops = s.ops := rfl
@[simp] theorem State.setTeam_writes (s : State) (q : Nat) (m : Team) : (s.setTeam q m).writes = s.writes := rfl
@[simp] theorem State.setTeam_lines (s : State) (q : Nat) (m : Team) : (s.setTeam q m).lines = s.lines := rfl
@[simp] theorem State.setTeam_walks (s : State) (q : Nat) (m : Team) : (s.setTeam q m).walks = s.walks := rfl
@[simp] theorem State.setTeam_walkFaults (s : State) (q : Nat) (m : Team) : (s.setTeam q m).walkFaults = s.walkFaults := rfl
@[simp] theorem State.setTeam_fenReqs (s : State) (q : Nat) (m : Team) : (s.setTeam q m).fenReqs = s.fenReqs := rfl
@[simp] theorem State.setTeam_fenOps (s : State) (q : Nat) (m : Team) : (s.setTeam q m).fenOps = s.fenOps := rfl
@[simp] theorem State.setTeam_pkts (s : State) (q : Nat) (m : Team) : (s.setTeam q m).pkts = s.pkts := rfl
@[simp] theorem State.setTeam_barMsgs (s : State) (q : Nat) (m : Team) : (s.setTeam q m).barMsgs = s.barMsgs := rfl
@[simp] theorem State.setTeam_queues (s : State) (q : Nat) (m : Team) : (s.setTeam q m).queues = s.queues := rfl
@[simp] theorem State.setTeam_alder (s : State) (q : Nat) (m : Team) : (s.setTeam q m).alder = s.alder := rfl
@[simp] theorem State.setTeam_pod (s : State) (q : Nat) (m : Team) : (s.setTeam q m).pod = s.pod := rfl
@[simp] theorem State.setTeam_pendingHost (s : State) (q : Nat) (m : Team) : (s.setTeam q m).pendingHost = s.pendingHost := rfl
@[simp] theorem State.setTeam_posted (s : State) (q : Nat) (m : Team) : (s.setTeam q m).posted = s.posted := rfl
@[simp] theorem State.setTeam_owed (s : State) (q : Nat) (m : Team) : (s.setTeam q m).owed = s.owed := rfl
@[simp] theorem State.setTeam_ports (s : State) (q : Nat) (m : Team) : (s.setTeam q m).ports = s.ports := rfl
@[simp] theorem State.setTeam_full (s : State) (q : Nat) (m : Team) : (s.setTeam q m).full = s.full := rfl
@[simp] theorem State.setTeam_reduced (s : State) (q : Nat) (m : Team) : (s.setTeam q m).reduced = s.reduced := rfl
@[simp] theorem State.setTeam_salcfg (s : State) (q : Nat) (m : Team) : (s.setTeam q m).salcfg = s.salcfg := rfl
@[simp] theorem State.setTeam_modNum (s : State) (q : Nat) (m : Team) : (s.setTeam q m).modNum = s.modNum := rfl
@[simp] theorem State.setTeam_cur (s : State) (q : Nat) (m : Team) : (s.setTeam q m).cur = s.cur := rfl
@[simp] theorem State.setTeam_args (s : State) (q : Nat) (m : Team) : (s.setTeam q m).args = s.args := rfl
@[simp] theorem State.setTeam_agenda (s : State) (q : Nat) (m : Team) : (s.setTeam q m).agenda = s.agenda := rfl
@[simp] theorem State.setTeam_timed (s : State) (q : Nat) (m : Team) : (s.setTeam q m).timed = s.timed := rfl
@[simp] theorem State.setTeam_nextId (s : State) (q : Nat) (m : Team) : (s.setTeam q m).nextId = s.nextId := rfl
@[simp] theorem State.setTeam_draws (s : State) (q : Nat) (m : Team) : (s.setTeam q m).draws = s.draws := rfl
@[simp] theorem State.setTeam_mem (s : State) (q : Nat) (m : Team) : (s.setTeam q m).mem = s.mem := rfl
@[simp] theorem State.setTeam_poison (s : State) (q : Nat) (m : Team) : (s.setTeam q m).poison = s.poison := rfl
@[simp] theorem State.setTeam_hostMem (s : State) (q : Nat) (m : Team) : (s.setTeam q m).hostMem = s.hostMem := rfl
@[simp] theorem State.setTeam_frozen (s : State) (q : Nat) (m : Team) : (s.setTeam q m).frozen = s.frozen := rfl
@[simp] theorem State.setTeam_attach (s : State) (q : Nat) (m : Team) : (s.setTeam q m).attach = s.attach := rfl
@[simp] theorem State.setTeam_fcause (s : State) (q : Nat) (m : Team) : (s.setTeam q m).fcause = s.fcause := rfl
@[simp] theorem State.setTeam_dumped (s : State) (q : Nat) (m : Team) : (s.setTeam q m).dumped = s.dumped := rfl
@[simp] theorem State.setTeam_scanning (s : State) (q : Nat) (m : Team) : (s.setTeam q m).scanning = s.scanning := rfl
@[simp] theorem State.setTeam_freport (s : State) (q : Nat) (m : Team) : (s.setTeam q m).freport = s.freport := rfl
@[simp] theorem State.setTeam_bpSkip (s : State) (q : Nat) (m : Team) : (s.setTeam q m).bpSkip = s.bpSkip := rfl
@[simp] theorem State.setTeam_ibps (s : State) (q : Nat) (m : Team) : (s.setTeam q m).ibps = s.ibps := rfl
@[simp] theorem State.setTeam_strcnt (s : State) (q : Nat) (m : Team) : (s.setTeam q m).strcnt = s.strcnt := rfl
@[simp] theorem State.setTeam_peatbase (s : State) (q : Nat) (m : Team) : (s.setTeam q m).peatbase = s.peatbase := rfl
@[simp] theorem State.setTeam_peatsize (s : State) (q : Nat) (m : Team) : (s.setTeam q m).peatsize = s.peatsize := rfl
@[simp] theorem State.setTeam_peat (s : State) (q : Nat) (m : Team) : (s.setTeam q m).peat = s.peat := rfl
@[simp] theorem State.setTeam_gates (s : State) (q : Nat) (m : Team) : (s.setTeam q m).gates = s.gates := rfl
@[simp] theorem State.setTeam_latch (s : State) (q : Nat) (m : Team) : (s.setTeam q m).latch = s.latch := rfl
@[simp] theorem State.setTeam_gated (s : State) (q : Nat) (m : Team) : (s.setTeam q m).gated = s.gated := rfl
@[simp] theorem State.setTeam_wakeAt (s : State) (q : Nat) (m : Team) : (s.setTeam q m).wakeAt = s.wakeAt := rfl
@[simp] theorem State.setTeam_flash (s : State) (q : Nat) (m : Team) : (s.setTeam q m).flash = s.flash := rfl
@[simp] theorem State.setTeam_phase (s : State) (q : Nat) (m : Team) : (s.setTeam q m).phase = s.phase := rfl
@[simp] theorem State.setTeam_bootErr (s : State) (q : Nat) (m : Team) : (s.setTeam q m).bootErr = s.bootErr := rfl
@[simp] theorem State.setTeam_errDie (s : State) (q : Nat) (m : Team) : (s.setTeam q m).errDie = s.errDie := rfl
@[simp] theorem State.setTeam_bootNext (s : State) (q : Nat) (m : Team) : (s.setTeam q m).bootNext = s.bootNext := rfl
@[simp] theorem State.setTeam_mboxin (s : State) (q : Nat) (m : Team) : (s.setTeam q m).mboxin = s.mboxin := rfl
@[simp] theorem State.setTeam_mboxout (s : State) (q : Nat) (m : Team) : (s.setTeam q m).mboxout = s.mboxout := rfl
@[simp] theorem State.setTeam_mr (s : State) (q : Nat) (m : Team) : (s.setTeam q m).mr = s.mr := rfl
@[simp] theorem State.setTeam_alderKey (s : State) (q : Nat) (m : Team) : (s.setTeam q m).alderKey = s.alderKey := rfl
@[simp] theorem State.setTeam_softErrs (s : State) (q : Nat) (m : Team) : (s.setTeam q m).softErrs = s.softErrs := rfl
@[simp] theorem State.setTeam_linkWidth (s : State) (q : Nat) (m : Team) : (s.setTeam q m).linkWidth = s.linkWidth := rfl
@[simp] theorem State.setTeam_linkRate (s : State) (q : Nat) (m : Team) : (s.setTeam q m).linkRate = s.linkRate := rfl
@[simp] theorem State.setTeam_hostAtomics (s : State) (q : Nat) (m : Team) : (s.setTeam q m).hostAtomics = s.hostAtomics := rfl
@[simp] theorem State.setTeam_fcLimits (s : State) (q : Nat) (m : Team) : (s.setTeam q m).fcLimits = s.fcLimits := rfl
@[simp] theorem State.setTeam_sent (s : State) (q : Nat) (m : Team) : (s.setTeam q m).sent = s.sent := rfl
@[simp] theorem State.setTeam_inbox (s : State) (q : Nat) (m : Team) : (s.setTeam q m).inbox = s.inbox := rfl

/-! ## modTeam -/

@[simp] theorem State.modTeam_ccount (s : State) (q : Nat) (f : Team → Team) : (s.modTeam q f).ccount = s.ccount := rfl
@[simp] theorem State.modTeam_ptime (s : State) (q : Nat) (f : Team → Team) : (s.modTeam q f).ptime = s.ptime := rfl
@[simp] theorem State.modTeam_step (s : State) (q : Nat) (f : Team → Team) : (s.modTeam q f).step = s.step := rfl
@[simp] theorem State.modTeam_stepReq (s : State) (q : Nat) (f : Team → Team) : (s.modTeam q f).stepReq = s.stepReq := rfl
@[simp] theorem State.modTeam_reqAt (s : State) (q : Nat) (f : Team → Team) : (s.modTeam q f).reqAt = s.reqAt := rfl
@[simp] theorem State.modTeam_pbase (s : State) (q : Nat) (f : Team → Team) : (s.modTeam q f).pbase = s.pbase := rfl
@[simp] theorem State.modTeam_wbase (s : State) (q : Nat) (f : Team → Team) : (s.modTeam q f).wbase = s.wbase := rfl
@[simp] theorem State.modTeam_rate (s : State) (q : Nat) (f : Team → Team) : (s.modTeam q f).rate = s.rate := rfl
@[simp] theorem State.modTeam_stopat (s : State) (q : Nat) (f : Team → Team) : (s.modTeam q f).stopat = s.stopat := rfl
@[simp] theorem State.modTeam_stopHit (s : State) (q : Nat) (f : Team → Team) : (s.modTeam q f).stopHit = s.stopHit := rfl
@[simp] theorem State.modTeam_stopFrom (s : State) (q : Nat) (f : Team → Team) : (s.modTeam q f).stopFrom = s.stopFrom := rfl
@[simp] theorem State.modTeam_prevPtime (s : State) (q : Nat) (f : Team → Team) : (s.modTeam q f).prevPtime = s.prevPtime := rfl
@[simp] theorem State.modTeam_stretchHold (s : State) (q : Nat) (f : Team → Team) : (s.modTeam q f).stretchHold = s.stretchHold := rfl
@[simp] theorem State.modTeam_groups (s : State) (q : Nat) (f : Team → Team) : (s.modTeam q f).groups = s.groups := rfl
@[simp] theorem State.modTeam_cores (s : State) (q : Nat) (f : Team → Team) : (s.modTeam q f).cores = s.cores := rfl
@[simp] theorem State.modTeam_dies (s : State) (q : Nat) (f : Team → Team) : (s.modTeam q f).dies = s.dies := rfl
@[simp] theorem State.modTeam_slices (s : State) (q : Nat) (f : Team → Team) : (s.modTeam q f).slices = s.slices := rfl
@[simp] theorem State.modTeam_ops (s : State) (q : Nat) (f : Team → Team) : (s.modTeam q f).ops = s.ops := rfl
@[simp] theorem State.modTeam_writes (s : State) (q : Nat) (f : Team → Team) : (s.modTeam q f).writes = s.writes := rfl
@[simp] theorem State.modTeam_lines (s : State) (q : Nat) (f : Team → Team) : (s.modTeam q f).lines = s.lines := rfl
@[simp] theorem State.modTeam_walks (s : State) (q : Nat) (f : Team → Team) : (s.modTeam q f).walks = s.walks := rfl
@[simp] theorem State.modTeam_walkFaults (s : State) (q : Nat) (f : Team → Team) : (s.modTeam q f).walkFaults = s.walkFaults := rfl
@[simp] theorem State.modTeam_fenReqs (s : State) (q : Nat) (f : Team → Team) : (s.modTeam q f).fenReqs = s.fenReqs := rfl
@[simp] theorem State.modTeam_fenOps (s : State) (q : Nat) (f : Team → Team) : (s.modTeam q f).fenOps = s.fenOps := rfl
@[simp] theorem State.modTeam_pkts (s : State) (q : Nat) (f : Team → Team) : (s.modTeam q f).pkts = s.pkts := rfl
@[simp] theorem State.modTeam_barMsgs (s : State) (q : Nat) (f : Team → Team) : (s.modTeam q f).barMsgs = s.barMsgs := rfl
@[simp] theorem State.modTeam_queues (s : State) (q : Nat) (f : Team → Team) : (s.modTeam q f).queues = s.queues := rfl
@[simp] theorem State.modTeam_alder (s : State) (q : Nat) (f : Team → Team) : (s.modTeam q f).alder = s.alder := rfl
@[simp] theorem State.modTeam_pod (s : State) (q : Nat) (f : Team → Team) : (s.modTeam q f).pod = s.pod := rfl
@[simp] theorem State.modTeam_pendingHost (s : State) (q : Nat) (f : Team → Team) : (s.modTeam q f).pendingHost = s.pendingHost := rfl
@[simp] theorem State.modTeam_posted (s : State) (q : Nat) (f : Team → Team) : (s.modTeam q f).posted = s.posted := rfl
@[simp] theorem State.modTeam_owed (s : State) (q : Nat) (f : Team → Team) : (s.modTeam q f).owed = s.owed := rfl
@[simp] theorem State.modTeam_ports (s : State) (q : Nat) (f : Team → Team) : (s.modTeam q f).ports = s.ports := rfl
@[simp] theorem State.modTeam_full (s : State) (q : Nat) (f : Team → Team) : (s.modTeam q f).full = s.full := rfl
@[simp] theorem State.modTeam_reduced (s : State) (q : Nat) (f : Team → Team) : (s.modTeam q f).reduced = s.reduced := rfl
@[simp] theorem State.modTeam_salcfg (s : State) (q : Nat) (f : Team → Team) : (s.modTeam q f).salcfg = s.salcfg := rfl
@[simp] theorem State.modTeam_modNum (s : State) (q : Nat) (f : Team → Team) : (s.modTeam q f).modNum = s.modNum := rfl
@[simp] theorem State.modTeam_cur (s : State) (q : Nat) (f : Team → Team) : (s.modTeam q f).cur = s.cur := rfl
@[simp] theorem State.modTeam_args (s : State) (q : Nat) (f : Team → Team) : (s.modTeam q f).args = s.args := rfl
@[simp] theorem State.modTeam_agenda (s : State) (q : Nat) (f : Team → Team) : (s.modTeam q f).agenda = s.agenda := rfl
@[simp] theorem State.modTeam_timed (s : State) (q : Nat) (f : Team → Team) : (s.modTeam q f).timed = s.timed := rfl
@[simp] theorem State.modTeam_nextId (s : State) (q : Nat) (f : Team → Team) : (s.modTeam q f).nextId = s.nextId := rfl
@[simp] theorem State.modTeam_draws (s : State) (q : Nat) (f : Team → Team) : (s.modTeam q f).draws = s.draws := rfl
@[simp] theorem State.modTeam_mem (s : State) (q : Nat) (f : Team → Team) : (s.modTeam q f).mem = s.mem := rfl
@[simp] theorem State.modTeam_poison (s : State) (q : Nat) (f : Team → Team) : (s.modTeam q f).poison = s.poison := rfl
@[simp] theorem State.modTeam_hostMem (s : State) (q : Nat) (f : Team → Team) : (s.modTeam q f).hostMem = s.hostMem := rfl
@[simp] theorem State.modTeam_frozen (s : State) (q : Nat) (f : Team → Team) : (s.modTeam q f).frozen = s.frozen := rfl
@[simp] theorem State.modTeam_attach (s : State) (q : Nat) (f : Team → Team) : (s.modTeam q f).attach = s.attach := rfl
@[simp] theorem State.modTeam_fcause (s : State) (q : Nat) (f : Team → Team) : (s.modTeam q f).fcause = s.fcause := rfl
@[simp] theorem State.modTeam_dumped (s : State) (q : Nat) (f : Team → Team) : (s.modTeam q f).dumped = s.dumped := rfl
@[simp] theorem State.modTeam_scanning (s : State) (q : Nat) (f : Team → Team) : (s.modTeam q f).scanning = s.scanning := rfl
@[simp] theorem State.modTeam_freport (s : State) (q : Nat) (f : Team → Team) : (s.modTeam q f).freport = s.freport := rfl
@[simp] theorem State.modTeam_bpSkip (s : State) (q : Nat) (f : Team → Team) : (s.modTeam q f).bpSkip = s.bpSkip := rfl
@[simp] theorem State.modTeam_ibps (s : State) (q : Nat) (f : Team → Team) : (s.modTeam q f).ibps = s.ibps := rfl
@[simp] theorem State.modTeam_strcnt (s : State) (q : Nat) (f : Team → Team) : (s.modTeam q f).strcnt = s.strcnt := rfl
@[simp] theorem State.modTeam_peatbase (s : State) (q : Nat) (f : Team → Team) : (s.modTeam q f).peatbase = s.peatbase := rfl
@[simp] theorem State.modTeam_peatsize (s : State) (q : Nat) (f : Team → Team) : (s.modTeam q f).peatsize = s.peatsize := rfl
@[simp] theorem State.modTeam_peat (s : State) (q : Nat) (f : Team → Team) : (s.modTeam q f).peat = s.peat := rfl
@[simp] theorem State.modTeam_gates (s : State) (q : Nat) (f : Team → Team) : (s.modTeam q f).gates = s.gates := rfl
@[simp] theorem State.modTeam_latch (s : State) (q : Nat) (f : Team → Team) : (s.modTeam q f).latch = s.latch := rfl
@[simp] theorem State.modTeam_gated (s : State) (q : Nat) (f : Team → Team) : (s.modTeam q f).gated = s.gated := rfl
@[simp] theorem State.modTeam_wakeAt (s : State) (q : Nat) (f : Team → Team) : (s.modTeam q f).wakeAt = s.wakeAt := rfl
@[simp] theorem State.modTeam_flash (s : State) (q : Nat) (f : Team → Team) : (s.modTeam q f).flash = s.flash := rfl
@[simp] theorem State.modTeam_phase (s : State) (q : Nat) (f : Team → Team) : (s.modTeam q f).phase = s.phase := rfl
@[simp] theorem State.modTeam_bootErr (s : State) (q : Nat) (f : Team → Team) : (s.modTeam q f).bootErr = s.bootErr := rfl
@[simp] theorem State.modTeam_errDie (s : State) (q : Nat) (f : Team → Team) : (s.modTeam q f).errDie = s.errDie := rfl
@[simp] theorem State.modTeam_bootNext (s : State) (q : Nat) (f : Team → Team) : (s.modTeam q f).bootNext = s.bootNext := rfl
@[simp] theorem State.modTeam_mboxin (s : State) (q : Nat) (f : Team → Team) : (s.modTeam q f).mboxin = s.mboxin := rfl
@[simp] theorem State.modTeam_mboxout (s : State) (q : Nat) (f : Team → Team) : (s.modTeam q f).mboxout = s.mboxout := rfl
@[simp] theorem State.modTeam_mr (s : State) (q : Nat) (f : Team → Team) : (s.modTeam q f).mr = s.mr := rfl
@[simp] theorem State.modTeam_alderKey (s : State) (q : Nat) (f : Team → Team) : (s.modTeam q f).alderKey = s.alderKey := rfl
@[simp] theorem State.modTeam_softErrs (s : State) (q : Nat) (f : Team → Team) : (s.modTeam q f).softErrs = s.softErrs := rfl
@[simp] theorem State.modTeam_linkWidth (s : State) (q : Nat) (f : Team → Team) : (s.modTeam q f).linkWidth = s.linkWidth := rfl
@[simp] theorem State.modTeam_linkRate (s : State) (q : Nat) (f : Team → Team) : (s.modTeam q f).linkRate = s.linkRate := rfl
@[simp] theorem State.modTeam_hostAtomics (s : State) (q : Nat) (f : Team → Team) : (s.modTeam q f).hostAtomics = s.hostAtomics := rfl
@[simp] theorem State.modTeam_fcLimits (s : State) (q : Nat) (f : Team → Team) : (s.modTeam q f).fcLimits = s.fcLimits := rfl
@[simp] theorem State.modTeam_sent (s : State) (q : Nat) (f : Team → Team) : (s.modTeam q f).sent = s.sent := rfl
@[simp] theorem State.modTeam_inbox (s : State) (q : Nat) (f : Team → Team) : (s.modTeam q f).inbox = s.inbox := rfl

/-! ## modCore -/

@[simp] theorem State.modCore_ccount (s : State) (c : Nat) (f : Core → Core) : (s.modCore c f).ccount = s.ccount := rfl
@[simp] theorem State.modCore_ptime (s : State) (c : Nat) (f : Core → Core) : (s.modCore c f).ptime = s.ptime := rfl
@[simp] theorem State.modCore_step (s : State) (c : Nat) (f : Core → Core) : (s.modCore c f).step = s.step := rfl
@[simp] theorem State.modCore_stepReq (s : State) (c : Nat) (f : Core → Core) : (s.modCore c f).stepReq = s.stepReq := rfl
@[simp] theorem State.modCore_reqAt (s : State) (c : Nat) (f : Core → Core) : (s.modCore c f).reqAt = s.reqAt := rfl
@[simp] theorem State.modCore_pbase (s : State) (c : Nat) (f : Core → Core) : (s.modCore c f).pbase = s.pbase := rfl
@[simp] theorem State.modCore_wbase (s : State) (c : Nat) (f : Core → Core) : (s.modCore c f).wbase = s.wbase := rfl
@[simp] theorem State.modCore_rate (s : State) (c : Nat) (f : Core → Core) : (s.modCore c f).rate = s.rate := rfl
@[simp] theorem State.modCore_stopat (s : State) (c : Nat) (f : Core → Core) : (s.modCore c f).stopat = s.stopat := rfl
@[simp] theorem State.modCore_stopHit (s : State) (c : Nat) (f : Core → Core) : (s.modCore c f).stopHit = s.stopHit := rfl
@[simp] theorem State.modCore_stopFrom (s : State) (c : Nat) (f : Core → Core) : (s.modCore c f).stopFrom = s.stopFrom := rfl
@[simp] theorem State.modCore_prevPtime (s : State) (c : Nat) (f : Core → Core) : (s.modCore c f).prevPtime = s.prevPtime := rfl
@[simp] theorem State.modCore_stretchHold (s : State) (c : Nat) (f : Core → Core) : (s.modCore c f).stretchHold = s.stretchHold := rfl
@[simp] theorem State.modCore_groups (s : State) (c : Nat) (f : Core → Core) : (s.modCore c f).groups = s.groups := rfl
@[simp] theorem State.modCore_teams (s : State) (c : Nat) (f : Core → Core) : (s.modCore c f).teams = s.teams := rfl
@[simp] theorem State.modCore_dies (s : State) (c : Nat) (f : Core → Core) : (s.modCore c f).dies = s.dies := rfl
@[simp] theorem State.modCore_slices (s : State) (c : Nat) (f : Core → Core) : (s.modCore c f).slices = s.slices := rfl
@[simp] theorem State.modCore_ops (s : State) (c : Nat) (f : Core → Core) : (s.modCore c f).ops = s.ops := rfl
@[simp] theorem State.modCore_writes (s : State) (c : Nat) (f : Core → Core) : (s.modCore c f).writes = s.writes := rfl
@[simp] theorem State.modCore_lines (s : State) (c : Nat) (f : Core → Core) : (s.modCore c f).lines = s.lines := rfl
@[simp] theorem State.modCore_walks (s : State) (c : Nat) (f : Core → Core) : (s.modCore c f).walks = s.walks := rfl
@[simp] theorem State.modCore_walkFaults (s : State) (c : Nat) (f : Core → Core) : (s.modCore c f).walkFaults = s.walkFaults := rfl
@[simp] theorem State.modCore_fenReqs (s : State) (c : Nat) (f : Core → Core) : (s.modCore c f).fenReqs = s.fenReqs := rfl
@[simp] theorem State.modCore_fenOps (s : State) (c : Nat) (f : Core → Core) : (s.modCore c f).fenOps = s.fenOps := rfl
@[simp] theorem State.modCore_pkts (s : State) (c : Nat) (f : Core → Core) : (s.modCore c f).pkts = s.pkts := rfl
@[simp] theorem State.modCore_barMsgs (s : State) (c : Nat) (f : Core → Core) : (s.modCore c f).barMsgs = s.barMsgs := rfl
@[simp] theorem State.modCore_queues (s : State) (c : Nat) (f : Core → Core) : (s.modCore c f).queues = s.queues := rfl
@[simp] theorem State.modCore_alder (s : State) (c : Nat) (f : Core → Core) : (s.modCore c f).alder = s.alder := rfl
@[simp] theorem State.modCore_pod (s : State) (c : Nat) (f : Core → Core) : (s.modCore c f).pod = s.pod := rfl
@[simp] theorem State.modCore_pendingHost (s : State) (c : Nat) (f : Core → Core) : (s.modCore c f).pendingHost = s.pendingHost := rfl
@[simp] theorem State.modCore_posted (s : State) (c : Nat) (f : Core → Core) : (s.modCore c f).posted = s.posted := rfl
@[simp] theorem State.modCore_owed (s : State) (c : Nat) (f : Core → Core) : (s.modCore c f).owed = s.owed := rfl
@[simp] theorem State.modCore_ports (s : State) (c : Nat) (f : Core → Core) : (s.modCore c f).ports = s.ports := rfl
@[simp] theorem State.modCore_full (s : State) (c : Nat) (f : Core → Core) : (s.modCore c f).full = s.full := rfl
@[simp] theorem State.modCore_reduced (s : State) (c : Nat) (f : Core → Core) : (s.modCore c f).reduced = s.reduced := rfl
@[simp] theorem State.modCore_salcfg (s : State) (c : Nat) (f : Core → Core) : (s.modCore c f).salcfg = s.salcfg := rfl
@[simp] theorem State.modCore_modNum (s : State) (c : Nat) (f : Core → Core) : (s.modCore c f).modNum = s.modNum := rfl
@[simp] theorem State.modCore_cur (s : State) (c : Nat) (f : Core → Core) : (s.modCore c f).cur = s.cur := rfl
@[simp] theorem State.modCore_args (s : State) (c : Nat) (f : Core → Core) : (s.modCore c f).args = s.args := rfl
@[simp] theorem State.modCore_agenda (s : State) (c : Nat) (f : Core → Core) : (s.modCore c f).agenda = s.agenda := rfl
@[simp] theorem State.modCore_timed (s : State) (c : Nat) (f : Core → Core) : (s.modCore c f).timed = s.timed := rfl
@[simp] theorem State.modCore_nextId (s : State) (c : Nat) (f : Core → Core) : (s.modCore c f).nextId = s.nextId := rfl
@[simp] theorem State.modCore_draws (s : State) (c : Nat) (f : Core → Core) : (s.modCore c f).draws = s.draws := rfl
@[simp] theorem State.modCore_mem (s : State) (c : Nat) (f : Core → Core) : (s.modCore c f).mem = s.mem := rfl
@[simp] theorem State.modCore_poison (s : State) (c : Nat) (f : Core → Core) : (s.modCore c f).poison = s.poison := rfl
@[simp] theorem State.modCore_hostMem (s : State) (c : Nat) (f : Core → Core) : (s.modCore c f).hostMem = s.hostMem := rfl
@[simp] theorem State.modCore_frozen (s : State) (c : Nat) (f : Core → Core) : (s.modCore c f).frozen = s.frozen := rfl
@[simp] theorem State.modCore_attach (s : State) (c : Nat) (f : Core → Core) : (s.modCore c f).attach = s.attach := rfl
@[simp] theorem State.modCore_fcause (s : State) (c : Nat) (f : Core → Core) : (s.modCore c f).fcause = s.fcause := rfl
@[simp] theorem State.modCore_dumped (s : State) (c : Nat) (f : Core → Core) : (s.modCore c f).dumped = s.dumped := rfl
@[simp] theorem State.modCore_scanning (s : State) (c : Nat) (f : Core → Core) : (s.modCore c f).scanning = s.scanning := rfl
@[simp] theorem State.modCore_freport (s : State) (c : Nat) (f : Core → Core) : (s.modCore c f).freport = s.freport := rfl
@[simp] theorem State.modCore_bpSkip (s : State) (c : Nat) (f : Core → Core) : (s.modCore c f).bpSkip = s.bpSkip := rfl
@[simp] theorem State.modCore_ibps (s : State) (c : Nat) (f : Core → Core) : (s.modCore c f).ibps = s.ibps := rfl
@[simp] theorem State.modCore_strcnt (s : State) (c : Nat) (f : Core → Core) : (s.modCore c f).strcnt = s.strcnt := rfl
@[simp] theorem State.modCore_peatbase (s : State) (c : Nat) (f : Core → Core) : (s.modCore c f).peatbase = s.peatbase := rfl
@[simp] theorem State.modCore_peatsize (s : State) (c : Nat) (f : Core → Core) : (s.modCore c f).peatsize = s.peatsize := rfl
@[simp] theorem State.modCore_peat (s : State) (c : Nat) (f : Core → Core) : (s.modCore c f).peat = s.peat := rfl
@[simp] theorem State.modCore_gates (s : State) (c : Nat) (f : Core → Core) : (s.modCore c f).gates = s.gates := rfl
@[simp] theorem State.modCore_latch (s : State) (c : Nat) (f : Core → Core) : (s.modCore c f).latch = s.latch := rfl
@[simp] theorem State.modCore_gated (s : State) (c : Nat) (f : Core → Core) : (s.modCore c f).gated = s.gated := rfl
@[simp] theorem State.modCore_wakeAt (s : State) (c : Nat) (f : Core → Core) : (s.modCore c f).wakeAt = s.wakeAt := rfl
@[simp] theorem State.modCore_flash (s : State) (c : Nat) (f : Core → Core) : (s.modCore c f).flash = s.flash := rfl
@[simp] theorem State.modCore_phase (s : State) (c : Nat) (f : Core → Core) : (s.modCore c f).phase = s.phase := rfl
@[simp] theorem State.modCore_bootErr (s : State) (c : Nat) (f : Core → Core) : (s.modCore c f).bootErr = s.bootErr := rfl
@[simp] theorem State.modCore_errDie (s : State) (c : Nat) (f : Core → Core) : (s.modCore c f).errDie = s.errDie := rfl
@[simp] theorem State.modCore_bootNext (s : State) (c : Nat) (f : Core → Core) : (s.modCore c f).bootNext = s.bootNext := rfl
@[simp] theorem State.modCore_mboxin (s : State) (c : Nat) (f : Core → Core) : (s.modCore c f).mboxin = s.mboxin := rfl
@[simp] theorem State.modCore_mboxout (s : State) (c : Nat) (f : Core → Core) : (s.modCore c f).mboxout = s.mboxout := rfl
@[simp] theorem State.modCore_mr (s : State) (c : Nat) (f : Core → Core) : (s.modCore c f).mr = s.mr := rfl
@[simp] theorem State.modCore_alderKey (s : State) (c : Nat) (f : Core → Core) : (s.modCore c f).alderKey = s.alderKey := rfl
@[simp] theorem State.modCore_softErrs (s : State) (c : Nat) (f : Core → Core) : (s.modCore c f).softErrs = s.softErrs := rfl
@[simp] theorem State.modCore_linkWidth (s : State) (c : Nat) (f : Core → Core) : (s.modCore c f).linkWidth = s.linkWidth := rfl
@[simp] theorem State.modCore_linkRate (s : State) (c : Nat) (f : Core → Core) : (s.modCore c f).linkRate = s.linkRate := rfl
@[simp] theorem State.modCore_hostAtomics (s : State) (c : Nat) (f : Core → Core) : (s.modCore c f).hostAtomics = s.hostAtomics := rfl
@[simp] theorem State.modCore_fcLimits (s : State) (c : Nat) (f : Core → Core) : (s.modCore c f).fcLimits = s.fcLimits := rfl
@[simp] theorem State.modCore_sent (s : State) (c : Nat) (f : Core → Core) : (s.modCore c f).sent = s.sent := rfl
@[simp] theorem State.modCore_inbox (s : State) (c : Nat) (f : Core → Core) : (s.modCore c f).inbox = s.inbox := rfl

/-! ## modSlice -/

@[simp] theorem State.modSlice_ccount (s : State) (x : Nat) (f : Slice → Slice) : (s.modSlice x f).ccount = s.ccount := rfl
@[simp] theorem State.modSlice_ptime (s : State) (x : Nat) (f : Slice → Slice) : (s.modSlice x f).ptime = s.ptime := rfl
@[simp] theorem State.modSlice_step (s : State) (x : Nat) (f : Slice → Slice) : (s.modSlice x f).step = s.step := rfl
@[simp] theorem State.modSlice_stepReq (s : State) (x : Nat) (f : Slice → Slice) : (s.modSlice x f).stepReq = s.stepReq := rfl
@[simp] theorem State.modSlice_reqAt (s : State) (x : Nat) (f : Slice → Slice) : (s.modSlice x f).reqAt = s.reqAt := rfl
@[simp] theorem State.modSlice_pbase (s : State) (x : Nat) (f : Slice → Slice) : (s.modSlice x f).pbase = s.pbase := rfl
@[simp] theorem State.modSlice_wbase (s : State) (x : Nat) (f : Slice → Slice) : (s.modSlice x f).wbase = s.wbase := rfl
@[simp] theorem State.modSlice_rate (s : State) (x : Nat) (f : Slice → Slice) : (s.modSlice x f).rate = s.rate := rfl
@[simp] theorem State.modSlice_stopat (s : State) (x : Nat) (f : Slice → Slice) : (s.modSlice x f).stopat = s.stopat := rfl
@[simp] theorem State.modSlice_stopHit (s : State) (x : Nat) (f : Slice → Slice) : (s.modSlice x f).stopHit = s.stopHit := rfl
@[simp] theorem State.modSlice_stopFrom (s : State) (x : Nat) (f : Slice → Slice) : (s.modSlice x f).stopFrom = s.stopFrom := rfl
@[simp] theorem State.modSlice_prevPtime (s : State) (x : Nat) (f : Slice → Slice) : (s.modSlice x f).prevPtime = s.prevPtime := rfl
@[simp] theorem State.modSlice_stretchHold (s : State) (x : Nat) (f : Slice → Slice) : (s.modSlice x f).stretchHold = s.stretchHold := rfl
@[simp] theorem State.modSlice_groups (s : State) (x : Nat) (f : Slice → Slice) : (s.modSlice x f).groups = s.groups := rfl
@[simp] theorem State.modSlice_teams (s : State) (x : Nat) (f : Slice → Slice) : (s.modSlice x f).teams = s.teams := rfl
@[simp] theorem State.modSlice_cores (s : State) (x : Nat) (f : Slice → Slice) : (s.modSlice x f).cores = s.cores := rfl
@[simp] theorem State.modSlice_dies (s : State) (x : Nat) (f : Slice → Slice) : (s.modSlice x f).dies = s.dies := rfl
@[simp] theorem State.modSlice_ops (s : State) (x : Nat) (f : Slice → Slice) : (s.modSlice x f).ops = s.ops := rfl
@[simp] theorem State.modSlice_writes (s : State) (x : Nat) (f : Slice → Slice) : (s.modSlice x f).writes = s.writes := rfl
@[simp] theorem State.modSlice_lines (s : State) (x : Nat) (f : Slice → Slice) : (s.modSlice x f).lines = s.lines := rfl
@[simp] theorem State.modSlice_walks (s : State) (x : Nat) (f : Slice → Slice) : (s.modSlice x f).walks = s.walks := rfl
@[simp] theorem State.modSlice_walkFaults (s : State) (x : Nat) (f : Slice → Slice) : (s.modSlice x f).walkFaults = s.walkFaults := rfl
@[simp] theorem State.modSlice_fenReqs (s : State) (x : Nat) (f : Slice → Slice) : (s.modSlice x f).fenReqs = s.fenReqs := rfl
@[simp] theorem State.modSlice_fenOps (s : State) (x : Nat) (f : Slice → Slice) : (s.modSlice x f).fenOps = s.fenOps := rfl
@[simp] theorem State.modSlice_pkts (s : State) (x : Nat) (f : Slice → Slice) : (s.modSlice x f).pkts = s.pkts := rfl
@[simp] theorem State.modSlice_barMsgs (s : State) (x : Nat) (f : Slice → Slice) : (s.modSlice x f).barMsgs = s.barMsgs := rfl
@[simp] theorem State.modSlice_queues (s : State) (x : Nat) (f : Slice → Slice) : (s.modSlice x f).queues = s.queues := rfl
@[simp] theorem State.modSlice_alder (s : State) (x : Nat) (f : Slice → Slice) : (s.modSlice x f).alder = s.alder := rfl
@[simp] theorem State.modSlice_pod (s : State) (x : Nat) (f : Slice → Slice) : (s.modSlice x f).pod = s.pod := rfl
@[simp] theorem State.modSlice_pendingHost (s : State) (x : Nat) (f : Slice → Slice) : (s.modSlice x f).pendingHost = s.pendingHost := rfl
@[simp] theorem State.modSlice_posted (s : State) (x : Nat) (f : Slice → Slice) : (s.modSlice x f).posted = s.posted := rfl
@[simp] theorem State.modSlice_owed (s : State) (x : Nat) (f : Slice → Slice) : (s.modSlice x f).owed = s.owed := rfl
@[simp] theorem State.modSlice_ports (s : State) (x : Nat) (f : Slice → Slice) : (s.modSlice x f).ports = s.ports := rfl
@[simp] theorem State.modSlice_full (s : State) (x : Nat) (f : Slice → Slice) : (s.modSlice x f).full = s.full := rfl
@[simp] theorem State.modSlice_reduced (s : State) (x : Nat) (f : Slice → Slice) : (s.modSlice x f).reduced = s.reduced := rfl
@[simp] theorem State.modSlice_salcfg (s : State) (x : Nat) (f : Slice → Slice) : (s.modSlice x f).salcfg = s.salcfg := rfl
@[simp] theorem State.modSlice_modNum (s : State) (x : Nat) (f : Slice → Slice) : (s.modSlice x f).modNum = s.modNum := rfl
@[simp] theorem State.modSlice_cur (s : State) (x : Nat) (f : Slice → Slice) : (s.modSlice x f).cur = s.cur := rfl
@[simp] theorem State.modSlice_args (s : State) (x : Nat) (f : Slice → Slice) : (s.modSlice x f).args = s.args := rfl
@[simp] theorem State.modSlice_agenda (s : State) (x : Nat) (f : Slice → Slice) : (s.modSlice x f).agenda = s.agenda := rfl
@[simp] theorem State.modSlice_timed (s : State) (x : Nat) (f : Slice → Slice) : (s.modSlice x f).timed = s.timed := rfl
@[simp] theorem State.modSlice_nextId (s : State) (x : Nat) (f : Slice → Slice) : (s.modSlice x f).nextId = s.nextId := rfl
@[simp] theorem State.modSlice_draws (s : State) (x : Nat) (f : Slice → Slice) : (s.modSlice x f).draws = s.draws := rfl
@[simp] theorem State.modSlice_mem (s : State) (x : Nat) (f : Slice → Slice) : (s.modSlice x f).mem = s.mem := rfl
@[simp] theorem State.modSlice_poison (s : State) (x : Nat) (f : Slice → Slice) : (s.modSlice x f).poison = s.poison := rfl
@[simp] theorem State.modSlice_hostMem (s : State) (x : Nat) (f : Slice → Slice) : (s.modSlice x f).hostMem = s.hostMem := rfl
@[simp] theorem State.modSlice_frozen (s : State) (x : Nat) (f : Slice → Slice) : (s.modSlice x f).frozen = s.frozen := rfl
@[simp] theorem State.modSlice_attach (s : State) (x : Nat) (f : Slice → Slice) : (s.modSlice x f).attach = s.attach := rfl
@[simp] theorem State.modSlice_fcause (s : State) (x : Nat) (f : Slice → Slice) : (s.modSlice x f).fcause = s.fcause := rfl
@[simp] theorem State.modSlice_dumped (s : State) (x : Nat) (f : Slice → Slice) : (s.modSlice x f).dumped = s.dumped := rfl
@[simp] theorem State.modSlice_scanning (s : State) (x : Nat) (f : Slice → Slice) : (s.modSlice x f).scanning = s.scanning := rfl
@[simp] theorem State.modSlice_freport (s : State) (x : Nat) (f : Slice → Slice) : (s.modSlice x f).freport = s.freport := rfl
@[simp] theorem State.modSlice_bpSkip (s : State) (x : Nat) (f : Slice → Slice) : (s.modSlice x f).bpSkip = s.bpSkip := rfl
@[simp] theorem State.modSlice_ibps (s : State) (x : Nat) (f : Slice → Slice) : (s.modSlice x f).ibps = s.ibps := rfl
@[simp] theorem State.modSlice_strcnt (s : State) (x : Nat) (f : Slice → Slice) : (s.modSlice x f).strcnt = s.strcnt := rfl
@[simp] theorem State.modSlice_peatbase (s : State) (x : Nat) (f : Slice → Slice) : (s.modSlice x f).peatbase = s.peatbase := rfl
@[simp] theorem State.modSlice_peatsize (s : State) (x : Nat) (f : Slice → Slice) : (s.modSlice x f).peatsize = s.peatsize := rfl
@[simp] theorem State.modSlice_peat (s : State) (x : Nat) (f : Slice → Slice) : (s.modSlice x f).peat = s.peat := rfl
@[simp] theorem State.modSlice_gates (s : State) (x : Nat) (f : Slice → Slice) : (s.modSlice x f).gates = s.gates := rfl
@[simp] theorem State.modSlice_latch (s : State) (x : Nat) (f : Slice → Slice) : (s.modSlice x f).latch = s.latch := rfl
@[simp] theorem State.modSlice_gated (s : State) (x : Nat) (f : Slice → Slice) : (s.modSlice x f).gated = s.gated := rfl
@[simp] theorem State.modSlice_wakeAt (s : State) (x : Nat) (f : Slice → Slice) : (s.modSlice x f).wakeAt = s.wakeAt := rfl
@[simp] theorem State.modSlice_flash (s : State) (x : Nat) (f : Slice → Slice) : (s.modSlice x f).flash = s.flash := rfl
@[simp] theorem State.modSlice_phase (s : State) (x : Nat) (f : Slice → Slice) : (s.modSlice x f).phase = s.phase := rfl
@[simp] theorem State.modSlice_bootErr (s : State) (x : Nat) (f : Slice → Slice) : (s.modSlice x f).bootErr = s.bootErr := rfl
@[simp] theorem State.modSlice_errDie (s : State) (x : Nat) (f : Slice → Slice) : (s.modSlice x f).errDie = s.errDie := rfl
@[simp] theorem State.modSlice_bootNext (s : State) (x : Nat) (f : Slice → Slice) : (s.modSlice x f).bootNext = s.bootNext := rfl
@[simp] theorem State.modSlice_mboxin (s : State) (x : Nat) (f : Slice → Slice) : (s.modSlice x f).mboxin = s.mboxin := rfl
@[simp] theorem State.modSlice_mboxout (s : State) (x : Nat) (f : Slice → Slice) : (s.modSlice x f).mboxout = s.mboxout := rfl
@[simp] theorem State.modSlice_mr (s : State) (x : Nat) (f : Slice → Slice) : (s.modSlice x f).mr = s.mr := rfl
@[simp] theorem State.modSlice_alderKey (s : State) (x : Nat) (f : Slice → Slice) : (s.modSlice x f).alderKey = s.alderKey := rfl
@[simp] theorem State.modSlice_softErrs (s : State) (x : Nat) (f : Slice → Slice) : (s.modSlice x f).softErrs = s.softErrs := rfl
@[simp] theorem State.modSlice_linkWidth (s : State) (x : Nat) (f : Slice → Slice) : (s.modSlice x f).linkWidth = s.linkWidth := rfl
@[simp] theorem State.modSlice_linkRate (s : State) (x : Nat) (f : Slice → Slice) : (s.modSlice x f).linkRate = s.linkRate := rfl
@[simp] theorem State.modSlice_hostAtomics (s : State) (x : Nat) (f : Slice → Slice) : (s.modSlice x f).hostAtomics = s.hostAtomics := rfl
@[simp] theorem State.modSlice_fcLimits (s : State) (x : Nat) (f : Slice → Slice) : (s.modSlice x f).fcLimits = s.fcLimits := rfl
@[simp] theorem State.modSlice_sent (s : State) (x : Nat) (f : Slice → Slice) : (s.modSlice x f).sent = s.sent := rfl
@[simp] theorem State.modSlice_inbox (s : State) (x : Nat) (f : Slice → Slice) : (s.modSlice x f).inbox = s.inbox := rfl

/-! ## modDie -/

@[simp] theorem State.modDie_ccount (s : State) (d : Nat) (f : Die → Die) : (s.modDie d f).ccount = s.ccount := rfl
@[simp] theorem State.modDie_ptime (s : State) (d : Nat) (f : Die → Die) : (s.modDie d f).ptime = s.ptime := rfl
@[simp] theorem State.modDie_step (s : State) (d : Nat) (f : Die → Die) : (s.modDie d f).step = s.step := rfl
@[simp] theorem State.modDie_stepReq (s : State) (d : Nat) (f : Die → Die) : (s.modDie d f).stepReq = s.stepReq := rfl
@[simp] theorem State.modDie_reqAt (s : State) (d : Nat) (f : Die → Die) : (s.modDie d f).reqAt = s.reqAt := rfl
@[simp] theorem State.modDie_pbase (s : State) (d : Nat) (f : Die → Die) : (s.modDie d f).pbase = s.pbase := rfl
@[simp] theorem State.modDie_wbase (s : State) (d : Nat) (f : Die → Die) : (s.modDie d f).wbase = s.wbase := rfl
@[simp] theorem State.modDie_rate (s : State) (d : Nat) (f : Die → Die) : (s.modDie d f).rate = s.rate := rfl
@[simp] theorem State.modDie_stopat (s : State) (d : Nat) (f : Die → Die) : (s.modDie d f).stopat = s.stopat := rfl
@[simp] theorem State.modDie_stopHit (s : State) (d : Nat) (f : Die → Die) : (s.modDie d f).stopHit = s.stopHit := rfl
@[simp] theorem State.modDie_stopFrom (s : State) (d : Nat) (f : Die → Die) : (s.modDie d f).stopFrom = s.stopFrom := rfl
@[simp] theorem State.modDie_prevPtime (s : State) (d : Nat) (f : Die → Die) : (s.modDie d f).prevPtime = s.prevPtime := rfl
@[simp] theorem State.modDie_stretchHold (s : State) (d : Nat) (f : Die → Die) : (s.modDie d f).stretchHold = s.stretchHold := rfl
@[simp] theorem State.modDie_groups (s : State) (d : Nat) (f : Die → Die) : (s.modDie d f).groups = s.groups := rfl
@[simp] theorem State.modDie_teams (s : State) (d : Nat) (f : Die → Die) : (s.modDie d f).teams = s.teams := rfl
@[simp] theorem State.modDie_cores (s : State) (d : Nat) (f : Die → Die) : (s.modDie d f).cores = s.cores := rfl
@[simp] theorem State.modDie_slices (s : State) (d : Nat) (f : Die → Die) : (s.modDie d f).slices = s.slices := rfl
@[simp] theorem State.modDie_ops (s : State) (d : Nat) (f : Die → Die) : (s.modDie d f).ops = s.ops := rfl
@[simp] theorem State.modDie_writes (s : State) (d : Nat) (f : Die → Die) : (s.modDie d f).writes = s.writes := rfl
@[simp] theorem State.modDie_lines (s : State) (d : Nat) (f : Die → Die) : (s.modDie d f).lines = s.lines := rfl
@[simp] theorem State.modDie_walks (s : State) (d : Nat) (f : Die → Die) : (s.modDie d f).walks = s.walks := rfl
@[simp] theorem State.modDie_walkFaults (s : State) (d : Nat) (f : Die → Die) : (s.modDie d f).walkFaults = s.walkFaults := rfl
@[simp] theorem State.modDie_fenReqs (s : State) (d : Nat) (f : Die → Die) : (s.modDie d f).fenReqs = s.fenReqs := rfl
@[simp] theorem State.modDie_fenOps (s : State) (d : Nat) (f : Die → Die) : (s.modDie d f).fenOps = s.fenOps := rfl
@[simp] theorem State.modDie_pkts (s : State) (d : Nat) (f : Die → Die) : (s.modDie d f).pkts = s.pkts := rfl
@[simp] theorem State.modDie_barMsgs (s : State) (d : Nat) (f : Die → Die) : (s.modDie d f).barMsgs = s.barMsgs := rfl
@[simp] theorem State.modDie_queues (s : State) (d : Nat) (f : Die → Die) : (s.modDie d f).queues = s.queues := rfl
@[simp] theorem State.modDie_alder (s : State) (d : Nat) (f : Die → Die) : (s.modDie d f).alder = s.alder := rfl
@[simp] theorem State.modDie_pod (s : State) (d : Nat) (f : Die → Die) : (s.modDie d f).pod = s.pod := rfl
@[simp] theorem State.modDie_pendingHost (s : State) (d : Nat) (f : Die → Die) : (s.modDie d f).pendingHost = s.pendingHost := rfl
@[simp] theorem State.modDie_posted (s : State) (d : Nat) (f : Die → Die) : (s.modDie d f).posted = s.posted := rfl
@[simp] theorem State.modDie_owed (s : State) (d : Nat) (f : Die → Die) : (s.modDie d f).owed = s.owed := rfl
@[simp] theorem State.modDie_ports (s : State) (d : Nat) (f : Die → Die) : (s.modDie d f).ports = s.ports := rfl
@[simp] theorem State.modDie_full (s : State) (d : Nat) (f : Die → Die) : (s.modDie d f).full = s.full := rfl
@[simp] theorem State.modDie_reduced (s : State) (d : Nat) (f : Die → Die) : (s.modDie d f).reduced = s.reduced := rfl
@[simp] theorem State.modDie_salcfg (s : State) (d : Nat) (f : Die → Die) : (s.modDie d f).salcfg = s.salcfg := rfl
@[simp] theorem State.modDie_modNum (s : State) (d : Nat) (f : Die → Die) : (s.modDie d f).modNum = s.modNum := rfl
@[simp] theorem State.modDie_cur (s : State) (d : Nat) (f : Die → Die) : (s.modDie d f).cur = s.cur := rfl
@[simp] theorem State.modDie_args (s : State) (d : Nat) (f : Die → Die) : (s.modDie d f).args = s.args := rfl
@[simp] theorem State.modDie_agenda (s : State) (d : Nat) (f : Die → Die) : (s.modDie d f).agenda = s.agenda := rfl
@[simp] theorem State.modDie_timed (s : State) (d : Nat) (f : Die → Die) : (s.modDie d f).timed = s.timed := rfl
@[simp] theorem State.modDie_nextId (s : State) (d : Nat) (f : Die → Die) : (s.modDie d f).nextId = s.nextId := rfl
@[simp] theorem State.modDie_draws (s : State) (d : Nat) (f : Die → Die) : (s.modDie d f).draws = s.draws := rfl
@[simp] theorem State.modDie_mem (s : State) (d : Nat) (f : Die → Die) : (s.modDie d f).mem = s.mem := rfl
@[simp] theorem State.modDie_poison (s : State) (d : Nat) (f : Die → Die) : (s.modDie d f).poison = s.poison := rfl
@[simp] theorem State.modDie_hostMem (s : State) (d : Nat) (f : Die → Die) : (s.modDie d f).hostMem = s.hostMem := rfl
@[simp] theorem State.modDie_frozen (s : State) (d : Nat) (f : Die → Die) : (s.modDie d f).frozen = s.frozen := rfl
@[simp] theorem State.modDie_attach (s : State) (d : Nat) (f : Die → Die) : (s.modDie d f).attach = s.attach := rfl
@[simp] theorem State.modDie_fcause (s : State) (d : Nat) (f : Die → Die) : (s.modDie d f).fcause = s.fcause := rfl
@[simp] theorem State.modDie_dumped (s : State) (d : Nat) (f : Die → Die) : (s.modDie d f).dumped = s.dumped := rfl
@[simp] theorem State.modDie_scanning (s : State) (d : Nat) (f : Die → Die) : (s.modDie d f).scanning = s.scanning := rfl
@[simp] theorem State.modDie_freport (s : State) (d : Nat) (f : Die → Die) : (s.modDie d f).freport = s.freport := rfl
@[simp] theorem State.modDie_bpSkip (s : State) (d : Nat) (f : Die → Die) : (s.modDie d f).bpSkip = s.bpSkip := rfl
@[simp] theorem State.modDie_ibps (s : State) (d : Nat) (f : Die → Die) : (s.modDie d f).ibps = s.ibps := rfl
@[simp] theorem State.modDie_strcnt (s : State) (d : Nat) (f : Die → Die) : (s.modDie d f).strcnt = s.strcnt := rfl
@[simp] theorem State.modDie_peatbase (s : State) (d : Nat) (f : Die → Die) : (s.modDie d f).peatbase = s.peatbase := rfl
@[simp] theorem State.modDie_peatsize (s : State) (d : Nat) (f : Die → Die) : (s.modDie d f).peatsize = s.peatsize := rfl
@[simp] theorem State.modDie_peat (s : State) (d : Nat) (f : Die → Die) : (s.modDie d f).peat = s.peat := rfl
@[simp] theorem State.modDie_gates (s : State) (d : Nat) (f : Die → Die) : (s.modDie d f).gates = s.gates := rfl
@[simp] theorem State.modDie_latch (s : State) (d : Nat) (f : Die → Die) : (s.modDie d f).latch = s.latch := rfl
@[simp] theorem State.modDie_gated (s : State) (d : Nat) (f : Die → Die) : (s.modDie d f).gated = s.gated := rfl
@[simp] theorem State.modDie_wakeAt (s : State) (d : Nat) (f : Die → Die) : (s.modDie d f).wakeAt = s.wakeAt := rfl
@[simp] theorem State.modDie_flash (s : State) (d : Nat) (f : Die → Die) : (s.modDie d f).flash = s.flash := rfl
@[simp] theorem State.modDie_phase (s : State) (d : Nat) (f : Die → Die) : (s.modDie d f).phase = s.phase := rfl
@[simp] theorem State.modDie_bootErr (s : State) (d : Nat) (f : Die → Die) : (s.modDie d f).bootErr = s.bootErr := rfl
@[simp] theorem State.modDie_errDie (s : State) (d : Nat) (f : Die → Die) : (s.modDie d f).errDie = s.errDie := rfl
@[simp] theorem State.modDie_bootNext (s : State) (d : Nat) (f : Die → Die) : (s.modDie d f).bootNext = s.bootNext := rfl
@[simp] theorem State.modDie_mboxin (s : State) (d : Nat) (f : Die → Die) : (s.modDie d f).mboxin = s.mboxin := rfl
@[simp] theorem State.modDie_mboxout (s : State) (d : Nat) (f : Die → Die) : (s.modDie d f).mboxout = s.mboxout := rfl
@[simp] theorem State.modDie_mr (s : State) (d : Nat) (f : Die → Die) : (s.modDie d f).mr = s.mr := rfl
@[simp] theorem State.modDie_alderKey (s : State) (d : Nat) (f : Die → Die) : (s.modDie d f).alderKey = s.alderKey := rfl
@[simp] theorem State.modDie_softErrs (s : State) (d : Nat) (f : Die → Die) : (s.modDie d f).softErrs = s.softErrs := rfl
@[simp] theorem State.modDie_linkWidth (s : State) (d : Nat) (f : Die → Die) : (s.modDie d f).linkWidth = s.linkWidth := rfl
@[simp] theorem State.modDie_linkRate (s : State) (d : Nat) (f : Die → Die) : (s.modDie d f).linkRate = s.linkRate := rfl
@[simp] theorem State.modDie_hostAtomics (s : State) (d : Nat) (f : Die → Die) : (s.modDie d f).hostAtomics = s.hostAtomics := rfl
@[simp] theorem State.modDie_fcLimits (s : State) (d : Nat) (f : Die → Die) : (s.modDie d f).fcLimits = s.fcLimits := rfl
@[simp] theorem State.modDie_sent (s : State) (d : Nat) (f : Die → Die) : (s.modDie d f).sent = s.sent := rfl
@[simp] theorem State.modDie_inbox (s : State) (d : Nat) (f : Die → Die) : (s.modDie d f).inbox = s.inbox := rfl

/-! ## setOp -/

@[simp] theorem State.setOp_ccount (s : State) (o : Nat) (m : MemOp) : (s.setOp o m).ccount = s.ccount := rfl
@[simp] theorem State.setOp_ptime (s : State) (o : Nat) (m : MemOp) : (s.setOp o m).ptime = s.ptime := rfl
@[simp] theorem State.setOp_step (s : State) (o : Nat) (m : MemOp) : (s.setOp o m).step = s.step := rfl
@[simp] theorem State.setOp_stepReq (s : State) (o : Nat) (m : MemOp) : (s.setOp o m).stepReq = s.stepReq := rfl
@[simp] theorem State.setOp_reqAt (s : State) (o : Nat) (m : MemOp) : (s.setOp o m).reqAt = s.reqAt := rfl
@[simp] theorem State.setOp_pbase (s : State) (o : Nat) (m : MemOp) : (s.setOp o m).pbase = s.pbase := rfl
@[simp] theorem State.setOp_wbase (s : State) (o : Nat) (m : MemOp) : (s.setOp o m).wbase = s.wbase := rfl
@[simp] theorem State.setOp_rate (s : State) (o : Nat) (m : MemOp) : (s.setOp o m).rate = s.rate := rfl
@[simp] theorem State.setOp_stopat (s : State) (o : Nat) (m : MemOp) : (s.setOp o m).stopat = s.stopat := rfl
@[simp] theorem State.setOp_stopHit (s : State) (o : Nat) (m : MemOp) : (s.setOp o m).stopHit = s.stopHit := rfl
@[simp] theorem State.setOp_stopFrom (s : State) (o : Nat) (m : MemOp) : (s.setOp o m).stopFrom = s.stopFrom := rfl
@[simp] theorem State.setOp_prevPtime (s : State) (o : Nat) (m : MemOp) : (s.setOp o m).prevPtime = s.prevPtime := rfl
@[simp] theorem State.setOp_stretchHold (s : State) (o : Nat) (m : MemOp) : (s.setOp o m).stretchHold = s.stretchHold := rfl
@[simp] theorem State.setOp_groups (s : State) (o : Nat) (m : MemOp) : (s.setOp o m).groups = s.groups := rfl
@[simp] theorem State.setOp_teams (s : State) (o : Nat) (m : MemOp) : (s.setOp o m).teams = s.teams := rfl
@[simp] theorem State.setOp_cores (s : State) (o : Nat) (m : MemOp) : (s.setOp o m).cores = s.cores := rfl
@[simp] theorem State.setOp_dies (s : State) (o : Nat) (m : MemOp) : (s.setOp o m).dies = s.dies := rfl
@[simp] theorem State.setOp_slices (s : State) (o : Nat) (m : MemOp) : (s.setOp o m).slices = s.slices := rfl
@[simp] theorem State.setOp_writes (s : State) (o : Nat) (m : MemOp) : (s.setOp o m).writes = s.writes := rfl
@[simp] theorem State.setOp_lines (s : State) (o : Nat) (m : MemOp) : (s.setOp o m).lines = s.lines := rfl
@[simp] theorem State.setOp_walks (s : State) (o : Nat) (m : MemOp) : (s.setOp o m).walks = s.walks := rfl
@[simp] theorem State.setOp_walkFaults (s : State) (o : Nat) (m : MemOp) : (s.setOp o m).walkFaults = s.walkFaults := rfl
@[simp] theorem State.setOp_fenReqs (s : State) (o : Nat) (m : MemOp) : (s.setOp o m).fenReqs = s.fenReqs := rfl
@[simp] theorem State.setOp_fenOps (s : State) (o : Nat) (m : MemOp) : (s.setOp o m).fenOps = s.fenOps := rfl
@[simp] theorem State.setOp_pkts (s : State) (o : Nat) (m : MemOp) : (s.setOp o m).pkts = s.pkts := rfl
@[simp] theorem State.setOp_barMsgs (s : State) (o : Nat) (m : MemOp) : (s.setOp o m).barMsgs = s.barMsgs := rfl
@[simp] theorem State.setOp_queues (s : State) (o : Nat) (m : MemOp) : (s.setOp o m).queues = s.queues := rfl
@[simp] theorem State.setOp_alder (s : State) (o : Nat) (m : MemOp) : (s.setOp o m).alder = s.alder := rfl
@[simp] theorem State.setOp_pod (s : State) (o : Nat) (m : MemOp) : (s.setOp o m).pod = s.pod := rfl
@[simp] theorem State.setOp_pendingHost (s : State) (o : Nat) (m : MemOp) : (s.setOp o m).pendingHost = s.pendingHost := rfl
@[simp] theorem State.setOp_posted (s : State) (o : Nat) (m : MemOp) : (s.setOp o m).posted = s.posted := rfl
@[simp] theorem State.setOp_owed (s : State) (o : Nat) (m : MemOp) : (s.setOp o m).owed = s.owed := rfl
@[simp] theorem State.setOp_ports (s : State) (o : Nat) (m : MemOp) : (s.setOp o m).ports = s.ports := rfl
@[simp] theorem State.setOp_full (s : State) (o : Nat) (m : MemOp) : (s.setOp o m).full = s.full := rfl
@[simp] theorem State.setOp_reduced (s : State) (o : Nat) (m : MemOp) : (s.setOp o m).reduced = s.reduced := rfl
@[simp] theorem State.setOp_salcfg (s : State) (o : Nat) (m : MemOp) : (s.setOp o m).salcfg = s.salcfg := rfl
@[simp] theorem State.setOp_modNum (s : State) (o : Nat) (m : MemOp) : (s.setOp o m).modNum = s.modNum := rfl
@[simp] theorem State.setOp_cur (s : State) (o : Nat) (m : MemOp) : (s.setOp o m).cur = s.cur := rfl
@[simp] theorem State.setOp_args (s : State) (o : Nat) (m : MemOp) : (s.setOp o m).args = s.args := rfl
@[simp] theorem State.setOp_agenda (s : State) (o : Nat) (m : MemOp) : (s.setOp o m).agenda = s.agenda := rfl
@[simp] theorem State.setOp_timed (s : State) (o : Nat) (m : MemOp) : (s.setOp o m).timed = s.timed := rfl
@[simp] theorem State.setOp_nextId (s : State) (o : Nat) (m : MemOp) : (s.setOp o m).nextId = s.nextId := rfl
@[simp] theorem State.setOp_draws (s : State) (o : Nat) (m : MemOp) : (s.setOp o m).draws = s.draws := rfl
@[simp] theorem State.setOp_mem (s : State) (o : Nat) (m : MemOp) : (s.setOp o m).mem = s.mem := rfl
@[simp] theorem State.setOp_poison (s : State) (o : Nat) (m : MemOp) : (s.setOp o m).poison = s.poison := rfl
@[simp] theorem State.setOp_hostMem (s : State) (o : Nat) (m : MemOp) : (s.setOp o m).hostMem = s.hostMem := rfl
@[simp] theorem State.setOp_frozen (s : State) (o : Nat) (m : MemOp) : (s.setOp o m).frozen = s.frozen := rfl
@[simp] theorem State.setOp_attach (s : State) (o : Nat) (m : MemOp) : (s.setOp o m).attach = s.attach := rfl
@[simp] theorem State.setOp_fcause (s : State) (o : Nat) (m : MemOp) : (s.setOp o m).fcause = s.fcause := rfl
@[simp] theorem State.setOp_dumped (s : State) (o : Nat) (m : MemOp) : (s.setOp o m).dumped = s.dumped := rfl
@[simp] theorem State.setOp_scanning (s : State) (o : Nat) (m : MemOp) : (s.setOp o m).scanning = s.scanning := rfl
@[simp] theorem State.setOp_freport (s : State) (o : Nat) (m : MemOp) : (s.setOp o m).freport = s.freport := rfl
@[simp] theorem State.setOp_bpSkip (s : State) (o : Nat) (m : MemOp) : (s.setOp o m).bpSkip = s.bpSkip := rfl
@[simp] theorem State.setOp_ibps (s : State) (o : Nat) (m : MemOp) : (s.setOp o m).ibps = s.ibps := rfl
@[simp] theorem State.setOp_strcnt (s : State) (o : Nat) (m : MemOp) : (s.setOp o m).strcnt = s.strcnt := rfl
@[simp] theorem State.setOp_peatbase (s : State) (o : Nat) (m : MemOp) : (s.setOp o m).peatbase = s.peatbase := rfl
@[simp] theorem State.setOp_peatsize (s : State) (o : Nat) (m : MemOp) : (s.setOp o m).peatsize = s.peatsize := rfl
@[simp] theorem State.setOp_peat (s : State) (o : Nat) (m : MemOp) : (s.setOp o m).peat = s.peat := rfl
@[simp] theorem State.setOp_gates (s : State) (o : Nat) (m : MemOp) : (s.setOp o m).gates = s.gates := rfl
@[simp] theorem State.setOp_latch (s : State) (o : Nat) (m : MemOp) : (s.setOp o m).latch = s.latch := rfl
@[simp] theorem State.setOp_gated (s : State) (o : Nat) (m : MemOp) : (s.setOp o m).gated = s.gated := rfl
@[simp] theorem State.setOp_wakeAt (s : State) (o : Nat) (m : MemOp) : (s.setOp o m).wakeAt = s.wakeAt := rfl
@[simp] theorem State.setOp_flash (s : State) (o : Nat) (m : MemOp) : (s.setOp o m).flash = s.flash := rfl
@[simp] theorem State.setOp_phase (s : State) (o : Nat) (m : MemOp) : (s.setOp o m).phase = s.phase := rfl
@[simp] theorem State.setOp_bootErr (s : State) (o : Nat) (m : MemOp) : (s.setOp o m).bootErr = s.bootErr := rfl
@[simp] theorem State.setOp_errDie (s : State) (o : Nat) (m : MemOp) : (s.setOp o m).errDie = s.errDie := rfl
@[simp] theorem State.setOp_bootNext (s : State) (o : Nat) (m : MemOp) : (s.setOp o m).bootNext = s.bootNext := rfl
@[simp] theorem State.setOp_mboxin (s : State) (o : Nat) (m : MemOp) : (s.setOp o m).mboxin = s.mboxin := rfl
@[simp] theorem State.setOp_mboxout (s : State) (o : Nat) (m : MemOp) : (s.setOp o m).mboxout = s.mboxout := rfl
@[simp] theorem State.setOp_mr (s : State) (o : Nat) (m : MemOp) : (s.setOp o m).mr = s.mr := rfl
@[simp] theorem State.setOp_alderKey (s : State) (o : Nat) (m : MemOp) : (s.setOp o m).alderKey = s.alderKey := rfl
@[simp] theorem State.setOp_softErrs (s : State) (o : Nat) (m : MemOp) : (s.setOp o m).softErrs = s.softErrs := rfl
@[simp] theorem State.setOp_linkWidth (s : State) (o : Nat) (m : MemOp) : (s.setOp o m).linkWidth = s.linkWidth := rfl
@[simp] theorem State.setOp_linkRate (s : State) (o : Nat) (m : MemOp) : (s.setOp o m).linkRate = s.linkRate := rfl
@[simp] theorem State.setOp_hostAtomics (s : State) (o : Nat) (m : MemOp) : (s.setOp o m).hostAtomics = s.hostAtomics := rfl
@[simp] theorem State.setOp_fcLimits (s : State) (o : Nat) (m : MemOp) : (s.setOp o m).fcLimits = s.fcLimits := rfl
@[simp] theorem State.setOp_sent (s : State) (o : Nat) (m : MemOp) : (s.setOp o m).sent = s.sent := rfl
@[simp] theorem State.setOp_inbox (s : State) (o : Nat) (m : MemOp) : (s.setOp o m).inbox = s.inbox := rfl

/-! ## modOp -/

@[simp] theorem State.modOp_ccount (s : State) (o : Nat) (f : MemOp → MemOp) : (s.modOp o f).ccount = s.ccount := rfl
@[simp] theorem State.modOp_ptime (s : State) (o : Nat) (f : MemOp → MemOp) : (s.modOp o f).ptime = s.ptime := rfl
@[simp] theorem State.modOp_step (s : State) (o : Nat) (f : MemOp → MemOp) : (s.modOp o f).step = s.step := rfl
@[simp] theorem State.modOp_stepReq (s : State) (o : Nat) (f : MemOp → MemOp) : (s.modOp o f).stepReq = s.stepReq := rfl
@[simp] theorem State.modOp_reqAt (s : State) (o : Nat) (f : MemOp → MemOp) : (s.modOp o f).reqAt = s.reqAt := rfl
@[simp] theorem State.modOp_pbase (s : State) (o : Nat) (f : MemOp → MemOp) : (s.modOp o f).pbase = s.pbase := rfl
@[simp] theorem State.modOp_wbase (s : State) (o : Nat) (f : MemOp → MemOp) : (s.modOp o f).wbase = s.wbase := rfl
@[simp] theorem State.modOp_rate (s : State) (o : Nat) (f : MemOp → MemOp) : (s.modOp o f).rate = s.rate := rfl
@[simp] theorem State.modOp_stopat (s : State) (o : Nat) (f : MemOp → MemOp) : (s.modOp o f).stopat = s.stopat := rfl
@[simp] theorem State.modOp_stopHit (s : State) (o : Nat) (f : MemOp → MemOp) : (s.modOp o f).stopHit = s.stopHit := rfl
@[simp] theorem State.modOp_stopFrom (s : State) (o : Nat) (f : MemOp → MemOp) : (s.modOp o f).stopFrom = s.stopFrom := rfl
@[simp] theorem State.modOp_prevPtime (s : State) (o : Nat) (f : MemOp → MemOp) : (s.modOp o f).prevPtime = s.prevPtime := rfl
@[simp] theorem State.modOp_stretchHold (s : State) (o : Nat) (f : MemOp → MemOp) : (s.modOp o f).stretchHold = s.stretchHold := rfl
@[simp] theorem State.modOp_groups (s : State) (o : Nat) (f : MemOp → MemOp) : (s.modOp o f).groups = s.groups := rfl
@[simp] theorem State.modOp_teams (s : State) (o : Nat) (f : MemOp → MemOp) : (s.modOp o f).teams = s.teams := rfl
@[simp] theorem State.modOp_cores (s : State) (o : Nat) (f : MemOp → MemOp) : (s.modOp o f).cores = s.cores := rfl
@[simp] theorem State.modOp_dies (s : State) (o : Nat) (f : MemOp → MemOp) : (s.modOp o f).dies = s.dies := rfl
@[simp] theorem State.modOp_slices (s : State) (o : Nat) (f : MemOp → MemOp) : (s.modOp o f).slices = s.slices := rfl
@[simp] theorem State.modOp_writes (s : State) (o : Nat) (f : MemOp → MemOp) : (s.modOp o f).writes = s.writes := rfl
@[simp] theorem State.modOp_lines (s : State) (o : Nat) (f : MemOp → MemOp) : (s.modOp o f).lines = s.lines := rfl
@[simp] theorem State.modOp_walks (s : State) (o : Nat) (f : MemOp → MemOp) : (s.modOp o f).walks = s.walks := rfl
@[simp] theorem State.modOp_walkFaults (s : State) (o : Nat) (f : MemOp → MemOp) : (s.modOp o f).walkFaults = s.walkFaults := rfl
@[simp] theorem State.modOp_fenReqs (s : State) (o : Nat) (f : MemOp → MemOp) : (s.modOp o f).fenReqs = s.fenReqs := rfl
@[simp] theorem State.modOp_fenOps (s : State) (o : Nat) (f : MemOp → MemOp) : (s.modOp o f).fenOps = s.fenOps := rfl
@[simp] theorem State.modOp_pkts (s : State) (o : Nat) (f : MemOp → MemOp) : (s.modOp o f).pkts = s.pkts := rfl
@[simp] theorem State.modOp_barMsgs (s : State) (o : Nat) (f : MemOp → MemOp) : (s.modOp o f).barMsgs = s.barMsgs := rfl
@[simp] theorem State.modOp_queues (s : State) (o : Nat) (f : MemOp → MemOp) : (s.modOp o f).queues = s.queues := rfl
@[simp] theorem State.modOp_alder (s : State) (o : Nat) (f : MemOp → MemOp) : (s.modOp o f).alder = s.alder := rfl
@[simp] theorem State.modOp_pod (s : State) (o : Nat) (f : MemOp → MemOp) : (s.modOp o f).pod = s.pod := rfl
@[simp] theorem State.modOp_pendingHost (s : State) (o : Nat) (f : MemOp → MemOp) : (s.modOp o f).pendingHost = s.pendingHost := rfl
@[simp] theorem State.modOp_posted (s : State) (o : Nat) (f : MemOp → MemOp) : (s.modOp o f).posted = s.posted := rfl
@[simp] theorem State.modOp_owed (s : State) (o : Nat) (f : MemOp → MemOp) : (s.modOp o f).owed = s.owed := rfl
@[simp] theorem State.modOp_ports (s : State) (o : Nat) (f : MemOp → MemOp) : (s.modOp o f).ports = s.ports := rfl
@[simp] theorem State.modOp_full (s : State) (o : Nat) (f : MemOp → MemOp) : (s.modOp o f).full = s.full := rfl
@[simp] theorem State.modOp_reduced (s : State) (o : Nat) (f : MemOp → MemOp) : (s.modOp o f).reduced = s.reduced := rfl
@[simp] theorem State.modOp_salcfg (s : State) (o : Nat) (f : MemOp → MemOp) : (s.modOp o f).salcfg = s.salcfg := rfl
@[simp] theorem State.modOp_modNum (s : State) (o : Nat) (f : MemOp → MemOp) : (s.modOp o f).modNum = s.modNum := rfl
@[simp] theorem State.modOp_cur (s : State) (o : Nat) (f : MemOp → MemOp) : (s.modOp o f).cur = s.cur := rfl
@[simp] theorem State.modOp_args (s : State) (o : Nat) (f : MemOp → MemOp) : (s.modOp o f).args = s.args := rfl
@[simp] theorem State.modOp_agenda (s : State) (o : Nat) (f : MemOp → MemOp) : (s.modOp o f).agenda = s.agenda := rfl
@[simp] theorem State.modOp_timed (s : State) (o : Nat) (f : MemOp → MemOp) : (s.modOp o f).timed = s.timed := rfl
@[simp] theorem State.modOp_nextId (s : State) (o : Nat) (f : MemOp → MemOp) : (s.modOp o f).nextId = s.nextId := rfl
@[simp] theorem State.modOp_draws (s : State) (o : Nat) (f : MemOp → MemOp) : (s.modOp o f).draws = s.draws := rfl
@[simp] theorem State.modOp_mem (s : State) (o : Nat) (f : MemOp → MemOp) : (s.modOp o f).mem = s.mem := rfl
@[simp] theorem State.modOp_poison (s : State) (o : Nat) (f : MemOp → MemOp) : (s.modOp o f).poison = s.poison := rfl
@[simp] theorem State.modOp_hostMem (s : State) (o : Nat) (f : MemOp → MemOp) : (s.modOp o f).hostMem = s.hostMem := rfl
@[simp] theorem State.modOp_frozen (s : State) (o : Nat) (f : MemOp → MemOp) : (s.modOp o f).frozen = s.frozen := rfl
@[simp] theorem State.modOp_attach (s : State) (o : Nat) (f : MemOp → MemOp) : (s.modOp o f).attach = s.attach := rfl
@[simp] theorem State.modOp_fcause (s : State) (o : Nat) (f : MemOp → MemOp) : (s.modOp o f).fcause = s.fcause := rfl
@[simp] theorem State.modOp_dumped (s : State) (o : Nat) (f : MemOp → MemOp) : (s.modOp o f).dumped = s.dumped := rfl
@[simp] theorem State.modOp_scanning (s : State) (o : Nat) (f : MemOp → MemOp) : (s.modOp o f).scanning = s.scanning := rfl
@[simp] theorem State.modOp_freport (s : State) (o : Nat) (f : MemOp → MemOp) : (s.modOp o f).freport = s.freport := rfl
@[simp] theorem State.modOp_bpSkip (s : State) (o : Nat) (f : MemOp → MemOp) : (s.modOp o f).bpSkip = s.bpSkip := rfl
@[simp] theorem State.modOp_ibps (s : State) (o : Nat) (f : MemOp → MemOp) : (s.modOp o f).ibps = s.ibps := rfl
@[simp] theorem State.modOp_strcnt (s : State) (o : Nat) (f : MemOp → MemOp) : (s.modOp o f).strcnt = s.strcnt := rfl
@[simp] theorem State.modOp_peatbase (s : State) (o : Nat) (f : MemOp → MemOp) : (s.modOp o f).peatbase = s.peatbase := rfl
@[simp] theorem State.modOp_peatsize (s : State) (o : Nat) (f : MemOp → MemOp) : (s.modOp o f).peatsize = s.peatsize := rfl
@[simp] theorem State.modOp_peat (s : State) (o : Nat) (f : MemOp → MemOp) : (s.modOp o f).peat = s.peat := rfl
@[simp] theorem State.modOp_gates (s : State) (o : Nat) (f : MemOp → MemOp) : (s.modOp o f).gates = s.gates := rfl
@[simp] theorem State.modOp_latch (s : State) (o : Nat) (f : MemOp → MemOp) : (s.modOp o f).latch = s.latch := rfl
@[simp] theorem State.modOp_gated (s : State) (o : Nat) (f : MemOp → MemOp) : (s.modOp o f).gated = s.gated := rfl
@[simp] theorem State.modOp_wakeAt (s : State) (o : Nat) (f : MemOp → MemOp) : (s.modOp o f).wakeAt = s.wakeAt := rfl
@[simp] theorem State.modOp_flash (s : State) (o : Nat) (f : MemOp → MemOp) : (s.modOp o f).flash = s.flash := rfl
@[simp] theorem State.modOp_phase (s : State) (o : Nat) (f : MemOp → MemOp) : (s.modOp o f).phase = s.phase := rfl
@[simp] theorem State.modOp_bootErr (s : State) (o : Nat) (f : MemOp → MemOp) : (s.modOp o f).bootErr = s.bootErr := rfl
@[simp] theorem State.modOp_errDie (s : State) (o : Nat) (f : MemOp → MemOp) : (s.modOp o f).errDie = s.errDie := rfl
@[simp] theorem State.modOp_bootNext (s : State) (o : Nat) (f : MemOp → MemOp) : (s.modOp o f).bootNext = s.bootNext := rfl
@[simp] theorem State.modOp_mboxin (s : State) (o : Nat) (f : MemOp → MemOp) : (s.modOp o f).mboxin = s.mboxin := rfl
@[simp] theorem State.modOp_mboxout (s : State) (o : Nat) (f : MemOp → MemOp) : (s.modOp o f).mboxout = s.mboxout := rfl
@[simp] theorem State.modOp_mr (s : State) (o : Nat) (f : MemOp → MemOp) : (s.modOp o f).mr = s.mr := rfl
@[simp] theorem State.modOp_alderKey (s : State) (o : Nat) (f : MemOp → MemOp) : (s.modOp o f).alderKey = s.alderKey := rfl
@[simp] theorem State.modOp_softErrs (s : State) (o : Nat) (f : MemOp → MemOp) : (s.modOp o f).softErrs = s.softErrs := rfl
@[simp] theorem State.modOp_linkWidth (s : State) (o : Nat) (f : MemOp → MemOp) : (s.modOp o f).linkWidth = s.linkWidth := rfl
@[simp] theorem State.modOp_linkRate (s : State) (o : Nat) (f : MemOp → MemOp) : (s.modOp o f).linkRate = s.linkRate := rfl
@[simp] theorem State.modOp_hostAtomics (s : State) (o : Nat) (f : MemOp → MemOp) : (s.modOp o f).hostAtomics = s.hostAtomics := rfl
@[simp] theorem State.modOp_fcLimits (s : State) (o : Nat) (f : MemOp → MemOp) : (s.modOp o f).fcLimits = s.fcLimits := rfl
@[simp] theorem State.modOp_sent (s : State) (o : Nat) (f : MemOp → MemOp) : (s.modOp o f).sent = s.sent := rfl
@[simp] theorem State.modOp_inbox (s : State) (o : Nat) (f : MemOp → MemOp) : (s.modOp o f).inbox = s.inbox := rfl

/-! ## delOp -/

@[simp] theorem State.delOp_ccount (s : State) (o : Nat) : (s.delOp o).ccount = s.ccount := rfl
@[simp] theorem State.delOp_ptime (s : State) (o : Nat) : (s.delOp o).ptime = s.ptime := rfl
@[simp] theorem State.delOp_step (s : State) (o : Nat) : (s.delOp o).step = s.step := rfl
@[simp] theorem State.delOp_stepReq (s : State) (o : Nat) : (s.delOp o).stepReq = s.stepReq := rfl
@[simp] theorem State.delOp_reqAt (s : State) (o : Nat) : (s.delOp o).reqAt = s.reqAt := rfl
@[simp] theorem State.delOp_pbase (s : State) (o : Nat) : (s.delOp o).pbase = s.pbase := rfl
@[simp] theorem State.delOp_wbase (s : State) (o : Nat) : (s.delOp o).wbase = s.wbase := rfl
@[simp] theorem State.delOp_rate (s : State) (o : Nat) : (s.delOp o).rate = s.rate := rfl
@[simp] theorem State.delOp_stopat (s : State) (o : Nat) : (s.delOp o).stopat = s.stopat := rfl
@[simp] theorem State.delOp_stopHit (s : State) (o : Nat) : (s.delOp o).stopHit = s.stopHit := rfl
@[simp] theorem State.delOp_stopFrom (s : State) (o : Nat) : (s.delOp o).stopFrom = s.stopFrom := rfl
@[simp] theorem State.delOp_prevPtime (s : State) (o : Nat) : (s.delOp o).prevPtime = s.prevPtime := rfl
@[simp] theorem State.delOp_stretchHold (s : State) (o : Nat) : (s.delOp o).stretchHold = s.stretchHold := rfl
@[simp] theorem State.delOp_groups (s : State) (o : Nat) : (s.delOp o).groups = s.groups := rfl
@[simp] theorem State.delOp_teams (s : State) (o : Nat) : (s.delOp o).teams = s.teams := rfl
@[simp] theorem State.delOp_cores (s : State) (o : Nat) : (s.delOp o).cores = s.cores := rfl
@[simp] theorem State.delOp_dies (s : State) (o : Nat) : (s.delOp o).dies = s.dies := rfl
@[simp] theorem State.delOp_slices (s : State) (o : Nat) : (s.delOp o).slices = s.slices := rfl
@[simp] theorem State.delOp_writes (s : State) (o : Nat) : (s.delOp o).writes = s.writes := rfl
@[simp] theorem State.delOp_lines (s : State) (o : Nat) : (s.delOp o).lines = s.lines := rfl
@[simp] theorem State.delOp_walks (s : State) (o : Nat) : (s.delOp o).walks = s.walks := rfl
@[simp] theorem State.delOp_walkFaults (s : State) (o : Nat) : (s.delOp o).walkFaults = s.walkFaults := rfl
@[simp] theorem State.delOp_fenReqs (s : State) (o : Nat) : (s.delOp o).fenReqs = s.fenReqs := rfl
@[simp] theorem State.delOp_fenOps (s : State) (o : Nat) : (s.delOp o).fenOps = s.fenOps := rfl
@[simp] theorem State.delOp_pkts (s : State) (o : Nat) : (s.delOp o).pkts = s.pkts := rfl
@[simp] theorem State.delOp_barMsgs (s : State) (o : Nat) : (s.delOp o).barMsgs = s.barMsgs := rfl
@[simp] theorem State.delOp_queues (s : State) (o : Nat) : (s.delOp o).queues = s.queues := rfl
@[simp] theorem State.delOp_alder (s : State) (o : Nat) : (s.delOp o).alder = s.alder := rfl
@[simp] theorem State.delOp_pod (s : State) (o : Nat) : (s.delOp o).pod = s.pod := rfl
@[simp] theorem State.delOp_pendingHost (s : State) (o : Nat) : (s.delOp o).pendingHost = s.pendingHost := rfl
@[simp] theorem State.delOp_posted (s : State) (o : Nat) : (s.delOp o).posted = s.posted := rfl
@[simp] theorem State.delOp_owed (s : State) (o : Nat) : (s.delOp o).owed = s.owed := rfl
@[simp] theorem State.delOp_ports (s : State) (o : Nat) : (s.delOp o).ports = s.ports := rfl
@[simp] theorem State.delOp_full (s : State) (o : Nat) : (s.delOp o).full = s.full := rfl
@[simp] theorem State.delOp_reduced (s : State) (o : Nat) : (s.delOp o).reduced = s.reduced := rfl
@[simp] theorem State.delOp_salcfg (s : State) (o : Nat) : (s.delOp o).salcfg = s.salcfg := rfl
@[simp] theorem State.delOp_modNum (s : State) (o : Nat) : (s.delOp o).modNum = s.modNum := rfl
@[simp] theorem State.delOp_cur (s : State) (o : Nat) : (s.delOp o).cur = s.cur := rfl
@[simp] theorem State.delOp_args (s : State) (o : Nat) : (s.delOp o).args = s.args := rfl
@[simp] theorem State.delOp_agenda (s : State) (o : Nat) : (s.delOp o).agenda = s.agenda := rfl
@[simp] theorem State.delOp_timed (s : State) (o : Nat) : (s.delOp o).timed = s.timed := rfl
@[simp] theorem State.delOp_nextId (s : State) (o : Nat) : (s.delOp o).nextId = s.nextId := rfl
@[simp] theorem State.delOp_draws (s : State) (o : Nat) : (s.delOp o).draws = s.draws := rfl
@[simp] theorem State.delOp_mem (s : State) (o : Nat) : (s.delOp o).mem = s.mem := rfl
@[simp] theorem State.delOp_poison (s : State) (o : Nat) : (s.delOp o).poison = s.poison := rfl
@[simp] theorem State.delOp_hostMem (s : State) (o : Nat) : (s.delOp o).hostMem = s.hostMem := rfl
@[simp] theorem State.delOp_frozen (s : State) (o : Nat) : (s.delOp o).frozen = s.frozen := rfl
@[simp] theorem State.delOp_attach (s : State) (o : Nat) : (s.delOp o).attach = s.attach := rfl
@[simp] theorem State.delOp_fcause (s : State) (o : Nat) : (s.delOp o).fcause = s.fcause := rfl
@[simp] theorem State.delOp_dumped (s : State) (o : Nat) : (s.delOp o).dumped = s.dumped := rfl
@[simp] theorem State.delOp_scanning (s : State) (o : Nat) : (s.delOp o).scanning = s.scanning := rfl
@[simp] theorem State.delOp_freport (s : State) (o : Nat) : (s.delOp o).freport = s.freport := rfl
@[simp] theorem State.delOp_bpSkip (s : State) (o : Nat) : (s.delOp o).bpSkip = s.bpSkip := rfl
@[simp] theorem State.delOp_ibps (s : State) (o : Nat) : (s.delOp o).ibps = s.ibps := rfl
@[simp] theorem State.delOp_strcnt (s : State) (o : Nat) : (s.delOp o).strcnt = s.strcnt := rfl
@[simp] theorem State.delOp_peatbase (s : State) (o : Nat) : (s.delOp o).peatbase = s.peatbase := rfl
@[simp] theorem State.delOp_peatsize (s : State) (o : Nat) : (s.delOp o).peatsize = s.peatsize := rfl
@[simp] theorem State.delOp_peat (s : State) (o : Nat) : (s.delOp o).peat = s.peat := rfl
@[simp] theorem State.delOp_gates (s : State) (o : Nat) : (s.delOp o).gates = s.gates := rfl
@[simp] theorem State.delOp_latch (s : State) (o : Nat) : (s.delOp o).latch = s.latch := rfl
@[simp] theorem State.delOp_gated (s : State) (o : Nat) : (s.delOp o).gated = s.gated := rfl
@[simp] theorem State.delOp_wakeAt (s : State) (o : Nat) : (s.delOp o).wakeAt = s.wakeAt := rfl
@[simp] theorem State.delOp_flash (s : State) (o : Nat) : (s.delOp o).flash = s.flash := rfl
@[simp] theorem State.delOp_phase (s : State) (o : Nat) : (s.delOp o).phase = s.phase := rfl
@[simp] theorem State.delOp_bootErr (s : State) (o : Nat) : (s.delOp o).bootErr = s.bootErr := rfl
@[simp] theorem State.delOp_errDie (s : State) (o : Nat) : (s.delOp o).errDie = s.errDie := rfl
@[simp] theorem State.delOp_bootNext (s : State) (o : Nat) : (s.delOp o).bootNext = s.bootNext := rfl
@[simp] theorem State.delOp_mboxin (s : State) (o : Nat) : (s.delOp o).mboxin = s.mboxin := rfl
@[simp] theorem State.delOp_mboxout (s : State) (o : Nat) : (s.delOp o).mboxout = s.mboxout := rfl
@[simp] theorem State.delOp_mr (s : State) (o : Nat) : (s.delOp o).mr = s.mr := rfl
@[simp] theorem State.delOp_alderKey (s : State) (o : Nat) : (s.delOp o).alderKey = s.alderKey := rfl
@[simp] theorem State.delOp_softErrs (s : State) (o : Nat) : (s.delOp o).softErrs = s.softErrs := rfl
@[simp] theorem State.delOp_linkWidth (s : State) (o : Nat) : (s.delOp o).linkWidth = s.linkWidth := rfl
@[simp] theorem State.delOp_linkRate (s : State) (o : Nat) : (s.delOp o).linkRate = s.linkRate := rfl
@[simp] theorem State.delOp_hostAtomics (s : State) (o : Nat) : (s.delOp o).hostAtomics = s.hostAtomics := rfl
@[simp] theorem State.delOp_fcLimits (s : State) (o : Nat) : (s.delOp o).fcLimits = s.fcLimits := rfl
@[simp] theorem State.delOp_sent (s : State) (o : Nat) : (s.delOp o).sent = s.sent := rfl
@[simp] theorem State.delOp_inbox (s : State) (o : Nat) : (s.delOp o).inbox = s.inbox := rfl

/-! ## modCtx -/

@[simp] theorem State.modCtx_ccount (s : State) (c : Nat) (f : Ctx → Ctx) : (s.modCtx c f).ccount = s.ccount := rfl
@[simp] theorem State.modCtx_ptime (s : State) (c : Nat) (f : Ctx → Ctx) : (s.modCtx c f).ptime = s.ptime := rfl
@[simp] theorem State.modCtx_step (s : State) (c : Nat) (f : Ctx → Ctx) : (s.modCtx c f).step = s.step := rfl
@[simp] theorem State.modCtx_stepReq (s : State) (c : Nat) (f : Ctx → Ctx) : (s.modCtx c f).stepReq = s.stepReq := rfl
@[simp] theorem State.modCtx_reqAt (s : State) (c : Nat) (f : Ctx → Ctx) : (s.modCtx c f).reqAt = s.reqAt := rfl
@[simp] theorem State.modCtx_pbase (s : State) (c : Nat) (f : Ctx → Ctx) : (s.modCtx c f).pbase = s.pbase := rfl
@[simp] theorem State.modCtx_wbase (s : State) (c : Nat) (f : Ctx → Ctx) : (s.modCtx c f).wbase = s.wbase := rfl
@[simp] theorem State.modCtx_rate (s : State) (c : Nat) (f : Ctx → Ctx) : (s.modCtx c f).rate = s.rate := rfl
@[simp] theorem State.modCtx_stopat (s : State) (c : Nat) (f : Ctx → Ctx) : (s.modCtx c f).stopat = s.stopat := rfl
@[simp] theorem State.modCtx_stopHit (s : State) (c : Nat) (f : Ctx → Ctx) : (s.modCtx c f).stopHit = s.stopHit := rfl
@[simp] theorem State.modCtx_stopFrom (s : State) (c : Nat) (f : Ctx → Ctx) : (s.modCtx c f).stopFrom = s.stopFrom := rfl
@[simp] theorem State.modCtx_prevPtime (s : State) (c : Nat) (f : Ctx → Ctx) : (s.modCtx c f).prevPtime = s.prevPtime := rfl
@[simp] theorem State.modCtx_stretchHold (s : State) (c : Nat) (f : Ctx → Ctx) : (s.modCtx c f).stretchHold = s.stretchHold := rfl
@[simp] theorem State.modCtx_groups (s : State) (c : Nat) (f : Ctx → Ctx) : (s.modCtx c f).groups = s.groups := rfl
@[simp] theorem State.modCtx_teams (s : State) (c : Nat) (f : Ctx → Ctx) : (s.modCtx c f).teams = s.teams := rfl
@[simp] theorem State.modCtx_cores (s : State) (c : Nat) (f : Ctx → Ctx) : (s.modCtx c f).cores = s.cores := rfl
@[simp] theorem State.modCtx_dies (s : State) (c : Nat) (f : Ctx → Ctx) : (s.modCtx c f).dies = s.dies := rfl
@[simp] theorem State.modCtx_slices (s : State) (c : Nat) (f : Ctx → Ctx) : (s.modCtx c f).slices = s.slices := rfl
@[simp] theorem State.modCtx_ops (s : State) (c : Nat) (f : Ctx → Ctx) : (s.modCtx c f).ops = s.ops := rfl
@[simp] theorem State.modCtx_writes (s : State) (c : Nat) (f : Ctx → Ctx) : (s.modCtx c f).writes = s.writes := rfl
@[simp] theorem State.modCtx_lines (s : State) (c : Nat) (f : Ctx → Ctx) : (s.modCtx c f).lines = s.lines := rfl
@[simp] theorem State.modCtx_walks (s : State) (c : Nat) (f : Ctx → Ctx) : (s.modCtx c f).walks = s.walks := rfl
@[simp] theorem State.modCtx_walkFaults (s : State) (c : Nat) (f : Ctx → Ctx) : (s.modCtx c f).walkFaults = s.walkFaults := rfl
@[simp] theorem State.modCtx_fenReqs (s : State) (c : Nat) (f : Ctx → Ctx) : (s.modCtx c f).fenReqs = s.fenReqs := rfl
@[simp] theorem State.modCtx_fenOps (s : State) (c : Nat) (f : Ctx → Ctx) : (s.modCtx c f).fenOps = s.fenOps := rfl
@[simp] theorem State.modCtx_pkts (s : State) (c : Nat) (f : Ctx → Ctx) : (s.modCtx c f).pkts = s.pkts := rfl
@[simp] theorem State.modCtx_barMsgs (s : State) (c : Nat) (f : Ctx → Ctx) : (s.modCtx c f).barMsgs = s.barMsgs := rfl
@[simp] theorem State.modCtx_queues (s : State) (c : Nat) (f : Ctx → Ctx) : (s.modCtx c f).queues = s.queues := rfl
@[simp] theorem State.modCtx_pod (s : State) (c : Nat) (f : Ctx → Ctx) : (s.modCtx c f).pod = s.pod := rfl
@[simp] theorem State.modCtx_pendingHost (s : State) (c : Nat) (f : Ctx → Ctx) : (s.modCtx c f).pendingHost = s.pendingHost := rfl
@[simp] theorem State.modCtx_posted (s : State) (c : Nat) (f : Ctx → Ctx) : (s.modCtx c f).posted = s.posted := rfl
@[simp] theorem State.modCtx_owed (s : State) (c : Nat) (f : Ctx → Ctx) : (s.modCtx c f).owed = s.owed := rfl
@[simp] theorem State.modCtx_ports (s : State) (c : Nat) (f : Ctx → Ctx) : (s.modCtx c f).ports = s.ports := rfl
@[simp] theorem State.modCtx_full (s : State) (c : Nat) (f : Ctx → Ctx) : (s.modCtx c f).full = s.full := rfl
@[simp] theorem State.modCtx_reduced (s : State) (c : Nat) (f : Ctx → Ctx) : (s.modCtx c f).reduced = s.reduced := rfl
@[simp] theorem State.modCtx_salcfg (s : State) (c : Nat) (f : Ctx → Ctx) : (s.modCtx c f).salcfg = s.salcfg := rfl
@[simp] theorem State.modCtx_modNum (s : State) (c : Nat) (f : Ctx → Ctx) : (s.modCtx c f).modNum = s.modNum := rfl
@[simp] theorem State.modCtx_cur (s : State) (c : Nat) (f : Ctx → Ctx) : (s.modCtx c f).cur = s.cur := rfl
@[simp] theorem State.modCtx_args (s : State) (c : Nat) (f : Ctx → Ctx) : (s.modCtx c f).args = s.args := rfl
@[simp] theorem State.modCtx_agenda (s : State) (c : Nat) (f : Ctx → Ctx) : (s.modCtx c f).agenda = s.agenda := rfl
@[simp] theorem State.modCtx_timed (s : State) (c : Nat) (f : Ctx → Ctx) : (s.modCtx c f).timed = s.timed := rfl
@[simp] theorem State.modCtx_nextId (s : State) (c : Nat) (f : Ctx → Ctx) : (s.modCtx c f).nextId = s.nextId := rfl
@[simp] theorem State.modCtx_draws (s : State) (c : Nat) (f : Ctx → Ctx) : (s.modCtx c f).draws = s.draws := rfl
@[simp] theorem State.modCtx_mem (s : State) (c : Nat) (f : Ctx → Ctx) : (s.modCtx c f).mem = s.mem := rfl
@[simp] theorem State.modCtx_poison (s : State) (c : Nat) (f : Ctx → Ctx) : (s.modCtx c f).poison = s.poison := rfl
@[simp] theorem State.modCtx_hostMem (s : State) (c : Nat) (f : Ctx → Ctx) : (s.modCtx c f).hostMem = s.hostMem := rfl
@[simp] theorem State.modCtx_frozen (s : State) (c : Nat) (f : Ctx → Ctx) : (s.modCtx c f).frozen = s.frozen := rfl
@[simp] theorem State.modCtx_attach (s : State) (c : Nat) (f : Ctx → Ctx) : (s.modCtx c f).attach = s.attach := rfl
@[simp] theorem State.modCtx_fcause (s : State) (c : Nat) (f : Ctx → Ctx) : (s.modCtx c f).fcause = s.fcause := rfl
@[simp] theorem State.modCtx_dumped (s : State) (c : Nat) (f : Ctx → Ctx) : (s.modCtx c f).dumped = s.dumped := rfl
@[simp] theorem State.modCtx_scanning (s : State) (c : Nat) (f : Ctx → Ctx) : (s.modCtx c f).scanning = s.scanning := rfl
@[simp] theorem State.modCtx_freport (s : State) (c : Nat) (f : Ctx → Ctx) : (s.modCtx c f).freport = s.freport := rfl
@[simp] theorem State.modCtx_bpSkip (s : State) (c : Nat) (f : Ctx → Ctx) : (s.modCtx c f).bpSkip = s.bpSkip := rfl
@[simp] theorem State.modCtx_ibps (s : State) (c : Nat) (f : Ctx → Ctx) : (s.modCtx c f).ibps = s.ibps := rfl
@[simp] theorem State.modCtx_strcnt (s : State) (c : Nat) (f : Ctx → Ctx) : (s.modCtx c f).strcnt = s.strcnt := rfl
@[simp] theorem State.modCtx_peatbase (s : State) (c : Nat) (f : Ctx → Ctx) : (s.modCtx c f).peatbase = s.peatbase := rfl
@[simp] theorem State.modCtx_peatsize (s : State) (c : Nat) (f : Ctx → Ctx) : (s.modCtx c f).peatsize = s.peatsize := rfl
@[simp] theorem State.modCtx_peat (s : State) (c : Nat) (f : Ctx → Ctx) : (s.modCtx c f).peat = s.peat := rfl
@[simp] theorem State.modCtx_gates (s : State) (c : Nat) (f : Ctx → Ctx) : (s.modCtx c f).gates = s.gates := rfl
@[simp] theorem State.modCtx_latch (s : State) (c : Nat) (f : Ctx → Ctx) : (s.modCtx c f).latch = s.latch := rfl
@[simp] theorem State.modCtx_gated (s : State) (c : Nat) (f : Ctx → Ctx) : (s.modCtx c f).gated = s.gated := rfl
@[simp] theorem State.modCtx_wakeAt (s : State) (c : Nat) (f : Ctx → Ctx) : (s.modCtx c f).wakeAt = s.wakeAt := rfl
@[simp] theorem State.modCtx_flash (s : State) (c : Nat) (f : Ctx → Ctx) : (s.modCtx c f).flash = s.flash := rfl
@[simp] theorem State.modCtx_phase (s : State) (c : Nat) (f : Ctx → Ctx) : (s.modCtx c f).phase = s.phase := rfl
@[simp] theorem State.modCtx_bootErr (s : State) (c : Nat) (f : Ctx → Ctx) : (s.modCtx c f).bootErr = s.bootErr := rfl
@[simp] theorem State.modCtx_errDie (s : State) (c : Nat) (f : Ctx → Ctx) : (s.modCtx c f).errDie = s.errDie := rfl
@[simp] theorem State.modCtx_bootNext (s : State) (c : Nat) (f : Ctx → Ctx) : (s.modCtx c f).bootNext = s.bootNext := rfl
@[simp] theorem State.modCtx_mboxin (s : State) (c : Nat) (f : Ctx → Ctx) : (s.modCtx c f).mboxin = s.mboxin := rfl
@[simp] theorem State.modCtx_mboxout (s : State) (c : Nat) (f : Ctx → Ctx) : (s.modCtx c f).mboxout = s.mboxout := rfl
@[simp] theorem State.modCtx_mr (s : State) (c : Nat) (f : Ctx → Ctx) : (s.modCtx c f).mr = s.mr := rfl
@[simp] theorem State.modCtx_alderKey (s : State) (c : Nat) (f : Ctx → Ctx) : (s.modCtx c f).alderKey = s.alderKey := rfl
@[simp] theorem State.modCtx_softErrs (s : State) (c : Nat) (f : Ctx → Ctx) : (s.modCtx c f).softErrs = s.softErrs := rfl
@[simp] theorem State.modCtx_linkWidth (s : State) (c : Nat) (f : Ctx → Ctx) : (s.modCtx c f).linkWidth = s.linkWidth := rfl
@[simp] theorem State.modCtx_linkRate (s : State) (c : Nat) (f : Ctx → Ctx) : (s.modCtx c f).linkRate = s.linkRate := rfl
@[simp] theorem State.modCtx_hostAtomics (s : State) (c : Nat) (f : Ctx → Ctx) : (s.modCtx c f).hostAtomics = s.hostAtomics := rfl
@[simp] theorem State.modCtx_fcLimits (s : State) (c : Nat) (f : Ctx → Ctx) : (s.modCtx c f).fcLimits = s.fcLimits := rfl
@[simp] theorem State.modCtx_sent (s : State) (c : Nat) (f : Ctx → Ctx) : (s.modCtx c f).sent = s.sent := rfl
@[simp] theorem State.modCtx_inbox (s : State) (c : Nat) (f : Ctx → Ctx) : (s.modCtx c f).inbox = s.inbox := rfl

/-! ## schedR -/

@[simp] theorem State.schedR_ccount (s : State) (n k : Nat) (i : Instr) (l : List Nat) : (s.schedR n k i l).ccount = s.ccount := rfl
@[simp] theorem State.schedR_ptime (s : State) (n k : Nat) (i : Instr) (l : List Nat) : (s.schedR n k i l).ptime = s.ptime := rfl
@[simp] theorem State.schedR_step (s : State) (n k : Nat) (i : Instr) (l : List Nat) : (s.schedR n k i l).step = s.step := rfl
@[simp] theorem State.schedR_stepReq (s : State) (n k : Nat) (i : Instr) (l : List Nat) : (s.schedR n k i l).stepReq = s.stepReq := rfl
@[simp] theorem State.schedR_reqAt (s : State) (n k : Nat) (i : Instr) (l : List Nat) : (s.schedR n k i l).reqAt = s.reqAt := rfl
@[simp] theorem State.schedR_pbase (s : State) (n k : Nat) (i : Instr) (l : List Nat) : (s.schedR n k i l).pbase = s.pbase := rfl
@[simp] theorem State.schedR_wbase (s : State) (n k : Nat) (i : Instr) (l : List Nat) : (s.schedR n k i l).wbase = s.wbase := rfl
@[simp] theorem State.schedR_rate (s : State) (n k : Nat) (i : Instr) (l : List Nat) : (s.schedR n k i l).rate = s.rate := rfl
@[simp] theorem State.schedR_stopat (s : State) (n k : Nat) (i : Instr) (l : List Nat) : (s.schedR n k i l).stopat = s.stopat := rfl
@[simp] theorem State.schedR_stopHit (s : State) (n k : Nat) (i : Instr) (l : List Nat) : (s.schedR n k i l).stopHit = s.stopHit := rfl
@[simp] theorem State.schedR_stopFrom (s : State) (n k : Nat) (i : Instr) (l : List Nat) : (s.schedR n k i l).stopFrom = s.stopFrom := rfl
@[simp] theorem State.schedR_prevPtime (s : State) (n k : Nat) (i : Instr) (l : List Nat) : (s.schedR n k i l).prevPtime = s.prevPtime := rfl
@[simp] theorem State.schedR_stretchHold (s : State) (n k : Nat) (i : Instr) (l : List Nat) : (s.schedR n k i l).stretchHold = s.stretchHold := rfl
@[simp] theorem State.schedR_groups (s : State) (n k : Nat) (i : Instr) (l : List Nat) : (s.schedR n k i l).groups = s.groups := rfl
@[simp] theorem State.schedR_teams (s : State) (n k : Nat) (i : Instr) (l : List Nat) : (s.schedR n k i l).teams = s.teams := rfl
@[simp] theorem State.schedR_cores (s : State) (n k : Nat) (i : Instr) (l : List Nat) : (s.schedR n k i l).cores = s.cores := rfl
@[simp] theorem State.schedR_dies (s : State) (n k : Nat) (i : Instr) (l : List Nat) : (s.schedR n k i l).dies = s.dies := rfl
@[simp] theorem State.schedR_slices (s : State) (n k : Nat) (i : Instr) (l : List Nat) : (s.schedR n k i l).slices = s.slices := rfl
@[simp] theorem State.schedR_ops (s : State) (n k : Nat) (i : Instr) (l : List Nat) : (s.schedR n k i l).ops = s.ops := rfl
@[simp] theorem State.schedR_writes (s : State) (n k : Nat) (i : Instr) (l : List Nat) : (s.schedR n k i l).writes = s.writes := rfl
@[simp] theorem State.schedR_lines (s : State) (n k : Nat) (i : Instr) (l : List Nat) : (s.schedR n k i l).lines = s.lines := rfl
@[simp] theorem State.schedR_walks (s : State) (n k : Nat) (i : Instr) (l : List Nat) : (s.schedR n k i l).walks = s.walks := rfl
@[simp] theorem State.schedR_walkFaults (s : State) (n k : Nat) (i : Instr) (l : List Nat) : (s.schedR n k i l).walkFaults = s.walkFaults := rfl
@[simp] theorem State.schedR_fenReqs (s : State) (n k : Nat) (i : Instr) (l : List Nat) : (s.schedR n k i l).fenReqs = s.fenReqs := rfl
@[simp] theorem State.schedR_fenOps (s : State) (n k : Nat) (i : Instr) (l : List Nat) : (s.schedR n k i l).fenOps = s.fenOps := rfl
@[simp] theorem State.schedR_pkts (s : State) (n k : Nat) (i : Instr) (l : List Nat) : (s.schedR n k i l).pkts = s.pkts := rfl
@[simp] theorem State.schedR_barMsgs (s : State) (n k : Nat) (i : Instr) (l : List Nat) : (s.schedR n k i l).barMsgs = s.barMsgs := rfl
@[simp] theorem State.schedR_queues (s : State) (n k : Nat) (i : Instr) (l : List Nat) : (s.schedR n k i l).queues = s.queues := rfl
@[simp] theorem State.schedR_alder (s : State) (n k : Nat) (i : Instr) (l : List Nat) : (s.schedR n k i l).alder = s.alder := rfl
@[simp] theorem State.schedR_pod (s : State) (n k : Nat) (i : Instr) (l : List Nat) : (s.schedR n k i l).pod = s.pod := rfl
@[simp] theorem State.schedR_pendingHost (s : State) (n k : Nat) (i : Instr) (l : List Nat) : (s.schedR n k i l).pendingHost = s.pendingHost := rfl
@[simp] theorem State.schedR_posted (s : State) (n k : Nat) (i : Instr) (l : List Nat) : (s.schedR n k i l).posted = s.posted := rfl
@[simp] theorem State.schedR_owed (s : State) (n k : Nat) (i : Instr) (l : List Nat) : (s.schedR n k i l).owed = s.owed := rfl
@[simp] theorem State.schedR_ports (s : State) (n k : Nat) (i : Instr) (l : List Nat) : (s.schedR n k i l).ports = s.ports := rfl
@[simp] theorem State.schedR_full (s : State) (n k : Nat) (i : Instr) (l : List Nat) : (s.schedR n k i l).full = s.full := rfl
@[simp] theorem State.schedR_reduced (s : State) (n k : Nat) (i : Instr) (l : List Nat) : (s.schedR n k i l).reduced = s.reduced := rfl
@[simp] theorem State.schedR_salcfg (s : State) (n k : Nat) (i : Instr) (l : List Nat) : (s.schedR n k i l).salcfg = s.salcfg := rfl
@[simp] theorem State.schedR_modNum (s : State) (n k : Nat) (i : Instr) (l : List Nat) : (s.schedR n k i l).modNum = s.modNum := rfl
@[simp] theorem State.schedR_cur (s : State) (n k : Nat) (i : Instr) (l : List Nat) : (s.schedR n k i l).cur = s.cur := rfl
@[simp] theorem State.schedR_args (s : State) (n k : Nat) (i : Instr) (l : List Nat) : (s.schedR n k i l).args = s.args := rfl
@[simp] theorem State.schedR_agenda (s : State) (n k : Nat) (i : Instr) (l : List Nat) : (s.schedR n k i l).agenda = s.agenda := rfl
@[simp] theorem State.schedR_nextId (s : State) (n k : Nat) (i : Instr) (l : List Nat) : (s.schedR n k i l).nextId = s.nextId := rfl
@[simp] theorem State.schedR_draws (s : State) (n k : Nat) (i : Instr) (l : List Nat) : (s.schedR n k i l).draws = s.draws := rfl
@[simp] theorem State.schedR_mem (s : State) (n k : Nat) (i : Instr) (l : List Nat) : (s.schedR n k i l).mem = s.mem := rfl
@[simp] theorem State.schedR_poison (s : State) (n k : Nat) (i : Instr) (l : List Nat) : (s.schedR n k i l).poison = s.poison := rfl
@[simp] theorem State.schedR_hostMem (s : State) (n k : Nat) (i : Instr) (l : List Nat) : (s.schedR n k i l).hostMem = s.hostMem := rfl
@[simp] theorem State.schedR_frozen (s : State) (n k : Nat) (i : Instr) (l : List Nat) : (s.schedR n k i l).frozen = s.frozen := rfl
@[simp] theorem State.schedR_attach (s : State) (n k : Nat) (i : Instr) (l : List Nat) : (s.schedR n k i l).attach = s.attach := rfl
@[simp] theorem State.schedR_fcause (s : State) (n k : Nat) (i : Instr) (l : List Nat) : (s.schedR n k i l).fcause = s.fcause := rfl
@[simp] theorem State.schedR_dumped (s : State) (n k : Nat) (i : Instr) (l : List Nat) : (s.schedR n k i l).dumped = s.dumped := rfl
@[simp] theorem State.schedR_scanning (s : State) (n k : Nat) (i : Instr) (l : List Nat) : (s.schedR n k i l).scanning = s.scanning := rfl
@[simp] theorem State.schedR_freport (s : State) (n k : Nat) (i : Instr) (l : List Nat) : (s.schedR n k i l).freport = s.freport := rfl
@[simp] theorem State.schedR_bpSkip (s : State) (n k : Nat) (i : Instr) (l : List Nat) : (s.schedR n k i l).bpSkip = s.bpSkip := rfl
@[simp] theorem State.schedR_ibps (s : State) (n k : Nat) (i : Instr) (l : List Nat) : (s.schedR n k i l).ibps = s.ibps := rfl
@[simp] theorem State.schedR_strcnt (s : State) (n k : Nat) (i : Instr) (l : List Nat) : (s.schedR n k i l).strcnt = s.strcnt := rfl
@[simp] theorem State.schedR_peatbase (s : State) (n k : Nat) (i : Instr) (l : List Nat) : (s.schedR n k i l).peatbase = s.peatbase := rfl
@[simp] theorem State.schedR_peatsize (s : State) (n k : Nat) (i : Instr) (l : List Nat) : (s.schedR n k i l).peatsize = s.peatsize := rfl
@[simp] theorem State.schedR_peat (s : State) (n k : Nat) (i : Instr) (l : List Nat) : (s.schedR n k i l).peat = s.peat := rfl
@[simp] theorem State.schedR_gates (s : State) (n k : Nat) (i : Instr) (l : List Nat) : (s.schedR n k i l).gates = s.gates := rfl
@[simp] theorem State.schedR_latch (s : State) (n k : Nat) (i : Instr) (l : List Nat) : (s.schedR n k i l).latch = s.latch := rfl
@[simp] theorem State.schedR_gated (s : State) (n k : Nat) (i : Instr) (l : List Nat) : (s.schedR n k i l).gated = s.gated := rfl
@[simp] theorem State.schedR_wakeAt (s : State) (n k : Nat) (i : Instr) (l : List Nat) : (s.schedR n k i l).wakeAt = s.wakeAt := rfl
@[simp] theorem State.schedR_flash (s : State) (n k : Nat) (i : Instr) (l : List Nat) : (s.schedR n k i l).flash = s.flash := rfl
@[simp] theorem State.schedR_phase (s : State) (n k : Nat) (i : Instr) (l : List Nat) : (s.schedR n k i l).phase = s.phase := rfl
@[simp] theorem State.schedR_bootErr (s : State) (n k : Nat) (i : Instr) (l : List Nat) : (s.schedR n k i l).bootErr = s.bootErr := rfl
@[simp] theorem State.schedR_errDie (s : State) (n k : Nat) (i : Instr) (l : List Nat) : (s.schedR n k i l).errDie = s.errDie := rfl
@[simp] theorem State.schedR_bootNext (s : State) (n k : Nat) (i : Instr) (l : List Nat) : (s.schedR n k i l).bootNext = s.bootNext := rfl
@[simp] theorem State.schedR_mboxin (s : State) (n k : Nat) (i : Instr) (l : List Nat) : (s.schedR n k i l).mboxin = s.mboxin := rfl
@[simp] theorem State.schedR_mboxout (s : State) (n k : Nat) (i : Instr) (l : List Nat) : (s.schedR n k i l).mboxout = s.mboxout := rfl
@[simp] theorem State.schedR_mr (s : State) (n k : Nat) (i : Instr) (l : List Nat) : (s.schedR n k i l).mr = s.mr := rfl
@[simp] theorem State.schedR_alderKey (s : State) (n k : Nat) (i : Instr) (l : List Nat) : (s.schedR n k i l).alderKey = s.alderKey := rfl
@[simp] theorem State.schedR_softErrs (s : State) (n k : Nat) (i : Instr) (l : List Nat) : (s.schedR n k i l).softErrs = s.softErrs := rfl
@[simp] theorem State.schedR_linkWidth (s : State) (n k : Nat) (i : Instr) (l : List Nat) : (s.schedR n k i l).linkWidth = s.linkWidth := rfl
@[simp] theorem State.schedR_linkRate (s : State) (n k : Nat) (i : Instr) (l : List Nat) : (s.schedR n k i l).linkRate = s.linkRate := rfl
@[simp] theorem State.schedR_hostAtomics (s : State) (n k : Nat) (i : Instr) (l : List Nat) : (s.schedR n k i l).hostAtomics = s.hostAtomics := rfl
@[simp] theorem State.schedR_fcLimits (s : State) (n k : Nat) (i : Instr) (l : List Nat) : (s.schedR n k i l).fcLimits = s.fcLimits := rfl
@[simp] theorem State.schedR_sent (s : State) (n k : Nat) (i : Instr) (l : List Nat) : (s.schedR n k i l).sent = s.sent := rfl
@[simp] theorem State.schedR_inbox (s : State) (n k : Nat) (i : Instr) (l : List Nat) : (s.schedR n k i l).inbox = s.inbox := rfl

/-! ## sched -/

@[simp] theorem State.sched_ccount (s : State) (n : Nat) (i : Instr) (l : List Nat) : (s.sched n i l).ccount = s.ccount := rfl
@[simp] theorem State.sched_ptime (s : State) (n : Nat) (i : Instr) (l : List Nat) : (s.sched n i l).ptime = s.ptime := rfl
@[simp] theorem State.sched_step (s : State) (n : Nat) (i : Instr) (l : List Nat) : (s.sched n i l).step = s.step := rfl
@[simp] theorem State.sched_stepReq (s : State) (n : Nat) (i : Instr) (l : List Nat) : (s.sched n i l).stepReq = s.stepReq := rfl
@[simp] theorem State.sched_reqAt (s : State) (n : Nat) (i : Instr) (l : List Nat) : (s.sched n i l).reqAt = s.reqAt := rfl
@[simp] theorem State.sched_pbase (s : State) (n : Nat) (i : Instr) (l : List Nat) : (s.sched n i l).pbase = s.pbase := rfl
@[simp] theorem State.sched_wbase (s : State) (n : Nat) (i : Instr) (l : List Nat) : (s.sched n i l).wbase = s.wbase := rfl
@[simp] theorem State.sched_rate (s : State) (n : Nat) (i : Instr) (l : List Nat) : (s.sched n i l).rate = s.rate := rfl
@[simp] theorem State.sched_stopat (s : State) (n : Nat) (i : Instr) (l : List Nat) : (s.sched n i l).stopat = s.stopat := rfl
@[simp] theorem State.sched_stopHit (s : State) (n : Nat) (i : Instr) (l : List Nat) : (s.sched n i l).stopHit = s.stopHit := rfl
@[simp] theorem State.sched_stopFrom (s : State) (n : Nat) (i : Instr) (l : List Nat) : (s.sched n i l).stopFrom = s.stopFrom := rfl
@[simp] theorem State.sched_prevPtime (s : State) (n : Nat) (i : Instr) (l : List Nat) : (s.sched n i l).prevPtime = s.prevPtime := rfl
@[simp] theorem State.sched_stretchHold (s : State) (n : Nat) (i : Instr) (l : List Nat) : (s.sched n i l).stretchHold = s.stretchHold := rfl
@[simp] theorem State.sched_groups (s : State) (n : Nat) (i : Instr) (l : List Nat) : (s.sched n i l).groups = s.groups := rfl
@[simp] theorem State.sched_teams (s : State) (n : Nat) (i : Instr) (l : List Nat) : (s.sched n i l).teams = s.teams := rfl
@[simp] theorem State.sched_cores (s : State) (n : Nat) (i : Instr) (l : List Nat) : (s.sched n i l).cores = s.cores := rfl
@[simp] theorem State.sched_dies (s : State) (n : Nat) (i : Instr) (l : List Nat) : (s.sched n i l).dies = s.dies := rfl
@[simp] theorem State.sched_slices (s : State) (n : Nat) (i : Instr) (l : List Nat) : (s.sched n i l).slices = s.slices := rfl
@[simp] theorem State.sched_ops (s : State) (n : Nat) (i : Instr) (l : List Nat) : (s.sched n i l).ops = s.ops := rfl
@[simp] theorem State.sched_writes (s : State) (n : Nat) (i : Instr) (l : List Nat) : (s.sched n i l).writes = s.writes := rfl
@[simp] theorem State.sched_lines (s : State) (n : Nat) (i : Instr) (l : List Nat) : (s.sched n i l).lines = s.lines := rfl
@[simp] theorem State.sched_walks (s : State) (n : Nat) (i : Instr) (l : List Nat) : (s.sched n i l).walks = s.walks := rfl
@[simp] theorem State.sched_walkFaults (s : State) (n : Nat) (i : Instr) (l : List Nat) : (s.sched n i l).walkFaults = s.walkFaults := rfl
@[simp] theorem State.sched_fenReqs (s : State) (n : Nat) (i : Instr) (l : List Nat) : (s.sched n i l).fenReqs = s.fenReqs := rfl
@[simp] theorem State.sched_fenOps (s : State) (n : Nat) (i : Instr) (l : List Nat) : (s.sched n i l).fenOps = s.fenOps := rfl
@[simp] theorem State.sched_pkts (s : State) (n : Nat) (i : Instr) (l : List Nat) : (s.sched n i l).pkts = s.pkts := rfl
@[simp] theorem State.sched_barMsgs (s : State) (n : Nat) (i : Instr) (l : List Nat) : (s.sched n i l).barMsgs = s.barMsgs := rfl
@[simp] theorem State.sched_queues (s : State) (n : Nat) (i : Instr) (l : List Nat) : (s.sched n i l).queues = s.queues := rfl
@[simp] theorem State.sched_alder (s : State) (n : Nat) (i : Instr) (l : List Nat) : (s.sched n i l).alder = s.alder := rfl
@[simp] theorem State.sched_pod (s : State) (n : Nat) (i : Instr) (l : List Nat) : (s.sched n i l).pod = s.pod := rfl
@[simp] theorem State.sched_pendingHost (s : State) (n : Nat) (i : Instr) (l : List Nat) : (s.sched n i l).pendingHost = s.pendingHost := rfl
@[simp] theorem State.sched_posted (s : State) (n : Nat) (i : Instr) (l : List Nat) : (s.sched n i l).posted = s.posted := rfl
@[simp] theorem State.sched_owed (s : State) (n : Nat) (i : Instr) (l : List Nat) : (s.sched n i l).owed = s.owed := rfl
@[simp] theorem State.sched_ports (s : State) (n : Nat) (i : Instr) (l : List Nat) : (s.sched n i l).ports = s.ports := rfl
@[simp] theorem State.sched_full (s : State) (n : Nat) (i : Instr) (l : List Nat) : (s.sched n i l).full = s.full := rfl
@[simp] theorem State.sched_reduced (s : State) (n : Nat) (i : Instr) (l : List Nat) : (s.sched n i l).reduced = s.reduced := rfl
@[simp] theorem State.sched_salcfg (s : State) (n : Nat) (i : Instr) (l : List Nat) : (s.sched n i l).salcfg = s.salcfg := rfl
@[simp] theorem State.sched_modNum (s : State) (n : Nat) (i : Instr) (l : List Nat) : (s.sched n i l).modNum = s.modNum := rfl
@[simp] theorem State.sched_cur (s : State) (n : Nat) (i : Instr) (l : List Nat) : (s.sched n i l).cur = s.cur := rfl
@[simp] theorem State.sched_args (s : State) (n : Nat) (i : Instr) (l : List Nat) : (s.sched n i l).args = s.args := rfl
@[simp] theorem State.sched_agenda (s : State) (n : Nat) (i : Instr) (l : List Nat) : (s.sched n i l).agenda = s.agenda := rfl
@[simp] theorem State.sched_nextId (s : State) (n : Nat) (i : Instr) (l : List Nat) : (s.sched n i l).nextId = s.nextId := rfl
@[simp] theorem State.sched_draws (s : State) (n : Nat) (i : Instr) (l : List Nat) : (s.sched n i l).draws = s.draws := rfl
@[simp] theorem State.sched_mem (s : State) (n : Nat) (i : Instr) (l : List Nat) : (s.sched n i l).mem = s.mem := rfl
@[simp] theorem State.sched_poison (s : State) (n : Nat) (i : Instr) (l : List Nat) : (s.sched n i l).poison = s.poison := rfl
@[simp] theorem State.sched_hostMem (s : State) (n : Nat) (i : Instr) (l : List Nat) : (s.sched n i l).hostMem = s.hostMem := rfl
@[simp] theorem State.sched_frozen (s : State) (n : Nat) (i : Instr) (l : List Nat) : (s.sched n i l).frozen = s.frozen := rfl
@[simp] theorem State.sched_attach (s : State) (n : Nat) (i : Instr) (l : List Nat) : (s.sched n i l).attach = s.attach := rfl
@[simp] theorem State.sched_fcause (s : State) (n : Nat) (i : Instr) (l : List Nat) : (s.sched n i l).fcause = s.fcause := rfl
@[simp] theorem State.sched_dumped (s : State) (n : Nat) (i : Instr) (l : List Nat) : (s.sched n i l).dumped = s.dumped := rfl
@[simp] theorem State.sched_scanning (s : State) (n : Nat) (i : Instr) (l : List Nat) : (s.sched n i l).scanning = s.scanning := rfl
@[simp] theorem State.sched_freport (s : State) (n : Nat) (i : Instr) (l : List Nat) : (s.sched n i l).freport = s.freport := rfl
@[simp] theorem State.sched_bpSkip (s : State) (n : Nat) (i : Instr) (l : List Nat) : (s.sched n i l).bpSkip = s.bpSkip := rfl
@[simp] theorem State.sched_ibps (s : State) (n : Nat) (i : Instr) (l : List Nat) : (s.sched n i l).ibps = s.ibps := rfl
@[simp] theorem State.sched_strcnt (s : State) (n : Nat) (i : Instr) (l : List Nat) : (s.sched n i l).strcnt = s.strcnt := rfl
@[simp] theorem State.sched_peatbase (s : State) (n : Nat) (i : Instr) (l : List Nat) : (s.sched n i l).peatbase = s.peatbase := rfl
@[simp] theorem State.sched_peatsize (s : State) (n : Nat) (i : Instr) (l : List Nat) : (s.sched n i l).peatsize = s.peatsize := rfl
@[simp] theorem State.sched_peat (s : State) (n : Nat) (i : Instr) (l : List Nat) : (s.sched n i l).peat = s.peat := rfl
@[simp] theorem State.sched_gates (s : State) (n : Nat) (i : Instr) (l : List Nat) : (s.sched n i l).gates = s.gates := rfl
@[simp] theorem State.sched_latch (s : State) (n : Nat) (i : Instr) (l : List Nat) : (s.sched n i l).latch = s.latch := rfl
@[simp] theorem State.sched_gated (s : State) (n : Nat) (i : Instr) (l : List Nat) : (s.sched n i l).gated = s.gated := rfl
@[simp] theorem State.sched_wakeAt (s : State) (n : Nat) (i : Instr) (l : List Nat) : (s.sched n i l).wakeAt = s.wakeAt := rfl
@[simp] theorem State.sched_flash (s : State) (n : Nat) (i : Instr) (l : List Nat) : (s.sched n i l).flash = s.flash := rfl
@[simp] theorem State.sched_phase (s : State) (n : Nat) (i : Instr) (l : List Nat) : (s.sched n i l).phase = s.phase := rfl
@[simp] theorem State.sched_bootErr (s : State) (n : Nat) (i : Instr) (l : List Nat) : (s.sched n i l).bootErr = s.bootErr := rfl
@[simp] theorem State.sched_errDie (s : State) (n : Nat) (i : Instr) (l : List Nat) : (s.sched n i l).errDie = s.errDie := rfl
@[simp] theorem State.sched_bootNext (s : State) (n : Nat) (i : Instr) (l : List Nat) : (s.sched n i l).bootNext = s.bootNext := rfl
@[simp] theorem State.sched_mboxin (s : State) (n : Nat) (i : Instr) (l : List Nat) : (s.sched n i l).mboxin = s.mboxin := rfl
@[simp] theorem State.sched_mboxout (s : State) (n : Nat) (i : Instr) (l : List Nat) : (s.sched n i l).mboxout = s.mboxout := rfl
@[simp] theorem State.sched_mr (s : State) (n : Nat) (i : Instr) (l : List Nat) : (s.sched n i l).mr = s.mr := rfl
@[simp] theorem State.sched_alderKey (s : State) (n : Nat) (i : Instr) (l : List Nat) : (s.sched n i l).alderKey = s.alderKey := rfl
@[simp] theorem State.sched_softErrs (s : State) (n : Nat) (i : Instr) (l : List Nat) : (s.sched n i l).softErrs = s.softErrs := rfl
@[simp] theorem State.sched_linkWidth (s : State) (n : Nat) (i : Instr) (l : List Nat) : (s.sched n i l).linkWidth = s.linkWidth := rfl
@[simp] theorem State.sched_linkRate (s : State) (n : Nat) (i : Instr) (l : List Nat) : (s.sched n i l).linkRate = s.linkRate := rfl
@[simp] theorem State.sched_hostAtomics (s : State) (n : Nat) (i : Instr) (l : List Nat) : (s.sched n i l).hostAtomics = s.hostAtomics := rfl
@[simp] theorem State.sched_fcLimits (s : State) (n : Nat) (i : Instr) (l : List Nat) : (s.sched n i l).fcLimits = s.fcLimits := rfl
@[simp] theorem State.sched_sent (s : State) (n : Nat) (i : Instr) (l : List Nat) : (s.sched n i l).sent = s.sent := rfl
@[simp] theorem State.sched_inbox (s : State) (n : Nat) (i : Instr) (l : List Nat) : (s.sched n i l).inbox = s.inbox := rfl

/-! ## schedAt -/

@[simp] theorem State.schedAt_ccount (s : State) (n : Nat) (i : Instr) (l : List Nat) : (s.schedAt n i l).ccount = s.ccount := rfl
@[simp] theorem State.schedAt_ptime (s : State) (n : Nat) (i : Instr) (l : List Nat) : (s.schedAt n i l).ptime = s.ptime := rfl
@[simp] theorem State.schedAt_step (s : State) (n : Nat) (i : Instr) (l : List Nat) : (s.schedAt n i l).step = s.step := rfl
@[simp] theorem State.schedAt_stepReq (s : State) (n : Nat) (i : Instr) (l : List Nat) : (s.schedAt n i l).stepReq = s.stepReq := rfl
@[simp] theorem State.schedAt_reqAt (s : State) (n : Nat) (i : Instr) (l : List Nat) : (s.schedAt n i l).reqAt = s.reqAt := rfl
@[simp] theorem State.schedAt_pbase (s : State) (n : Nat) (i : Instr) (l : List Nat) : (s.schedAt n i l).pbase = s.pbase := rfl
@[simp] theorem State.schedAt_wbase (s : State) (n : Nat) (i : Instr) (l : List Nat) : (s.schedAt n i l).wbase = s.wbase := rfl
@[simp] theorem State.schedAt_rate (s : State) (n : Nat) (i : Instr) (l : List Nat) : (s.schedAt n i l).rate = s.rate := rfl
@[simp] theorem State.schedAt_stopat (s : State) (n : Nat) (i : Instr) (l : List Nat) : (s.schedAt n i l).stopat = s.stopat := rfl
@[simp] theorem State.schedAt_stopHit (s : State) (n : Nat) (i : Instr) (l : List Nat) : (s.schedAt n i l).stopHit = s.stopHit := rfl
@[simp] theorem State.schedAt_stopFrom (s : State) (n : Nat) (i : Instr) (l : List Nat) : (s.schedAt n i l).stopFrom = s.stopFrom := rfl
@[simp] theorem State.schedAt_prevPtime (s : State) (n : Nat) (i : Instr) (l : List Nat) : (s.schedAt n i l).prevPtime = s.prevPtime := rfl
@[simp] theorem State.schedAt_stretchHold (s : State) (n : Nat) (i : Instr) (l : List Nat) : (s.schedAt n i l).stretchHold = s.stretchHold := rfl
@[simp] theorem State.schedAt_groups (s : State) (n : Nat) (i : Instr) (l : List Nat) : (s.schedAt n i l).groups = s.groups := rfl
@[simp] theorem State.schedAt_teams (s : State) (n : Nat) (i : Instr) (l : List Nat) : (s.schedAt n i l).teams = s.teams := rfl
@[simp] theorem State.schedAt_cores (s : State) (n : Nat) (i : Instr) (l : List Nat) : (s.schedAt n i l).cores = s.cores := rfl
@[simp] theorem State.schedAt_dies (s : State) (n : Nat) (i : Instr) (l : List Nat) : (s.schedAt n i l).dies = s.dies := rfl
@[simp] theorem State.schedAt_slices (s : State) (n : Nat) (i : Instr) (l : List Nat) : (s.schedAt n i l).slices = s.slices := rfl
@[simp] theorem State.schedAt_ops (s : State) (n : Nat) (i : Instr) (l : List Nat) : (s.schedAt n i l).ops = s.ops := rfl
@[simp] theorem State.schedAt_writes (s : State) (n : Nat) (i : Instr) (l : List Nat) : (s.schedAt n i l).writes = s.writes := rfl
@[simp] theorem State.schedAt_lines (s : State) (n : Nat) (i : Instr) (l : List Nat) : (s.schedAt n i l).lines = s.lines := rfl
@[simp] theorem State.schedAt_walks (s : State) (n : Nat) (i : Instr) (l : List Nat) : (s.schedAt n i l).walks = s.walks := rfl
@[simp] theorem State.schedAt_walkFaults (s : State) (n : Nat) (i : Instr) (l : List Nat) : (s.schedAt n i l).walkFaults = s.walkFaults := rfl
@[simp] theorem State.schedAt_fenReqs (s : State) (n : Nat) (i : Instr) (l : List Nat) : (s.schedAt n i l).fenReqs = s.fenReqs := rfl
@[simp] theorem State.schedAt_fenOps (s : State) (n : Nat) (i : Instr) (l : List Nat) : (s.schedAt n i l).fenOps = s.fenOps := rfl
@[simp] theorem State.schedAt_pkts (s : State) (n : Nat) (i : Instr) (l : List Nat) : (s.schedAt n i l).pkts = s.pkts := rfl
@[simp] theorem State.schedAt_barMsgs (s : State) (n : Nat) (i : Instr) (l : List Nat) : (s.schedAt n i l).barMsgs = s.barMsgs := rfl
@[simp] theorem State.schedAt_queues (s : State) (n : Nat) (i : Instr) (l : List Nat) : (s.schedAt n i l).queues = s.queues := rfl
@[simp] theorem State.schedAt_alder (s : State) (n : Nat) (i : Instr) (l : List Nat) : (s.schedAt n i l).alder = s.alder := rfl
@[simp] theorem State.schedAt_pod (s : State) (n : Nat) (i : Instr) (l : List Nat) : (s.schedAt n i l).pod = s.pod := rfl
@[simp] theorem State.schedAt_pendingHost (s : State) (n : Nat) (i : Instr) (l : List Nat) : (s.schedAt n i l).pendingHost = s.pendingHost := rfl
@[simp] theorem State.schedAt_posted (s : State) (n : Nat) (i : Instr) (l : List Nat) : (s.schedAt n i l).posted = s.posted := rfl
@[simp] theorem State.schedAt_owed (s : State) (n : Nat) (i : Instr) (l : List Nat) : (s.schedAt n i l).owed = s.owed := rfl
@[simp] theorem State.schedAt_ports (s : State) (n : Nat) (i : Instr) (l : List Nat) : (s.schedAt n i l).ports = s.ports := rfl
@[simp] theorem State.schedAt_full (s : State) (n : Nat) (i : Instr) (l : List Nat) : (s.schedAt n i l).full = s.full := rfl
@[simp] theorem State.schedAt_reduced (s : State) (n : Nat) (i : Instr) (l : List Nat) : (s.schedAt n i l).reduced = s.reduced := rfl
@[simp] theorem State.schedAt_salcfg (s : State) (n : Nat) (i : Instr) (l : List Nat) : (s.schedAt n i l).salcfg = s.salcfg := rfl
@[simp] theorem State.schedAt_modNum (s : State) (n : Nat) (i : Instr) (l : List Nat) : (s.schedAt n i l).modNum = s.modNum := rfl
@[simp] theorem State.schedAt_cur (s : State) (n : Nat) (i : Instr) (l : List Nat) : (s.schedAt n i l).cur = s.cur := rfl
@[simp] theorem State.schedAt_args (s : State) (n : Nat) (i : Instr) (l : List Nat) : (s.schedAt n i l).args = s.args := rfl
@[simp] theorem State.schedAt_agenda (s : State) (n : Nat) (i : Instr) (l : List Nat) : (s.schedAt n i l).agenda = s.agenda := rfl
@[simp] theorem State.schedAt_nextId (s : State) (n : Nat) (i : Instr) (l : List Nat) : (s.schedAt n i l).nextId = s.nextId := rfl
@[simp] theorem State.schedAt_draws (s : State) (n : Nat) (i : Instr) (l : List Nat) : (s.schedAt n i l).draws = s.draws := rfl
@[simp] theorem State.schedAt_mem (s : State) (n : Nat) (i : Instr) (l : List Nat) : (s.schedAt n i l).mem = s.mem := rfl
@[simp] theorem State.schedAt_poison (s : State) (n : Nat) (i : Instr) (l : List Nat) : (s.schedAt n i l).poison = s.poison := rfl
@[simp] theorem State.schedAt_hostMem (s : State) (n : Nat) (i : Instr) (l : List Nat) : (s.schedAt n i l).hostMem = s.hostMem := rfl
@[simp] theorem State.schedAt_frozen (s : State) (n : Nat) (i : Instr) (l : List Nat) : (s.schedAt n i l).frozen = s.frozen := rfl
@[simp] theorem State.schedAt_attach (s : State) (n : Nat) (i : Instr) (l : List Nat) : (s.schedAt n i l).attach = s.attach := rfl
@[simp] theorem State.schedAt_fcause (s : State) (n : Nat) (i : Instr) (l : List Nat) : (s.schedAt n i l).fcause = s.fcause := rfl
@[simp] theorem State.schedAt_dumped (s : State) (n : Nat) (i : Instr) (l : List Nat) : (s.schedAt n i l).dumped = s.dumped := rfl
@[simp] theorem State.schedAt_scanning (s : State) (n : Nat) (i : Instr) (l : List Nat) : (s.schedAt n i l).scanning = s.scanning := rfl
@[simp] theorem State.schedAt_freport (s : State) (n : Nat) (i : Instr) (l : List Nat) : (s.schedAt n i l).freport = s.freport := rfl
@[simp] theorem State.schedAt_bpSkip (s : State) (n : Nat) (i : Instr) (l : List Nat) : (s.schedAt n i l).bpSkip = s.bpSkip := rfl
@[simp] theorem State.schedAt_ibps (s : State) (n : Nat) (i : Instr) (l : List Nat) : (s.schedAt n i l).ibps = s.ibps := rfl
@[simp] theorem State.schedAt_strcnt (s : State) (n : Nat) (i : Instr) (l : List Nat) : (s.schedAt n i l).strcnt = s.strcnt := rfl
@[simp] theorem State.schedAt_peatbase (s : State) (n : Nat) (i : Instr) (l : List Nat) : (s.schedAt n i l).peatbase = s.peatbase := rfl
@[simp] theorem State.schedAt_peatsize (s : State) (n : Nat) (i : Instr) (l : List Nat) : (s.schedAt n i l).peatsize = s.peatsize := rfl
@[simp] theorem State.schedAt_peat (s : State) (n : Nat) (i : Instr) (l : List Nat) : (s.schedAt n i l).peat = s.peat := rfl
@[simp] theorem State.schedAt_gates (s : State) (n : Nat) (i : Instr) (l : List Nat) : (s.schedAt n i l).gates = s.gates := rfl
@[simp] theorem State.schedAt_latch (s : State) (n : Nat) (i : Instr) (l : List Nat) : (s.schedAt n i l).latch = s.latch := rfl
@[simp] theorem State.schedAt_gated (s : State) (n : Nat) (i : Instr) (l : List Nat) : (s.schedAt n i l).gated = s.gated := rfl
@[simp] theorem State.schedAt_wakeAt (s : State) (n : Nat) (i : Instr) (l : List Nat) : (s.schedAt n i l).wakeAt = s.wakeAt := rfl
@[simp] theorem State.schedAt_flash (s : State) (n : Nat) (i : Instr) (l : List Nat) : (s.schedAt n i l).flash = s.flash := rfl
@[simp] theorem State.schedAt_phase (s : State) (n : Nat) (i : Instr) (l : List Nat) : (s.schedAt n i l).phase = s.phase := rfl
@[simp] theorem State.schedAt_bootErr (s : State) (n : Nat) (i : Instr) (l : List Nat) : (s.schedAt n i l).bootErr = s.bootErr := rfl
@[simp] theorem State.schedAt_errDie (s : State) (n : Nat) (i : Instr) (l : List Nat) : (s.schedAt n i l).errDie = s.errDie := rfl
@[simp] theorem State.schedAt_bootNext (s : State) (n : Nat) (i : Instr) (l : List Nat) : (s.schedAt n i l).bootNext = s.bootNext := rfl
@[simp] theorem State.schedAt_mboxin (s : State) (n : Nat) (i : Instr) (l : List Nat) : (s.schedAt n i l).mboxin = s.mboxin := rfl
@[simp] theorem State.schedAt_mboxout (s : State) (n : Nat) (i : Instr) (l : List Nat) : (s.schedAt n i l).mboxout = s.mboxout := rfl
@[simp] theorem State.schedAt_mr (s : State) (n : Nat) (i : Instr) (l : List Nat) : (s.schedAt n i l).mr = s.mr := rfl
@[simp] theorem State.schedAt_alderKey (s : State) (n : Nat) (i : Instr) (l : List Nat) : (s.schedAt n i l).alderKey = s.alderKey := rfl
@[simp] theorem State.schedAt_softErrs (s : State) (n : Nat) (i : Instr) (l : List Nat) : (s.schedAt n i l).softErrs = s.softErrs := rfl
@[simp] theorem State.schedAt_linkWidth (s : State) (n : Nat) (i : Instr) (l : List Nat) : (s.schedAt n i l).linkWidth = s.linkWidth := rfl
@[simp] theorem State.schedAt_linkRate (s : State) (n : Nat) (i : Instr) (l : List Nat) : (s.schedAt n i l).linkRate = s.linkRate := rfl
@[simp] theorem State.schedAt_hostAtomics (s : State) (n : Nat) (i : Instr) (l : List Nat) : (s.schedAt n i l).hostAtomics = s.hostAtomics := rfl
@[simp] theorem State.schedAt_fcLimits (s : State) (n : Nat) (i : Instr) (l : List Nat) : (s.schedAt n i l).fcLimits = s.fcLimits := rfl
@[simp] theorem State.schedAt_sent (s : State) (n : Nat) (i : Instr) (l : List Nat) : (s.schedAt n i l).sent = s.sent := rfl
@[simp] theorem State.schedAt_inbox (s : State) (n : Nat) (i : Instr) (l : List Nat) : (s.schedAt n i l).inbox = s.inbox := rfl

/-! ## issued -/

@[simp] theorem State.issued_ccount (s : State) : s.issued.ccount = s.ccount := rfl
@[simp] theorem State.issued_ptime (s : State) : s.issued.ptime = s.ptime := rfl
@[simp] theorem State.issued_step (s : State) : s.issued.step = s.step := rfl
@[simp] theorem State.issued_stepReq (s : State) : s.issued.stepReq = s.stepReq := rfl
@[simp] theorem State.issued_reqAt (s : State) : s.issued.reqAt = s.reqAt := rfl
@[simp] theorem State.issued_pbase (s : State) : s.issued.pbase = s.pbase := rfl
@[simp] theorem State.issued_wbase (s : State) : s.issued.wbase = s.wbase := rfl
@[simp] theorem State.issued_rate (s : State) : s.issued.rate = s.rate := rfl
@[simp] theorem State.issued_stopat (s : State) : s.issued.stopat = s.stopat := rfl
@[simp] theorem State.issued_stopHit (s : State) : s.issued.stopHit = s.stopHit := rfl
@[simp] theorem State.issued_stopFrom (s : State) : s.issued.stopFrom = s.stopFrom := rfl
@[simp] theorem State.issued_prevPtime (s : State) : s.issued.prevPtime = s.prevPtime := rfl
@[simp] theorem State.issued_stretchHold (s : State) : s.issued.stretchHold = s.stretchHold := rfl
@[simp] theorem State.issued_groups (s : State) : s.issued.groups = s.groups := rfl
@[simp] theorem State.issued_teams (s : State) : s.issued.teams = s.teams := rfl
@[simp] theorem State.issued_cores (s : State) : s.issued.cores = s.cores := rfl
@[simp] theorem State.issued_dies (s : State) : s.issued.dies = s.dies := rfl
@[simp] theorem State.issued_slices (s : State) : s.issued.slices = s.slices := rfl
@[simp] theorem State.issued_ops (s : State) : s.issued.ops = s.ops := rfl
@[simp] theorem State.issued_writes (s : State) : s.issued.writes = s.writes := rfl
@[simp] theorem State.issued_lines (s : State) : s.issued.lines = s.lines := rfl
@[simp] theorem State.issued_walks (s : State) : s.issued.walks = s.walks := rfl
@[simp] theorem State.issued_walkFaults (s : State) : s.issued.walkFaults = s.walkFaults := rfl
@[simp] theorem State.issued_fenReqs (s : State) : s.issued.fenReqs = s.fenReqs := rfl
@[simp] theorem State.issued_fenOps (s : State) : s.issued.fenOps = s.fenOps := rfl
@[simp] theorem State.issued_pkts (s : State) : s.issued.pkts = s.pkts := rfl
@[simp] theorem State.issued_barMsgs (s : State) : s.issued.barMsgs = s.barMsgs := rfl
@[simp] theorem State.issued_queues (s : State) : s.issued.queues = s.queues := rfl
@[simp] theorem State.issued_alder (s : State) : s.issued.alder = s.alder := rfl
@[simp] theorem State.issued_pod (s : State) : s.issued.pod = s.pod := rfl
@[simp] theorem State.issued_pendingHost (s : State) : s.issued.pendingHost = s.pendingHost := rfl
@[simp] theorem State.issued_posted (s : State) : s.issued.posted = s.posted := rfl
@[simp] theorem State.issued_owed (s : State) : s.issued.owed = s.owed := rfl
@[simp] theorem State.issued_ports (s : State) : s.issued.ports = s.ports := rfl
@[simp] theorem State.issued_full (s : State) : s.issued.full = s.full := rfl
@[simp] theorem State.issued_reduced (s : State) : s.issued.reduced = s.reduced := rfl
@[simp] theorem State.issued_salcfg (s : State) : s.issued.salcfg = s.salcfg := rfl
@[simp] theorem State.issued_modNum (s : State) : s.issued.modNum = s.modNum := rfl
@[simp] theorem State.issued_args (s : State) : s.issued.args = s.args := rfl
@[simp] theorem State.issued_agenda (s : State) : s.issued.agenda = s.agenda := rfl
@[simp] theorem State.issued_timed (s : State) : s.issued.timed = s.timed := rfl
@[simp] theorem State.issued_nextId (s : State) : s.issued.nextId = s.nextId := rfl
@[simp] theorem State.issued_draws (s : State) : s.issued.draws = s.draws := rfl
@[simp] theorem State.issued_mem (s : State) : s.issued.mem = s.mem := rfl
@[simp] theorem State.issued_poison (s : State) : s.issued.poison = s.poison := rfl
@[simp] theorem State.issued_hostMem (s : State) : s.issued.hostMem = s.hostMem := rfl
@[simp] theorem State.issued_frozen (s : State) : s.issued.frozen = s.frozen := rfl
@[simp] theorem State.issued_attach (s : State) : s.issued.attach = s.attach := rfl
@[simp] theorem State.issued_fcause (s : State) : s.issued.fcause = s.fcause := rfl
@[simp] theorem State.issued_dumped (s : State) : s.issued.dumped = s.dumped := rfl
@[simp] theorem State.issued_scanning (s : State) : s.issued.scanning = s.scanning := rfl
@[simp] theorem State.issued_freport (s : State) : s.issued.freport = s.freport := rfl
@[simp] theorem State.issued_bpSkip (s : State) : s.issued.bpSkip = s.bpSkip := rfl
@[simp] theorem State.issued_ibps (s : State) : s.issued.ibps = s.ibps := rfl
@[simp] theorem State.issued_strcnt (s : State) : s.issued.strcnt = s.strcnt := rfl
@[simp] theorem State.issued_peatbase (s : State) : s.issued.peatbase = s.peatbase := rfl
@[simp] theorem State.issued_peatsize (s : State) : s.issued.peatsize = s.peatsize := rfl
@[simp] theorem State.issued_peat (s : State) : s.issued.peat = s.peat := rfl
@[simp] theorem State.issued_gates (s : State) : s.issued.gates = s.gates := rfl
@[simp] theorem State.issued_latch (s : State) : s.issued.latch = s.latch := rfl
@[simp] theorem State.issued_gated (s : State) : s.issued.gated = s.gated := rfl
@[simp] theorem State.issued_wakeAt (s : State) : s.issued.wakeAt = s.wakeAt := rfl
@[simp] theorem State.issued_flash (s : State) : s.issued.flash = s.flash := rfl
@[simp] theorem State.issued_phase (s : State) : s.issued.phase = s.phase := rfl
@[simp] theorem State.issued_bootErr (s : State) : s.issued.bootErr = s.bootErr := rfl
@[simp] theorem State.issued_errDie (s : State) : s.issued.errDie = s.errDie := rfl
@[simp] theorem State.issued_bootNext (s : State) : s.issued.bootNext = s.bootNext := rfl
@[simp] theorem State.issued_mboxin (s : State) : s.issued.mboxin = s.mboxin := rfl
@[simp] theorem State.issued_mboxout (s : State) : s.issued.mboxout = s.mboxout := rfl
@[simp] theorem State.issued_mr (s : State) : s.issued.mr = s.mr := rfl
@[simp] theorem State.issued_alderKey (s : State) : s.issued.alderKey = s.alderKey := rfl
@[simp] theorem State.issued_softErrs (s : State) : s.issued.softErrs = s.softErrs := rfl
@[simp] theorem State.issued_linkWidth (s : State) : s.issued.linkWidth = s.linkWidth := rfl
@[simp] theorem State.issued_linkRate (s : State) : s.issued.linkRate = s.linkRate := rfl
@[simp] theorem State.issued_hostAtomics (s : State) : s.issued.hostAtomics = s.hostAtomics := rfl
@[simp] theorem State.issued_fcLimits (s : State) : s.issued.fcLimits = s.fcLimits := rfl
@[simp] theorem State.issued_sent (s : State) : s.issued.sent = s.sent := rfl
@[simp] theorem State.issued_inbox (s : State) : s.issued.inbox = s.inbox := rfl

/-! ## setDram -/

@[simp] theorem State.setDram_ccount (s : State) (o : Nat) (b : Byte) : (s.setDram o b).ccount = s.ccount := rfl
@[simp] theorem State.setDram_ptime (s : State) (o : Nat) (b : Byte) : (s.setDram o b).ptime = s.ptime := rfl
@[simp] theorem State.setDram_step (s : State) (o : Nat) (b : Byte) : (s.setDram o b).step = s.step := rfl
@[simp] theorem State.setDram_stepReq (s : State) (o : Nat) (b : Byte) : (s.setDram o b).stepReq = s.stepReq := rfl
@[simp] theorem State.setDram_reqAt (s : State) (o : Nat) (b : Byte) : (s.setDram o b).reqAt = s.reqAt := rfl
@[simp] theorem State.setDram_pbase (s : State) (o : Nat) (b : Byte) : (s.setDram o b).pbase = s.pbase := rfl
@[simp] theorem State.setDram_wbase (s : State) (o : Nat) (b : Byte) : (s.setDram o b).wbase = s.wbase := rfl
@[simp] theorem State.setDram_rate (s : State) (o : Nat) (b : Byte) : (s.setDram o b).rate = s.rate := rfl
@[simp] theorem State.setDram_stopat (s : State) (o : Nat) (b : Byte) : (s.setDram o b).stopat = s.stopat := rfl
@[simp] theorem State.setDram_stopHit (s : State) (o : Nat) (b : Byte) : (s.setDram o b).stopHit = s.stopHit := rfl
@[simp] theorem State.setDram_stopFrom (s : State) (o : Nat) (b : Byte) : (s.setDram o b).stopFrom = s.stopFrom := rfl
@[simp] theorem State.setDram_prevPtime (s : State) (o : Nat) (b : Byte) : (s.setDram o b).prevPtime = s.prevPtime := rfl
@[simp] theorem State.setDram_stretchHold (s : State) (o : Nat) (b : Byte) : (s.setDram o b).stretchHold = s.stretchHold := rfl
@[simp] theorem State.setDram_groups (s : State) (o : Nat) (b : Byte) : (s.setDram o b).groups = s.groups := rfl
@[simp] theorem State.setDram_teams (s : State) (o : Nat) (b : Byte) : (s.setDram o b).teams = s.teams := rfl
@[simp] theorem State.setDram_cores (s : State) (o : Nat) (b : Byte) : (s.setDram o b).cores = s.cores := rfl
@[simp] theorem State.setDram_dies (s : State) (o : Nat) (b : Byte) : (s.setDram o b).dies = s.dies := rfl
@[simp] theorem State.setDram_slices (s : State) (o : Nat) (b : Byte) : (s.setDram o b).slices = s.slices := rfl
@[simp] theorem State.setDram_ops (s : State) (o : Nat) (b : Byte) : (s.setDram o b).ops = s.ops := rfl
@[simp] theorem State.setDram_writes (s : State) (o : Nat) (b : Byte) : (s.setDram o b).writes = s.writes := rfl
@[simp] theorem State.setDram_lines (s : State) (o : Nat) (b : Byte) : (s.setDram o b).lines = s.lines := rfl
@[simp] theorem State.setDram_walks (s : State) (o : Nat) (b : Byte) : (s.setDram o b).walks = s.walks := rfl
@[simp] theorem State.setDram_walkFaults (s : State) (o : Nat) (b : Byte) : (s.setDram o b).walkFaults = s.walkFaults := rfl
@[simp] theorem State.setDram_fenReqs (s : State) (o : Nat) (b : Byte) : (s.setDram o b).fenReqs = s.fenReqs := rfl
@[simp] theorem State.setDram_fenOps (s : State) (o : Nat) (b : Byte) : (s.setDram o b).fenOps = s.fenOps := rfl
@[simp] theorem State.setDram_pkts (s : State) (o : Nat) (b : Byte) : (s.setDram o b).pkts = s.pkts := rfl
@[simp] theorem State.setDram_barMsgs (s : State) (o : Nat) (b : Byte) : (s.setDram o b).barMsgs = s.barMsgs := rfl
@[simp] theorem State.setDram_queues (s : State) (o : Nat) (b : Byte) : (s.setDram o b).queues = s.queues := rfl
@[simp] theorem State.setDram_alder (s : State) (o : Nat) (b : Byte) : (s.setDram o b).alder = s.alder := rfl
@[simp] theorem State.setDram_pod (s : State) (o : Nat) (b : Byte) : (s.setDram o b).pod = s.pod := rfl
@[simp] theorem State.setDram_pendingHost (s : State) (o : Nat) (b : Byte) : (s.setDram o b).pendingHost = s.pendingHost := rfl
@[simp] theorem State.setDram_posted (s : State) (o : Nat) (b : Byte) : (s.setDram o b).posted = s.posted := rfl
@[simp] theorem State.setDram_owed (s : State) (o : Nat) (b : Byte) : (s.setDram o b).owed = s.owed := rfl
@[simp] theorem State.setDram_ports (s : State) (o : Nat) (b : Byte) : (s.setDram o b).ports = s.ports := rfl
@[simp] theorem State.setDram_full (s : State) (o : Nat) (b : Byte) : (s.setDram o b).full = s.full := rfl
@[simp] theorem State.setDram_reduced (s : State) (o : Nat) (b : Byte) : (s.setDram o b).reduced = s.reduced := rfl
@[simp] theorem State.setDram_salcfg (s : State) (o : Nat) (b : Byte) : (s.setDram o b).salcfg = s.salcfg := rfl
@[simp] theorem State.setDram_modNum (s : State) (o : Nat) (b : Byte) : (s.setDram o b).modNum = s.modNum := rfl
@[simp] theorem State.setDram_cur (s : State) (o : Nat) (b : Byte) : (s.setDram o b).cur = s.cur := rfl
@[simp] theorem State.setDram_args (s : State) (o : Nat) (b : Byte) : (s.setDram o b).args = s.args := rfl
@[simp] theorem State.setDram_agenda (s : State) (o : Nat) (b : Byte) : (s.setDram o b).agenda = s.agenda := rfl
@[simp] theorem State.setDram_timed (s : State) (o : Nat) (b : Byte) : (s.setDram o b).timed = s.timed := rfl
@[simp] theorem State.setDram_nextId (s : State) (o : Nat) (b : Byte) : (s.setDram o b).nextId = s.nextId := rfl
@[simp] theorem State.setDram_draws (s : State) (o : Nat) (b : Byte) : (s.setDram o b).draws = s.draws := rfl
@[simp] theorem State.setDram_poison (s : State) (o : Nat) (b : Byte) : (s.setDram o b).poison = s.poison := rfl
@[simp] theorem State.setDram_hostMem (s : State) (o : Nat) (b : Byte) : (s.setDram o b).hostMem = s.hostMem := rfl
@[simp] theorem State.setDram_frozen (s : State) (o : Nat) (b : Byte) : (s.setDram o b).frozen = s.frozen := rfl
@[simp] theorem State.setDram_attach (s : State) (o : Nat) (b : Byte) : (s.setDram o b).attach = s.attach := rfl
@[simp] theorem State.setDram_fcause (s : State) (o : Nat) (b : Byte) : (s.setDram o b).fcause = s.fcause := rfl
@[simp] theorem State.setDram_dumped (s : State) (o : Nat) (b : Byte) : (s.setDram o b).dumped = s.dumped := rfl
@[simp] theorem State.setDram_scanning (s : State) (o : Nat) (b : Byte) : (s.setDram o b).scanning = s.scanning := rfl
@[simp] theorem State.setDram_freport (s : State) (o : Nat) (b : Byte) : (s.setDram o b).freport = s.freport := rfl
@[simp] theorem State.setDram_bpSkip (s : State) (o : Nat) (b : Byte) : (s.setDram o b).bpSkip = s.bpSkip := rfl
@[simp] theorem State.setDram_ibps (s : State) (o : Nat) (b : Byte) : (s.setDram o b).ibps = s.ibps := rfl
@[simp] theorem State.setDram_strcnt (s : State) (o : Nat) (b : Byte) : (s.setDram o b).strcnt = s.strcnt := rfl
@[simp] theorem State.setDram_peatbase (s : State) (o : Nat) (b : Byte) : (s.setDram o b).peatbase = s.peatbase := rfl
@[simp] theorem State.setDram_peatsize (s : State) (o : Nat) (b : Byte) : (s.setDram o b).peatsize = s.peatsize := rfl
@[simp] theorem State.setDram_peat (s : State) (o : Nat) (b : Byte) : (s.setDram o b).peat = s.peat := rfl
@[simp] theorem State.setDram_gates (s : State) (o : Nat) (b : Byte) : (s.setDram o b).gates = s.gates := rfl
@[simp] theorem State.setDram_latch (s : State) (o : Nat) (b : Byte) : (s.setDram o b).latch = s.latch := rfl
@[simp] theorem State.setDram_gated (s : State) (o : Nat) (b : Byte) : (s.setDram o b).gated = s.gated := rfl
@[simp] theorem State.setDram_wakeAt (s : State) (o : Nat) (b : Byte) : (s.setDram o b).wakeAt = s.wakeAt := rfl
@[simp] theorem State.setDram_flash (s : State) (o : Nat) (b : Byte) : (s.setDram o b).flash = s.flash := rfl
@[simp] theorem State.setDram_phase (s : State) (o : Nat) (b : Byte) : (s.setDram o b).phase = s.phase := rfl
@[simp] theorem State.setDram_bootErr (s : State) (o : Nat) (b : Byte) : (s.setDram o b).bootErr = s.bootErr := rfl
@[simp] theorem State.setDram_errDie (s : State) (o : Nat) (b : Byte) : (s.setDram o b).errDie = s.errDie := rfl
@[simp] theorem State.setDram_bootNext (s : State) (o : Nat) (b : Byte) : (s.setDram o b).bootNext = s.bootNext := rfl
@[simp] theorem State.setDram_mboxin (s : State) (o : Nat) (b : Byte) : (s.setDram o b).mboxin = s.mboxin := rfl
@[simp] theorem State.setDram_mboxout (s : State) (o : Nat) (b : Byte) : (s.setDram o b).mboxout = s.mboxout := rfl
@[simp] theorem State.setDram_mr (s : State) (o : Nat) (b : Byte) : (s.setDram o b).mr = s.mr := rfl
@[simp] theorem State.setDram_alderKey (s : State) (o : Nat) (b : Byte) : (s.setDram o b).alderKey = s.alderKey := rfl
@[simp] theorem State.setDram_softErrs (s : State) (o : Nat) (b : Byte) : (s.setDram o b).softErrs = s.softErrs := rfl
@[simp] theorem State.setDram_linkWidth (s : State) (o : Nat) (b : Byte) : (s.setDram o b).linkWidth = s.linkWidth := rfl
@[simp] theorem State.setDram_linkRate (s : State) (o : Nat) (b : Byte) : (s.setDram o b).linkRate = s.linkRate := rfl
@[simp] theorem State.setDram_hostAtomics (s : State) (o : Nat) (b : Byte) : (s.setDram o b).hostAtomics = s.hostAtomics := rfl
@[simp] theorem State.setDram_fcLimits (s : State) (o : Nat) (b : Byte) : (s.setDram o b).fcLimits = s.fcLimits := rfl
@[simp] theorem State.setDram_sent (s : State) (o : Nat) (b : Byte) : (s.setDram o b).sent = s.sent := rfl
@[simp] theorem State.setDram_inbox (s : State) (o : Nat) (b : Byte) : (s.setDram o b).inbox = s.inbox := rfl

/-! ## The fields that change -/

@[simp] theorem State.setGrp_groups (s : State) (g : Nat) (r : Group) : (s.setGrp g r).groups = kset s.groups g r := rfl
@[simp] theorem State.modGrp_groups (s : State) (g : Nat) (f : Group → Group) : (s.modGrp g f).groups = kmod s.groups g f := rfl
@[simp] theorem State.setTeam_teams (s : State) (q : Nat) (m : Team) : (s.setTeam q m).teams = kset s.teams q m := rfl
@[simp] theorem State.modTeam_teams (s : State) (q : Nat) (f : Team → Team) : (s.modTeam q f).teams = kmod s.teams q f := rfl
@[simp] theorem State.modCore_cores (s : State) (c : Nat) (f : Core → Core) : (s.modCore c f).cores = kset s.cores c (f (s.core c)) := rfl
@[simp] theorem State.setOp_ops (s : State) (o : Nat) (m : MemOp) : (s.setOp o m).ops = kset s.ops o m := rfl
@[simp] theorem State.modOp_ops (s : State) (o : Nat) (f : MemOp → MemOp) : (s.modOp o f).ops = kmod s.ops o f := rfl
@[simp] theorem State.issued_cur (s : State) : s.issued.cur = .none := rfl
@[simp] theorem State.setDram_mem (s : State) (o : Nat) (b : Byte) : (s.setDram o b).mem = sset (w := 8) s.mem o b := rfl

end Sys2Proof.Machine
end

