-- ==== Sys2Proof/Laws/Memory.lean ====
section
/-! SUPPORT. The canonical form of the module's memory: every operation that writes module memory keeps it, and a byte that is
written is read back where it stood. -/
namespace Sys2Proof.Machine

theorem reset_memOk : State.reset.memOk := by unfold State.memOk; decide

/-- A state with the same memory as one that is in canonical form. -/
theorem memOk_congr {s t : State} (h : t.mem = s.mem) (hs : s.memOk) : t.memOk := by unfold State.memOk at *; rw [h]; exact hs

theorem memOk_setDram {s : State} (o : Nat) (b : Byte) (h : s.memOk) : (s.setDram o b).memOk := swf_sset o b h

theorem memOk_setDramL {s : State} (o : Nat) (bs : List Byte) (h : s.memOk) : (s.setDramL o bs).memOk := swf_ssetL bs o h

theorem dram_setDram_same {s : State} (o : Nat) (b : Byte) (h : s.memOk) : (s.setDram o b).dram o = b := sget_sset_same o b h

theorem dram_setDram_ne {s : State} {o p : Nat} (b : Byte) (h : s.memOk) (hne : p ≠ o) : (s.setDram o b).dram p = s.dram p :=
  sget_sset_ne b h hne

/-- Folding steps that keep the form keeps it. -/
theorem memOk_foldl {α : Type} (f : State → α → State) (hf : ∀ s a, s.memOk → (f s a).memOk) (l : List α) :
    ∀ s : State, s.memOk → (l.foldl f s).memOk := by
  induction l with
  | nil => exact fun s h => h
  | cons a r ih => exact fun s h => ih _ (hf s a h)

theorem memOk_writeBack {s : State} (l : CLine) (h : s.memOk) : (s.writeBack l).memOk := by
  unfold State.writeBack
  refine memOk_foldl _ (fun s i hs => ?_) _ s h
  split
  · exact memOk_setDram _ _ hs
  · exact hs

theorem memOk_l2Fill {s : State} (o : Nat) (h : s.memOk) : (s.l2Fill o).memOk := by
  unfold State.l2Fill
  dsimp only
  repeat' split
  all_goals first | exact h | exact memOk_congr (State.modSlice_mem ..) h | exact memOk_congr (State.modSlice_mem ..) (memOk_writeBack _ h)

theorem memOk_putMod {s : State} (o : Nat) (b : Byte) (h : s.memOk) : (s.putMod o b).memOk := by
  unfold State.putMod
  dsimp only
  repeat' split
  all_goals first | exact memOk_congr rfl h | exact memOk_setDram o b h

@[simp] theorem send_mem (s : State) (x : Sent) : (s.send x).mem = s.mem := by
  unfold State.send
  split <;> rfl

@[simp] theorem postHost_mem (s : State) (a : Nat) (bs : List Byte) : (s.postHost a bs).mem = s.mem := by
  unfold State.postHost
  rw [send_mem]

@[simp] theorem regWrite_fold_mem (l : List Instr) : ∀ s : State, (l.foldl (fun s i => s.sched 0 i) s).mem = s.mem := by
  induction l with
  | nil => exact fun s => rfl
  | cons i r ih => exact fun s => (ih (s.sched 0 i)).trans rfl

theorem memOk_homeWrite {s : State} (pa : Nat) (data : List (Option Byte)) (h : s.memOk) : (s.homeWrite pa data).memOk := by
  unfold State.homeWrite
  split
  · split
    · exact memOk_congr (regWrite_fold_mem _ _) h
    · refine memOk_foldl _ (fun s i hs => ?_) _ _ (memOk_l2Fill _ h)
      split
      · exact memOk_putMod _ _ hs
      · exact hs
  · refine memOk_foldl _ (fun s i hs => ?_) _ s h
    split
    · exact memOk_congr (postHost_mem _ _ _) hs
    · exact hs
  · exact memOk_congr rfl h

theorem memOk_zeroMem {s : State} (kind : Nat → Bool) (h : s.memOk) : (s.zeroMem kind).memOk := swf_filter _ h

theorem memOk_withFetchWord {s : State} (nbits w : Nat) (h : s.memOk) : (s.withFetchWord nbits w).memOk :=
  swf_ssetL _ _ h

end Sys2Proof.Machine
end

