-- ==== Sys2Proof/Laws/Scalar.lean ====
section
/-! SUPPORT. What the frame of a scalar instruction does where the instruction may issue. -/
namespace Sys2Proof.Machine

@[simp] theorem grp?_setGrp (s : State) (g : Nat) (r : Group) : (s.setGrp g r).grp? g = some r := by
  simp [State.grp?, State.setGrp]

theorem grp?_setGrp_ne (s : State) {g h : Nat} (r : Group) (hne : h ≠ g) : (s.setGrp g r).grp? h = s.grp? h := by
  simp [State.grp?, State.setGrp, hne]

@[simp] theorem grp?_modGrp (s : State) (g : Nat) (f : Group → Group) : (s.modGrp g f).grp? g = (s.grp? g).map f := by
  simp [State.grp?, State.modGrp]

theorem grp?_modGrp_ne (s : State) {g h : Nat} (f : Group → Group) (hne : h ≠ g) : (s.modGrp g f).grp? h = s.grp? h := by
  simp [State.grp?, State.modGrp, hne]

/-- A drain leaves every scalar register as it was. -/
@[simp] theorem begun_sread (i : Instr) (s : State) (r : Group) (n : BitVec 6) : (begun i s r).sread n = r.sread n := by
  unfold begun; split <;> rfl

@[simp] theorem begun_spc (i : Instr) (s : State) (r : Group) : (begun i s r).spc = r.spc := by
  unfold begun; split <;> rfl

@[simp] theorem begun_team (i : Instr) (s : State) (r : Group) : (begun i s r).team = r.team := by
  unfold begun; split <;> rfl

@[simp] theorem begun_ctx (i : Instr) (s : State) (r : Group) : (begun i s r).ctx = r.ctx := by
  unfold begun; split <;> rfl

/-- How a scalar instruction's step ends, once it may issue. -/
def scalarEnd (g : Nat) (spc : W64) : SRes → State
  | .done s1 => (s1.modGrp g fun x => x.goesOn (spc + 4)).issued
  | .jump s1 pc => (s1.modGrp g fun x => x.goesOn pc).issued
  | .stay s1 => s1
  | .part s1 => s1.issued
  | .trap s1 b => s1.scalarTrap g b
  | .ended s1 => s1.issued

theorem gate_go {i : Instr} {s : State} {g : Nat} {r : Group} (h : scalarTurn i s g r) : s.gate g r (scalarNeeds i) = .go := by
  obtain ⟨-, -, hf, hd, hc⟩ := h
  have hp : ((scalarNeeds i).reads ++ (scalarNeeds i).dest.toList).filterMap r.pend? = [] := by
    rw [List.filterMap_eq_nil_iff]
    intro n hn
    have := List.all_eq_true.1 hf n hn
    simpa using this
  unfold State.gate
  simp only [hp]
  unfold State.mustDrain at hd
  simp only [hp] at hd
  split
  · next hx =>
    simp only [List.any_nil, Bool.or_false, Bool.and_eq_true, Bool.not_eq_eq_eq_not, Bool.not_true] at hx hd
    rcases hd hx.1.1 with h1 | h1
    · simp [h1] at hx
    · simp [h1] at hx
  · simp only [List.isEmpty_nil, Bool.not_true, Bool.false_eq_true, if_false]
    split
    · next c hcc =>
      have := hc c hcc
      rw [if_neg (by omega)]
    · rfl

/-- A scalar instruction that may issue executes with its record. -/
theorem scalarOp_go {i : Instr} {s : State} {g : Nat} {r : Group} (k : Nat → Group → State → SRes) (h : scalarTurn i s g r) :
    scalarOp i s k = .next (scalarEnd g r.spc (k g (begun i s r) (s.setGrp g (begun i s r)))) := by
  have hg := gate_go h
  obtain ⟨hcur, hgrp, -⟩ := h
  have hb : (if (State.mustDrain r (scalarNeeds i) && !r.drained) = true then r.drainDone s.nextId else r) = begun i s r := by
    unfold begun
    by_cases hc : State.mustDrain r (scalarNeeds i) = true ∧ r.drained = false
    · rw [if_pos (by simp [hc]), if_pos hc]; rfl
    · rw [if_neg (by simpa using hc), if_neg hc]
  unfold scalarOp
  simp only [hcur, hgrp, hg, hb]
  cases k g (begun i s r) (s.setGrp g (begun i s r)) <;> simp only [scalarEnd, Group.goesOn]

@[simp] theorem grp?_issued (s : State) (h : Nat) : s.issued.grp? h = s.grp? h := rfl

/-- The end of an instruction that has changed nothing but its group's record. -/
theorem onlyGroup_done (s : State) (g : Nat) (r0 r1 : Group) (pc : W64) :
    onlyGroup s (((s.setGrp g r0).setGrp g r1).modGrp g fun x => x.goesOn pc).issued g (r1.goesOn pc) := by
  refine ⟨by simp only [State.issued, State.modGrp, State.setGrp], ?_, fun h hne => ?_⟩
  · simp
  · rw [grp?_issued, grp?_modGrp_ne _ _ hne, grp?_setGrp_ne _ _ hne, grp?_setGrp_ne _ _ hne]

theorem onlyGroup_done1 (s : State) (g : Nat) (r0 : Group) (pc : W64) :
    onlyGroup s ((s.setGrp g r0).modGrp g fun x => x.goesOn pc).issued g (r0.goesOn pc) := by
  refine ⟨by simp only [State.issued, State.modGrp, State.setGrp], ?_, fun h hne => ?_⟩
  · simp
  · rw [grp?_issued, grp?_modGrp_ne _ _ hne, grp?_setGrp_ne _ _ hne]

/-- A write of a scalar register, as the statements say it. -/
theorem put_eq_takes (r : Group) (i : Instr) (d : BitVec 6) (v : W64) : r.put i d v = r.takes i d v := by
  unfold Group.put Group.takes Group.swrite isExecReg Group.push wordOf
  by_cases h0 : d = 0
  · subst h0; rfl
  · have hd : d.toNat ≠ 0 := fun e => h0 (BitVec.eq_of_toNat_eq (by simpa using e))
    rw [if_neg h0]
    by_cases h1 : 61 ≤ d.toNat
    · rw [if_pos (by simpa using h1), if_neg (Nat.not_lt.2 h1)]
    · rw [if_neg (by simpa using h1), if_neg (by omega), if_pos (by omega)]

theorem await_eq_waitsFor (r : Group) (i : Instr) (d : BitVec 6) (id : Nat) (why : PendWhy) (v : W64) :
    r.await i d id why v = r.waitsFor i d id why v := by
  unfold Group.await Group.waitsFor isExecReg Group.push wordOf
  by_cases h0 : d = 0
  · rw [if_pos h0, if_pos h0]
  · rw [if_neg h0, if_neg h0]
    by_cases h1 : 61 ≤ d.toNat
    · by_cases h2 : why = .reply
      · rw [if_neg (by simp [h2]), if_pos (.inr h2)]
      · rw [if_pos (by simp [h1, h2]), if_neg (by simp [h2]; omega)]
    · rw [if_neg (by simp [h1]), if_pos (.inl (by omega))]

theorem push_eq_holds (r : Group) (i : Instr) (pa : Nat) (x y : W64) (id : Nat) : r.push i pa x y id none = r.holds i pa x y id := rfl

/-- An instruction that ends with a record of its group and goes on behind itself. -/
theorem scalarOp_done {i : Instr} {s : State} {g : Nat} {r : Group} {k : Nat → Group → State → SRes} (r1 : Group) (h : scalarTurn i s g r)
    (hk : k g (begun i s r) (s.setGrp g (begun i s r)) = .done ((s.setGrp g (begun i s r)).setGrp g r1)) :
    ∃ t, scalarOp i s k = .next t ∧ onlyGroup s t g (r1.goesOn (r.spc + 4)) := by
  rw [scalarOp_go k h, hk]; exact ⟨_, rfl, onlyGroup_done ..⟩

/-- An instruction that leaves the record as it is. -/
theorem scalarOp_same {i : Instr} {s : State} {g : Nat} {r : Group} {k : Nat → Group → State → SRes} (h : scalarTurn i s g r)
    (hk : k g (begun i s r) (s.setGrp g (begun i s r)) = .done (s.setGrp g (begun i s r))) :
    ∃ t, scalarOp i s k = .next t ∧ onlyGroup s t g ((begun i s r).goesOn (r.spc + 4)) := by
  rw [scalarOp_go k h, hk]; exact ⟨_, rfl, onlyGroup_done1 ..⟩

/-- An instruction that ends with a value in its destination. -/
theorem scalarOp_put {i : Instr} {s : State} {g : Nat} {r : Group} {k : Nat → Group → State → SRes} (d : BitVec 6) (v w : W64)
    (h : scalarTurn i s g r)
    (hk : k g (begun i s r) (s.setGrp g (begun i s r)) = .done ((s.setGrp g (begun i s r)).setGrp g ((begun i s r).put i d v))) (hv : v = w) :
    ∃ t, scalarOp i s k = .next t ∧ onlyGroup s t g (((begun i s r).takes i d w).goesOn (r.spc + 4)) := by
  subst hv; rw [← put_eq_takes]; exact scalarOp_done _ h hk

/-- A jump with a record. -/
theorem scalarOp_jump {i : Instr} {s : State} {g : Nat} {r : Group} {k : Nat → Group → State → SRes} (r1 : Group) (pc : W64)
    (h : scalarTurn i s g r)
    (hk : k g (begun i s r) (s.setGrp g (begun i s r)) = .jump ((s.setGrp g (begun i s r)).setGrp g r1) pc) :
    ∃ t, scalarOp i s k = .next t ∧ onlyGroup s t g (r1.goesOn pc) := by
  rw [scalarOp_go k h, hk]; exact ⟨_, rfl, onlyGroup_done ..⟩

/-- A jump that leaves the record as it is. -/
theorem scalarOp_jump_same {i : Instr} {s : State} {g : Nat} {r : Group} {k : Nat → Group → State → SRes} (pc : W64) (h : scalarTurn i s g r)
    (hk : k g (begun i s r) (s.setGrp g (begun i s r)) = .jump (s.setGrp g (begun i s r)) pc) :
    ∃ t, scalarOp i s k = .next t ∧ onlyGroup s t g ((begun i s r).goesOn pc) := by
  rw [scalarOp_go k h, hk]; exact ⟨_, rfl, onlyGroup_done1 ..⟩

end Sys2Proof.Machine
end

