-- ==== Sys2Proof/Laws/Streams.lean ====
section
/-! SUPPORT. What the frames of the lane and the team instructions can do: the one equation of each for an instruction that may issue, and
for one that waits. -/
namespace Sys2Proof.Machine

/-- How a lane instruction's step ends, once it may issue. -/
def laneEnd (g len : Nat) (lpc : W64) : LRes → State
  | .done s1 cyc beats => (s1.modGrp g fun x => { x with lpc := lpc + w64 len }).laneIssued g cyc beats
  | .jump s1 pc => (s1.modGrp g fun x => { x with lpc := pc }).laneIssued g 1 0
  | .stay s1 => s1
  | .part s1 => s1.laneIssued g 1 0
  | .vend s1 => s1.issued
  | .trap s1 b => s1.laneTrap g b

/-- A lane instruction that may issue executes with its record. -/
theorem laneOp_go {len : Nat} {n : LNeeds} {s : State} {g : Nat} {r : Group} (k : Nat → Group → State → LRes) (h : laneTurn n s g r) :
    laneOp len n s k = .next (laneEnd g len r.lpc (k g r s)) := by
  obtain ⟨hc, hg, hb, hs⟩ := h
  unfold laneOp
  simp only [hc, hg, hb, hs, Bool.false_eq_true, if_false]
  cases k g r s <;> rfl

/-- A lane instruction that the scoreboard holds back changes nothing (R190). -/
theorem laneOp_waits {len : Nat} {n : LNeeds} {s : State} {g : Nat} {r : Group} (k : Nat → Group → State → LRes) (hc : s.cur = .lane g)
    (hg : s.grp? g = some r) (hb : r.regBad n = none) (hs : r.laneStall n = true) : laneOp len n s k = .next s := by
  unfold laneOp
  simp only [hc, hg, hb, hs, if_true]

/-- A lane instruction whose register fields are refused takes ILLEGAL (R97 step 7). -/
theorem laneOp_refused {len : Nat} {n : LNeeds} {s : State} {g : Nat} {r : Group} {sub : Nat} (k : Nat → Group → State → LRes)
    (hc : s.cur = .lane g) (hg : s.grp? g = some r) (hb : r.regBad n = some sub) : laneOp len n s k = .next (s.laneTrap g (illegal sub)) := by
  unfold laneOp
  simp only [hc, hg, hb]

/-- How a team instruction's step ends, once it may issue. -/
def seqEnd (q : Nat) (tpc : W64) : TRes → State
  | .done s1 => s1.seqIssued q (tpc + 8)
  | .jump s1 pc => s1.seqIssued q pc
  | .stay s1 => s1
  | .part s1 => s1.issued
  | .trap s1 b => s1.seqTrap q b

/-- A team instruction that may issue executes with its record. -/
theorem seqOp_go {regs : List (BitVec 5)} {s : State} {q : Nat} {m : Team} (k : Nat → Team → State → TRes) (h : seqTurn regs s q m) :
    seqOp regs s k = .next (seqEnd q m.tpc (k q m s)) := by
  obtain ⟨hc, hm, hp⟩ := h
  have hn : (m.pendW.any fun p => regs.contains p.reg) = false := by
    rw [List.any_eq_false]
    intro p hpm
    have := List.all_eq_true.1 hp p hpm
    simpa using this
  unfold seqOp
  simp only [hc, hm, hn, Bool.false_eq_true, if_false]
  cases k q m s <;> rfl

/-- A team instruction that names a pending register waits (R245). -/
theorem seqOp_waits {regs : List (BitVec 5)} {s : State} {q : Nat} {m : Team} (k : Nat → Team → State → TRes) (hc : s.cur = .seq q)
    (hm : s.team? q = some m) (hp : (m.pendW.any fun p => regs.contains p.reg) = true) : seqOp regs s k = .next s := by
  unfold seqOp
  simp only [hc, hm, hp, if_true]

end Sys2Proof.Machine
end

