-- ==== Sys2Proof/Tests/Slice0.lean ====
section
/-! SUPPORT. Tests: ill-formed terms that WellFormed refuses, words written out from the encodings of spec/02 that the decoder reads as
the spec says, single steps, and for every statement with hypotheses a state and operands that meet them. -/
namespace Sys2Proof.Tests
open Sys2Proof Sys2Proof.Machine

set_option Elab.async false

/-! ## Helpers -/

/-- A context of one team of one group with its scratchpad and registers, privileged. -/
def ctx0 : Ctx := { fetchCtx with restore := [] }

/-- Its team, on core 0. -/
def team0 : Team := { fetchTeam (Ctx.freshTeam ctx0 0 0 0).team with w := Vector.replicate 32 0 }

/-- Its group: full allotment, lane 0 alone active, v empty, the scalar registers 3, 4 and 5 set, at address 0x10000. -/
def grp0 : Group :=
  { fetchGrp 96 ((Ctx.freshTeam ctx0 0 0 0).grps.head (by decide +kernel)).2 with
    v := [], exec := 1, blk := none, s := ((Vector.replicate 64 0).setIfInBounds 3 0x10000).setIfInBounds 4 256 |>.setIfInBounds 5 7
    ck := ⟨0x10000, Vector.replicate 64 0, 0, 0, 0, 0, [], 0⟩ }

/-- Core 0 with the page at 0x10000 translated to module memory at 0x100000, readable, writable and executable. -/
def core0 : Core := { Core.reset with tlb := [⟨0, 0, 0, 0x10000, 65536, fetchLeaf⟩] }

/-- A state with one group, its team, its context, and a unit that issues. -/
def at_ (u : Cur) (r : Group) (m : Team) : State :=
  { State.reset with cur := u, groups := [(0, r)], teams := [(0, m)], cores := [(0, core0)], alder := { State.reset.alder with ctxs := [ctx0] } }

/-- At the scalar stream of the group. -/
def atS (r : Group) : State := at_ (.scalar 0) r team0
/-- At its lane stream. -/
def atL (r : Group) : State := at_ (.lane 0) r team0
/-- At the sequencer of its team. -/
def atQ (m : Team) : State := at_ (.seq 0) grp0 m
/-- With the arguments of an event. -/
def evt (args : List Nat) (r : Group) (m : Team) : State := { at_ .none r m with args := args }

/-- What `scalarTurn` asks, as a check. -/
def turnS (i : Instr) (s : State) (g : Nat) (r : Group) : Bool :=
  decide (s.cur = .scalar g) && decide (s.grp? g = some r) &&
  ((scalarNeeds i).reads ++ (scalarNeeds i).dest.toList).all (fun n => (r.pend? n).isNone) &&
  (!State.mustDrain r (scalarNeeds i) || r.drained || s.quiet g r) &&
  (match (scalarNeeds i).ctr with | some c => decide (r.ctr c < 63) | none => true)

theorem scalarTurn_of (i : Instr) (s : State) (g : Nat) (r : Group) (h : turnS i s g r = true) : scalarTurn i s g r := by
  simp only [turnS, Bool.and_eq_true, decide_eq_true_eq] at h
  obtain ⟨⟨⟨⟨h1, h2⟩, h3⟩, h4⟩, h5⟩ := h
  refine ⟨h1, h2, h3, fun hm => ?_, fun c hc => ?_⟩
  · simpa [hm] using h4
  · simpa [hc] using h5

/-- What `laneTurn` asks, as a check. -/
def turnL (n : LNeeds) (s : State) (g : Nat) (r : Group) : Bool :=
  decide (s.cur = .lane g) && decide (s.grp? g = some r) && (r.regBad n).isNone && !r.laneStall n

theorem laneTurn_of (n : LNeeds) (s : State) (g : Nat) (r : Group) (h : turnL n s g r = true) : laneTurn n s g r := by
  simpa [turnL, laneTurn, and_assoc] using h

theorem seqTurn_of (regs : List (BitVec 5)) (s : State) (q : Nat) (m : Team)
    (h : (decide (s.cur = .seq q) && decide (s.team? q = some m) && m.pendW.all (fun p => !regs.contains p.reg)) = true) : seqTurn regs s q m := by
  simpa [seqTurn, and_assoc] using h

theorem atOnce_of (s : State) (g : Nat) (r : Group)
    (h : (!s.agenda.contains .close && r.lres.isEmpty && (s.core (g / 32)).moves.all (fun x => x.team != r.team)) = true) : s.trapsAtOnce g r := by
  simpa [State.trapsAtOnce, and_assoc] using h

theorem fst_eq {α β : Type} {p : α × β} {a : α} (h : p.1 = a) : p = (a, p.2) := by rw [← h]

theorem pair_of {α β : Type} (p : α × β) (a : α) (h : p.1 = a) : ∃ u, p = (a, u) := ⟨p.2, by rw [← h]⟩

theorem homePlain_of (s : State) (h : s.slices = []) (hm : swf (w := 8) s.mem = true) : s.homePlain := by
  refine ⟨hm, fun x k c hc => ?_⟩
  simp [State.slice, h, kgetD, kget, Slice.reset] at hc

/-- The team with barrier word 5 armed for two arrivals, phase 0. -/
def team5 : Team := team0.setBar 5 { team0.bar 5 with armed := true, expect := 2 }
/-- With two format blocks of BF16 at 256 and 320. -/
def teamF : Team := (team5.spSet 256 [5, 16]).spSet 320 [5, 16]
/-- The line with the header word 0x50000040 (budget 64) at offset 0xFC. -/
def hdrLine : CLine := (CLine.new 0x1000).putSector 3 (List.replicate 60 0 ++ [0x40, 0, 0, 0x50]) (2 ^ 64) 0
/-- An access in flight of one part. -/
def memOp (k : OpKind) (a : Agent) (d : Dest) (q : Part) : MemOp :=
  ⟨k, a, 0, d, .relaxed, .grp, .int .add, 8, [q], 0x10000, [], true, 512, 0, 0, 7, 0⟩
/-- A part of 8 bytes at 0x100000. -/
def part0 : Part := ⟨0, 0, 0x100000, 8, [1, 2, 3, 4, 5, 6, 7, 8], 0, 5, none, false, none, false, false⟩
/-- With an operation in flight. -/
def withOp (args : List Nat) (r : Group) (m : MemOp) : State := { evt args r team0 with ops := [(7, m)], nextId := 8 }
/-- Register s5 waits for operation 7. -/
def grpP : Group := { grp0 with pendS := [⟨5, 7, .load, 0x10000, 0⟩], outs := [⟨7, .ldc, false, true, false, 0x10000, true⟩] }
/-- The part with its data. -/
def partB : Part := { part0 with bound := true }

/-! ## Terms that no word stands for -/

/-- A lane form: type and operand b; without a prefix, and with a prefix of mask, zero, rounding and fourth operand. -/
def lf1 (ty : LType) (b : OpB) : LaneF := ⟨ty, 2, 4, b, false, none, false, 0, none⟩
def lf2 (ty : LType) (b : OpB) (men : Option (BitVec 4)) (zero : Bool) (rnd : BitVec 3) (vc : Option (BitVec 10)) : LaneF :=
  ⟨ty, 2, 4, b, true, men, zero, rnd, vc⟩

theorem test_wf_branches : (Instr.sbr .al 0 5).wf = true ∧ (Instr.sbr .al 3 5).wf = false ∧ (Instr.wbr .al 0 5).wf = true ∧ (Instr.wbr .al 3 5).wf = false := by
  decide

theorem test_wf_types : (Instr.vadd (lf1 .i32 (.reg 6)) false).wf = true ∧ (Instr.vadd (lf1 .f32 (.reg 6)) false).wf = false ∧
    (Instr.vand (lf1 .i32 (.reg 6))).wf = false ∧ (Instr.vfadd (lf1 .n32 (.reg 6))).wf = false := by decide

theorem test_wf_operand_kinds : (Instr.vadd (lf1 .i32 .none) false).wf = false ∧ (Instr.vnot (lf1 .w32 (.reg 6))).wf = false ∧
    (Instr.vunpk (lf1 .w32 (.imm 6)) .int8 false).wf = false ∧ (Instr.fdep { lf1 .w32 (.snap 6) with va := 0 } false .cl).wf = false := by decide

theorem test_wf_prefix : (Instr.vfadd (lf2 .f32 (.reg 6) (some 3) true 2 none)).wf = true ∧
    (Instr.vfadd { lf1 .f32 (.reg 6) with rnd := 2 }).wf = false ∧ (Instr.vfadd { lf1 .f32 (.reg 6) with men := some 3 }).wf = false ∧
    (Instr.vfadd (lf2 .f32 (.reg 6) none true 2 none)).wf = false ∧ (Instr.vfadd (lf2 .f32 (.reg 6) none false 5 none)).wf = false ∧
    (Instr.vadd (lf2 .i32 (.reg 6) none false 1 none) false).wf = false ∧ (Instr.vmad (lf1 .i32 (.reg 6))).wf = false ∧
    (Instr.vfadd (lf2 .f32 (.reg 6) none false 0 (some 8))).wf = false := by decide

theorem test_wf_comparisons : (Instr.vcmp { lf1 .i32 (.reg 6) with vd := 16 } .lt false).wf = false ∧ (Instr.vcmp (lf1 .i32 (.reg 6)) .lt true).wf = false ∧
    (Instr.vcmp (lf1 .i8x4 (.reg 6)) .lt true).wf = true ∧ (Instr.vfcmp { lf1 .f32 (.reg 6) with vd := 16 } .lt false false).wf = false ∧
    (Instr.vfcmp (lf1 .f32 (.reg 6)) .lt false true).wf = false ∧ (Instr.vballot { lf1 .w32 .none with vd := 16 }).wf = false := by decide

theorem test_wf_conversions : (Instr.vcvt (lf1 .i32 .none) .f32 false).wf = true ∧ (Instr.vcvt (lf1 .i32 .none) .i32 false).wf = false ∧
    (Instr.vcvt (lf1 .i32 .none) .i16x2 false).wf = false ∧ (Instr.vcvt (lf1 .f32 .none) .f64 true).wf = false ∧
    (Instr.vcvt (lf2 .i32 .none none false 1 none) .n32 false).wf = false ∧ (Instr.vcvpk2 (lf1 .f16x2 .none) .own true false).wf = false ∧
    (Instr.vcvpk2 (lf1 .w32 .none) .e2m1 false false).wf = false ∧ (Instr.vcvpk4 (lf1 .w32 .none) .e4m3 true false).wf = false ∧
    (Instr.vcvpk4 (lf1 .w32 .none) .own false false).wf = false ∧ (Instr.vqscale (lf1 .f32 .none) .own false).wf = false := by decide

theorem test_wf_lookups : (Instr.vlut (lf1 .w32 (.reg 8)) 1 true).wf = false ∧ (Instr.vlut (lf1 .w32 (.snap 6)) 0 false).wf = false ∧
    (Instr.vlut (lf1 .w32 (.snap 4)) 2 true).wf = true ∧ (Instr.vmov (lf1 .w32 (.reg 6))).wf = false ∧ (Instr.vred (lf1 .f32 .none) .xor).wf = false ∧
    (Instr.vscan (lf1 .f32 .none) .add true).wf = true := by decide

theorem test_wf_memory : (Instr.vld (lf1 .w32 .none) .w .rel .cl 0).wf = false ∧ (Instr.vld (lf1 .w32 .none) .w .relaxed .cl 0).wf = false ∧
    (Instr.vld (lf1 .i32 .none) .w .relaxed .grp 0).wf = false ∧ (Instr.vld (lf1 .i32 .none) .b .acq .cl 0).wf = true ∧
    (Instr.vst (lf1 .w32 .none) .w .acq .cl 0).wf = false ∧ (Instr.vst (lf1 .w32 .none) .w .relaxed .cl 0).wf = false ∧
    (Instr.vpref { lf1 .w32 .none with vd := 1 } 0).wf = false := by decide

theorem test_wf_atomics : (Instr.vatom (lf1 .n32 .none) .min .w .relaxed .cl 0).wf = false ∧ (Instr.vatom (lf1 .n32 .none) .minu .w .relaxed .cl 0).wf = true ∧
    (Instr.vatom (lf1 .n32 .none) .add .d .relaxed .cl 0).wf = false ∧ (Instr.vcas (lf2 .n64 .none none false 0 (some 8)) .w .relaxed .cl 0).wf = false ∧
    (Instr.vcas (lf1 .n64 .none) .d .relaxed .cl 0).wf = false := by decide

theorem test_wf_fen_and_regroup : (Instr.fdep (lf1 .w32 (.reg 6)) false .cl).wf = false ∧ (Instr.fcpy (lf1 .w32 (.reg 6)) false .cl 0x0003).wf = false ∧
    (Instr.ftake (lf1 .w32 (.reg 6)) false .cl 0x2000).wf = true ∧ (Instr.ftake (lf1 .w32 (.reg 6)) false .cl 0x3000).wf = false ∧
    (Instr.regrp 3 40 0).wf = false ∧ (Instr.regrp 3 40 65).wf = false ∧ (Instr.regrp 3 40 64).wf = true := by decide

theorem test_wf_drains : (Instr.mdrain 0 2 1 ⟨.int32, false, false, .cl, 0, true⟩).wf = false ∧ (Instr.mdrain 0 2 1 ⟨.bf16, false, false, .cl, 1, true⟩).wf = true ∧
    (Instr.mdraina 0 2 1 ⟨.bf16, false, false, .cl, 0, false⟩).wf = false ∧ (Instr.unassignedOpcode .scalar (.illegal 1)).wf = false ∧
    (Instr.qfence 0 5).wf = false := by decide


/-! ## Words written out from the encodings of spec/02 (R67 to R89): every instruction's fields at distinct values -/

theorem test_decode_scalar_arithmetic_1 :
    decodeScalar 0x0238A300 = .ok (.sadd 7 5 6) ∧
    decodeScalar 0x0438A300 = .ok (.ssub 7 5 6) ∧
    decodeScalar 0x0638A300 = .ok (.smul 7 5 6) ∧
    decodeScalar 0x0838A300 = .ok (.smulh 7 5 6) ∧
    decodeScalar 0x0A38A300 = .ok (.sdiv 7 5 6) ∧
    decodeScalar 0x0C38A300 = .ok (.sdivu 7 5 6) ∧
    decodeScalar 0x0E38A300 = .ok (.srem 7 5 6) ∧
    decodeScalar 0x1038A300 = .ok (.sand 7 5 6) ∧
    decodeScalar 0x1238A300 = .ok (.sor 7 5 6) := by decide +kernel

theorem test_decode_scalar_arithmetic_2 :
    decodeScalar 0x1438A300 = .ok (.sxor 7 5 6) ∧
    decodeScalar 0x1638A300 = .ok (.sshl 7 5 6) ∧
    decodeScalar 0x1838A300 = .ok (.sshr 7 5 6) ∧
    decodeScalar 0x1A38A300 = .ok (.ssra 7 5 6) ∧
    decodeScalar 0x1C38A300 = .ok (.smin 7 5 6) ∧
    decodeScalar 0x1E38A300 = .ok (.smax 7 5 6) ∧
    decodeScalar 0x2038A300 = .ok (.sminu 7 5 6) ∧
    decodeScalar 0x2238A300 = .ok (.smaxu 7 5 6) ∧
    decodeScalar 0x2438A302 = .ok (.scmp .lt 7 5 6) := by decide +kernel

theorem test_decode_scalar_arithmetic_3 :
    decodeScalar 0x2638A309 = .ok (.ssel 7 9 5 6) ∧
    decodeScalar 0x2838A000 = .ok (.spopc 7 5) ∧
    decodeScalar 0x2A38A000 = .ok (.sclz 7 5) := by decide +kernel

theorem test_decode_scalar_immediate_1 :
    decodeScalar 0x31085FF8 = .ok (.saddi 33 2 0x1FF8) ∧
    decodeScalar 0x33085FF8 = .ok (.sandi 33 2 0x1FF8) ∧
    decodeScalar 0x35085FF8 = .ok (.sori 33 2 0x1FF8) ∧
    decodeScalar 0x37085FF8 = .ok (.sxori 33 2 0x1FF8) ∧
    decodeScalar 0x3F085FF8 = .ok (.smuli 33 2 0x1FF8) ∧
    decodeScalar 0x3908402F = .ok (.sshli 33 2 47) ∧
    decodeScalar 0x3B08402F = .ok (.sshri 33 2 47) ∧
    decodeScalar 0x3D08402F = .ok (.ssrai 33 2 47) ∧
    decodeScalar 0x410C1234 = .ok (.sli 33 0x41234) := by decide +kernel

theorem test_decode_scalar_immediate_2 :
    decodeScalar 0x430C1234 = .ok (.slui 33 0x41234) ∧
    decodeScalar 0x450C1234 = .ok (.slxi 33 0x41234) := by decide +kernel

theorem test_decode_scalar_memory_1 :
    decodeScalar 0x503A1FF0 = .ok (.sldb 7 16 0x1FF0) ∧
    decodeScalar 0x523A1FF0 = .ok (.sldh 7 16 0x1FF0) ∧
    decodeScalar 0x543A1FF0 = .ok (.sldw 7 16 0x1FF0) ∧
    decodeScalar 0x563A1FF0 = .ok (.sldd 7 16 0x1FF0) ∧
    decodeScalar 0x583A1FF0 = .ok (.sstb 7 16 0x1FF0) ∧
    decodeScalar 0x5A3A1FF0 = .ok (.ssth 7 16 0x1FF0) ∧
    decodeScalar 0x5C3A1FF0 = .ok (.sstw 7 16 0x1FF0) ∧
    decodeScalar 0x5E3A1FF0 = .ok (.sstd 7 16 0x1FF0) ∧
    decodeScalar 0x603A1FF0 = .ok (.sldsp 7 16 0x1FF0) := by decide +kernel

theorem test_decode_scalar_memory_2 :
    decodeScalar 0x623A1FF0 = .ok (.sstsp 7 16 0x1FF0) ∧
    decodeScalar 0x641A04B8 = .ok (.satom .swap .dev 3 16 9) ∧
    decodeScalar 0x661A04A0 = .ok (.scas .cl 3 16 9) := by decide +kernel

theorem test_decode_scalar_control_1 :
    decodeScalar 0x7044FFFC = .ok (.sbr .nez 9 0x7FFC) ∧
    decodeScalar 0x7207FFFE = .ok (.sjmp 0x7FFFE) ∧
    decodeScalar 0x74012000 = .ok (.sjmpr 9) ∧
    decodeScalar 0x76080010 = .ok (.scall 1 0x10) ∧
    decodeScalar 0x78092000 = .ok (.scallr 1 9) ∧
    decodeScalar 0x7A012000 = .ok (.sret 9) ∧
    decodeScalar 0x80000040 = .ok (.lenq 0x40) ∧
    decodeScalar 0x82012000 = .ok (.lenqr 9) ∧
    decodeScalar 0x84000000 = .ok (.lsync) := by decide +kernel

theorem test_decode_scalar_control_2 :
    decodeScalar 0x8638A028 = .ok (.svrd 7 5 40) ∧
    decodeScalar 0x900008D1 = .ok (.swaitc 1 2 3 4) ∧
    decodeScalar 0x92012005 = .ok (.swaitp .cp 9) ∧
    decodeScalar 0x94000004 = .ok (.sfence .sys) ∧
    decodeScalar 0x96000000 = .ok (.stfence) ∧
    decodeScalar 0x98012008 = .ok (.swaita 9 8) ∧
    decodeScalar 0xA0000025 = .ok (.bara 5 .cl) ∧
    decodeScalar 0xA2000025 = .ok (.barw 5 .cl) ∧
    decodeScalar 0xA4000025 = .ok (.baraw 5 .cl) := by decide +kernel

theorem test_decode_scalar_control_3 :
    decodeScalar 0xA6012505 = .ok (.barinit 5 9 10) ∧
    decodeScalar 0xB0000000 = .ok (.sacq) ∧
    decodeScalar 0xB2000000 = .ok (.srel) ∧
    decodeScalar 0xB4000000 = .ok (.syield) ∧
    decodeScalar 0xB6000000 = .ok (.sexit) ∧
    decodeScalar 0xB8000000 = .ok (.snop) := by decide +kernel

theorem test_decode_scalar_system :
    decodeScalar 0xC038A013 = .ok (.srds 7 5 0x13) ∧
    decodeScalar 0xC200A012 = .ok (.swrs 5 0x12) ∧
    decodeScalar 0xC4001FFF = .ok (.strap 0x1FFF) ∧
    decodeScalar 0xC6000003 = .ok (.sbrk 3) ∧
    decodeScalar 0xC838A000 = .ok (.sal 7 5) ∧
    decodeScalar 0xCB228008 = .ok (.sbsal 9 5 8) ∧
    decodeScalar 0xCC380001 = .ok (.stime 7 true) ∧
    decodeScalar 0xD000A000 = .ok (.spop 5) := by decide +kernel

theorem test_decode_scalar_xcmd_1 :
    decodeScalar 0xFC494581 = .ok (.cpy1d 9 10 11) ∧
    decodeScalar 0xFC494582 = .ok (.cpy2d 9 10 11) ∧
    decodeScalar 0xFC494583 = .ok (.cpyt 9 10 11) ∧
    decodeScalar 0xFC494584 = .ok (.cpyres 9 10 11) ∧
    decodeScalar 0xFC494585 = .ok (.cseal 9 10 11) ∧
    decodeScalar 0xFC494586 = .ok (.cwaitb 9 10 11) ∧
    decodeScalar 0xFC494587 = .ok (.cstat 9 10 11) ∧
    decodeScalar 0xFC494590 = .ok (.bxfer 9 10 11) ∧
    decodeScalar 0xFC494591 = .ok (.btarg 9 10 11) := by decide +kernel

theorem test_decode_scalar_xcmd_2 :
    decodeScalar 0xFC4945A0 = .ok (.fsdep 9 10 11) ∧
    decodeScalar 0xFC4945A1 = .ok (.fstake 9 10 11) ∧
    decodeScalar 0xFC4945A2 = .ok (.fscpy 9 10 11) ∧
    decodeScalar 0xFC4945B0 = .ok (.xatom 9 10 11) ∧
    decodeScalar 0xFC4945E0 = .ok (.trmark 9 10 11) ∧
    decodeScalar 0xFC4945E1 = .ok (.wpset 9 10 11) ∧
    decodeScalar 0xFC4945A3 = .ok (.fcfgCreate 9 10 11) := by decide +kernel

theorem test_decode_lane_integer_1 :
    decodeLane [0xA0103001, 0x00201006, 0x00000000] = .ok (.vadd ⟨.i32, 2, 4, .reg 6, false, none, false, 0, none⟩ true) ∧
    decodeLane [0xA0115000, 0x40201000, 0x01020304] = .ok (.vsub ⟨.n8x4, 2, 4, .imm 0x1020304, false, none, false, 0, none⟩ false) ∧
    decodeLane [0xA0124000, 0x80201003, 0x00000000] = .ok (.vmul ⟨.i64, 2, 4, .snap 3, false, none, false, 0, none⟩) ∧
    decodeLane [0xA0138000, 0x00201006, 0x00000000] = .ok (.vmulh ⟨.n64, 2, 4, .reg 6, false, none, false, 0, none⟩) ∧
    decodeLane [0xF006BC00, 0xA0146000, 0x00201006, 0x00000000] = .ok (.vmad ⟨.n16x2, 2, 4, .reg 6, true, none, false, 0, some 700⟩) ∧
    decodeLane [0xA0150000, 0x40200000, 0x00000020] = .ok (.vand ⟨.w32, 2, 0, .imm 0x20, false, none, false, 0, none⟩) ∧
    decodeLane [0xF9C00000, 0xA0168000, 0x00201006, 0x00000000] = .ok (.vor ⟨.n64, 2, 4, .reg 6, true, some 9, true, 0, none⟩) ∧
    decodeLane [0xA0170000, 0x8020100F, 0x00000000] = .ok (.vxor ⟨.w32, 2, 4, .snap 15, false, none, false, 0, none⟩) ∧
    decodeLane [0xA0180000, 0x00201000, 0x00000000] = .ok (.vnot ⟨.w32, 2, 4, .none, false, none, false, 0, none⟩) := by decide +kernel

theorem test_decode_lane_integer_2 :
    decodeLane [0xA0191000, 0x00201006, 0x00000000] = .ok (.vshl ⟨.i8x4, 2, 4, .reg 6, false, none, false, 0, none⟩) ∧
    decodeLane [0xA01A7000, 0x40201000, 0x00000005] = .ok (.vshr ⟨.n32, 2, 4, .imm 0x5, false, none, false, 0, none⟩) ∧
    decodeLane [0xA01B3000, 0x40201000, 0x00000005] = .ok (.vsra ⟨.i32, 2, 4, .imm 0x5, false, none, false, 0, none⟩) ∧
    decodeLane [0xA01C2000, 0x00201006, 0x00000000] = .ok (.vmin ⟨.i16x2, 2, 4, .reg 6, false, none, false, 0, none⟩) ∧
    decodeLane [0xA01D6000, 0x00201006, 0x00000000] = .ok (.vmax ⟨.n16x2, 2, 4, .reg 6, false, none, false, 0, none⟩) ∧
    decodeLane [0xA01E3001, 0x00201000, 0x00000000] = .ok (.vabs ⟨.i32, 2, 4, .none, false, none, false, 0, none⟩ true) ∧
    decodeLane [0xA01F4000, 0x00201000, 0x00000000] = .ok (.vneg ⟨.i64, 2, 4, .none, false, none, false, 0, none⟩ false) ∧
    decodeLane [0xA0207000, 0x00201000, 0x00000000] = .ok (.vpopc ⟨.n32, 2, 4, .none, false, none, false, 0, none⟩) ∧
    decodeLane [0xA0218000, 0x00201000, 0x00000000] = .ok (.vclz ⟨.n64, 2, 4, .none, false, none, false, 0, none⟩) := by decide +kernel

theorem test_decode_lane_integer_3 :
    decodeLane [0xA0223000, 0x00201006, 0x00000000] = .ok (.vbfx ⟨.i32, 2, 4, .reg 6, false, none, false, 0, none⟩) ∧
    decodeLane [0xA0237000, 0x40201000, 0x00000810] = .ok (.vbfi ⟨.n32, 2, 4, .imm 0x810, false, none, false, 0, none⟩) ∧
    decodeLane [0xA0240005, 0x00201006, 0x00000000] = .ok (.vsel ⟨.w32, 2, 4, .reg 6, false, none, false, 0, none⟩ 5) ∧
    decodeLane [0xA0257001, 0x40100800, 0x00000000] = .ok (.vcmp ⟨.n32, 1, 2, .imm 0x0, false, none, false, 0, none⟩ .ne false) ∧
    decodeLane [0xA0267003, 0x00201006, 0x00000000] = .ok (.vaddc ⟨.n32, 2, 4, .reg 6, false, none, false, 0, none⟩ 3) ∧
    decodeLane [0xA0277003, 0x00201006, 0x00000000] = .ok (.vsubb ⟨.n32, 2, 4, .reg 6, false, none, false, 0, none⟩ 3) := by decide +kernel

theorem test_decode_lane_float_1 :
    decodeLane [0xF3900000, 0xA040B000, 0x8280A401, 0x00000000] = .ok (.vfadd ⟨.f32, 40, 41, .snap 1, true, some 3, false, 2, none⟩) ∧
    decodeLane [0xA041C000, 0x0280A82C, 0x00000000] = .ok (.vfsub ⟨.f64, 40, 42, .reg 44, false, none, false, 0, none⟩) ∧
    decodeLane [0xA0429000, 0x0280A82C, 0x00000000] = .ok (.vfmul ⟨.f16x2, 40, 42, .reg 44, false, none, false, 0, none⟩) ∧
    decodeLane [0xF0040B00, 0xA043B000, 0x0080240A, 0x00000000] = .ok (.vfma ⟨.f32, 8, 9, .reg 10, true, none, false, 0, some 11⟩) ∧
    decodeLane [0xF0040B00, 0xA044A000, 0x0080240A, 0x00000000] = .ok (.vfms ⟨.bf16x2, 8, 9, .reg 10, true, none, false, 0, some 11⟩) ∧
    decodeLane [0xF0040E00, 0xA045C000, 0x0080280C, 0x00000000] = .ok (.vfnma ⟨.f64, 8, 10, .reg 12, true, none, false, 0, some 14⟩) ∧
    decodeLane [0xA046B001, 0x0080240A, 0x00000000] = .ok (.vfmin ⟨.f32, 8, 9, .reg 10, false, none, false, 0, none⟩ true) ∧
    decodeLane [0xA047B000, 0x0080240A, 0x00000000] = .ok (.vfmax ⟨.f32, 8, 9, .reg 10, false, none, false, 0, none⟩ false) ∧
    decodeLane [0xA048B000, 0x00802400, 0x00000000] = .ok (.vfabs ⟨.f32, 8, 9, .none, false, none, false, 0, none⟩) := by decide +kernel

theorem test_decode_lane_float_2 :
    decodeLane [0xA049C000, 0x00802800, 0x00000000] = .ok (.vfneg ⟨.f64, 8, 10, .none, false, none, false, 0, none⟩) ∧
    decodeLane [0xA04A9037, 0x0080240A, 0x00000000] = .ok (.vfcmp ⟨.f16x2, 8, 9, .reg 10, false, none, false, 0, none⟩ .uno true true) ∧
    decodeLane [0xA04BB000, 0x00802400, 0x00000000] = .ok (.vfclass ⟨.f32, 8, 9, .none, false, none, false, 0, none⟩) ∧
    decodeLane [0xF0200000, 0xA04CB001, 0x00802400, 0x00000000] = .ok (.vfrnd ⟨.f32, 8, 9, .none, true, none, false, 4, none⟩ true) ∧
    decodeLane [0xA04DC000, 0x0080280C, 0x00000000] = .ok (.vfdiv ⟨.f64, 8, 10, .reg 12, false, none, false, 0, none⟩) ∧
    decodeLane [0xA04EB000, 0x00802400, 0x00000000] = .ok (.vfsqrt ⟨.f32, 8, 9, .none, false, none, false, 0, none⟩) ∧
    decodeLane [0xA070B000, 0x00802400, 0x00000000] = .ok (.vrcp ⟨.f32, 8, 9, .none, false, none, false, 0, none⟩) ∧
    decodeLane [0xA071B000, 0x00802400, 0x00000000] = .ok (.vrsq ⟨.f32, 8, 9, .none, false, none, false, 0, none⟩) ∧
    decodeLane [0xA072B000, 0x00802400, 0x00000000] = .ok (.vsin ⟨.f32, 8, 9, .none, false, none, false, 0, none⟩) := by decide +kernel

theorem test_decode_lane_float_3 :
    decodeLane [0xA073B000, 0x00802400, 0x00000000] = .ok (.vcos ⟨.f32, 8, 9, .none, false, none, false, 0, none⟩) ∧
    decodeLane [0xA074B000, 0x00802400, 0x00000000] = .ok (.vexp2 ⟨.f32, 8, 9, .none, false, none, false, 0, none⟩) ∧
    decodeLane [0xA075B000, 0x00802400, 0x00000000] = .ok (.vlog2 ⟨.f32, 8, 9, .none, false, none, false, 0, none⟩) ∧
    decodeLane [0xA076B000, 0x00802400, 0x00000000] = .ok (.vtanh ⟨.f32, 8, 9, .none, false, none, false, 0, none⟩) := by decide +kernel

theorem test_decode_lane_conversion :
    decodeLane [0xA080300B, 0x00802400, 0x00000000] = .ok (.vcvt ⟨.i32, 8, 9, .none, false, none, false, 0, none⟩ .f32 false) ∧
    decodeLane [0xF02C0C00, 0xA0819008, 0x00802800, 0x00000000] = .ok (.vcvpk2 ⟨.f16x2, 8, 10, .none, true, none, false, 5, some 12⟩ .own false true) ∧
    decodeLane [0xA0820006, 0x00803000, 0x00000000] = .ok (.vcvpk4 ⟨.w32, 8, 12, .none, false, none, false, 0, none⟩ .e2m1 true false) ∧
    decodeLane [0xA083B005, 0x00802400, 0x00000000] = .ok (.vqscale ⟨.f32, 8, 9, .none, false, none, false, 0, none⟩ .e4m3 true) ∧
    decodeLane [0xA084A002, 0x00802400, 0x00000000] = .ok (.vamax ⟨.bf16x2, 8, 9, .none, false, none, false, 0, none⟩ .b16) ∧
    decodeLane [0xA085000E, 0x0080240A, 0x00000000] = .ok (.vunpk ⟨.w32, 8, 9, .reg 10, false, none, false, 0, none⟩ .int4 true) ∧
    decodeLane [0xA086000E, 0x80802404, 0x00000000] = .ok (.vlut ⟨.w32, 8, 9, .snap 4, false, none, false, 0, none⟩ 6 true) := by decide +kernel

theorem test_decode_lane_move_1 :
    decodeLane [0xA0A00000, 0x80800001, 0x00000000] = .ok (.vmov ⟨.w32, 8, 0, .snap 1, false, none, false, 0, none⟩) ∧
    decodeLane [0xA0A10000, 0x0080240A, 0x00000000] = .ok (.vperm ⟨.w32, 8, 9, .reg 10, false, none, false, 0, none⟩) ∧
    decodeLane [0xA0A28000, 0x0080280C, 0x00000000] = .ok (.vbcast ⟨.n64, 8, 10, .reg 12, false, none, false, 0, none⟩) ∧
    decodeLane [0xA0A3B002, 0x00802400, 0x00000000] = .ok (.vred ⟨.f32, 8, 9, .none, false, none, false, 0, none⟩ .max) ∧
    decodeLane [0xA0A4700D, 0x00802400, 0x00000000] = .ok (.vscan ⟨.n32, 8, 9, .none, false, none, false, 0, none⟩ .xor true) ∧
    decodeLane [0xA0A50000, 0x00502400, 0x00000000] = .ok (.vballot ⟨.w32, 5, 9, .none, false, none, false, 0, none⟩) ∧
    decodeLane [0xA0A60000, 0x00100803, 0x00000000] = .ok (.kand 1 2 3) ∧
    decodeLane [0xA0A70000, 0x00100803, 0x00000000] = .ok (.kor 1 2 3) ∧
    decodeLane [0xA0A80000, 0x00100803, 0x00000000] = .ok (.kxor 1 2 3) := by decide +kernel

theorem test_decode_lane_move_2 :
    decodeLane [0xA0A90000, 0x00100800, 0x00000000] = .ok (.knot 1 2) ∧
    decodeLane [0xA0AA0000, 0x00100800, 0x00000000] = .ok (.kmov 1 2) := by decide +kernel

theorem test_decode_lane_memory_1 :
    decodeLane [0xF1800000, 0xA0C00002, 0x82000801, 0x00000000] = .ok (.vld ⟨.w32, 32, 2, .snap 1, true, some 1, false, 0, none⟩ .w .relaxed .grp 0) ∧
    decodeLane [0xA0C1009A, 0x80C00802, 0x00000000] = .ok (.vst ⟨.w32, 12, 2, .snap 2, false, none, false, 0, none⟩ .w .rel .dev 0) ∧
    decodeLane [0xA0C20001, 0x00C00800, 0xFFFFFFFC] = .ok (.vldsp ⟨.w32, 12, 2, .none, false, none, false, 0, none⟩ .h 0xFFFFFFFC) ∧
    decodeLane [0xA0C30004, 0x80C00802, 0x00000040] = .ok (.vstsp ⟨.w32, 12, 2, .snap 2, false, none, false, 0, none⟩ .q 64) ∧
    decodeLane [0xA0C4701A, 0x80A01001, 0x00000000] = .ok (.vatom ⟨.n32, 10, 4, .snap 1, false, none, false, 0, none⟩ .add .w .relaxed .dev 0) ∧
    decodeLane [0xF0042900, 0xA0C5701A, 0x82809C03, 0x00000000] = .ok (.vcas ⟨.n32, 40, 39, .snap 3, true, none, false, 0, some 41⟩ .w .relaxed .dev 0) ∧
    decodeLane [0xA0C60000, 0x80000802, 0x00000100] = .ok (.vpref ⟨.w32, 0, 2, .snap 2, false, none, false, 0, none⟩ 0x100) ∧
    decodeLane [0xF4800000, 0xA0F00006, 0x0300002A, 0x00000000] = .ok (.fdep ⟨.w32, 48, 0, .reg 42, true, some 4, false, 0, none⟩ false .dev) ∧
    decodeLane [0xA0F10009, 0x0501000A, 0x00000006] = .ok (.fcpy ⟨.w32, 80, 64, .reg 10, false, none, false, 0, none⟩ true .sys 6) := by decide +kernel

theorem test_decode_lane_memory_2 :
    decodeLane [0xA0F20006, 0x0501000A, 0x00000001] = .ok (.ftake ⟨.w32, 80, 64, .reg 10, false, none, false, 0, none⟩ false .dev 1) := by decide +kernel

theorem test_decode_lane_control_1 :
    decodeLane [0xA1000002, 0x0000000C, 0x00000024] = .ok (.vbr 2 false 0x24 12) ∧
    decodeLane [0xA1010000, 0x00000000, 0x00000000] = .ok (.vjoin) ∧
    decodeLane [0xA1020000, 0x00000000, 0xFFFFFFD0] = .ok (.vjmp 0xFFFFFFD0) ∧
    decodeLane [0xA1030000, 0x00000000, 0x00000100] = .ok (.vcall 0x100) ∧
    decodeLane [0xA1040000, 0x00001800, 0x00000000] = .ok (.vcallv 6) ∧
    decodeLane [0xA1050000, 0x00000000, 0x00000000] = .ok (.vret) ∧
    decodeLane [0xA1060000, 0x00000000, 0x00000000] = .ok (.vend) ∧
    decodeLane [0xA1070000, 0x00000000, 0x00000007] = .ok (.vbrk 7) ∧
    decodeLane [0xA1080000, 0x00000000, 0x00000007] = .ok (.vtrap 7) := by decide +kernel

theorem test_decode_lane_control_2 :
    decodeLane [0xA1090000, 0x00008400, 0x00004020] = .ok (.regrp 33 32 16) ∧
    decodeLane [0xA10A0000, 0x00000000, 0x00000000] = .ok (.rjoin) ∧
    decodeLane [0xA10B0000, 0x00000000, 0x00000000] = .ok (.vnop) ∧
    decodeLane [0xA10C08D1, 0x00000000, 0x00000000] = .ok (.vwaitc 1 2 3 4) ∧
    decodeLane [0xA10D0002, 0x00000000, 0x00000000] = .ok (.vfence .cl) := by decide +kernel

theorem test_decode_team_1 :
    decodeTeam 0x01110C8100000000 = .ok (.mma 2 4 6 8 1) ∧
    decodeTeam 0x0210000000000000 = .ok (.mzero 2) ∧
    decodeTeam 0x0311000300000759 = .ok (.mdrain 2 4 3 ⟨.bf16, true, true, .cl, 3, true⟩) ∧
    decodeTeam 0x0411000300000063 = .ok (.mdraina 2 4 3 ⟨.int32, false, false, .dev, 0, false⟩) ∧
    decodeTeam 0x0511000300000000 = .ok (.mload 2 4 3) ∧
    decodeTeam 0x1000000500000003 = .ok (.tbarw 5 .dev) ∧
    decodeTeam 0x1100000500000001 = .ok (.tbara 5 .team) ∧
    decodeTeam 0x20480000FFFFFFF0 = .ok (.wli 9 0xFFFFFFF0) ∧
    decodeTeam 0x214A960000000000 = .ok (.wadd 9 10 11) ∧
    decodeTeam 0x224A960000000000 = .ok (.wsub 9 10 11) := by decide +kernel

theorem test_decode_team_2 :
    decodeTeam 0x234A960000000000 = .ok (.wmul 9 10 11) ∧
    decodeTeam 0x274A960000000000 = .ok (.wshl 9 10 11) ∧
    decodeTeam 0x244A800000000005 = .ok (.waddi 9 10 5) ∧
    decodeTeam 0x254A800000000100 = .ok (.wldsp 9 10 0x100) ∧
    decodeTeam 0x2602960000000100 = .ok (.wstsp 11 10 0x100) ∧
    decodeTeam 0x30028006FFFFFFFE = .ok (.wbr .gtz 10 0xFFFFFFFE) ∧
    decodeTeam 0x3100000000000004 = .ok (.wjmp 4) ∧
    decodeTeam 0x32028000FFFFFFFC = .ok (.wloop 10 0xFFFFFFFC) ∧
    decodeTeam 0x3F00000000000000 = .ok (.texit) := by decide +kernel

/-! ## Witnesses: a state and operands that meet the hypotheses of each statement -/

/-! ## Witnesses: states and operands that meet the hypotheses of the statements -/

theorem witness_ImmediateArithmetic : ∃ (i : Instr) (s : State) (g : Nat) (r : Group) (d : BitVec 6) (v : W64), scalarTurn i s g r ∧
    immediateValue r.sread i = some (d, v) ∧ v = 0x10100 :=
  ⟨.sadd 1 3 4, atS grp0, 0, grp0, 1, 0x10100, scalarTurn_of _ _ _ _ (by decide +kernel), by decide +kernel, rfl⟩

theorem witness_MultiplyDivide : ∃ (i : Instr) (s : State) (g : Nat) (r : Group) (d : BitVec 6) (lat : Nat) (v : W64), scalarTurn i s g r ∧
    latencyValue r.sread i = some (d, lat, v) :=
  ⟨.sdiv 1 3 0, atS grp0, 0, grp0, 1, 36, 0xFFFFFFFFFFFFFFFF, scalarTurn_of _ _ _ _ (by decide +kernel), by decide +kernel⟩

theorem witness_MultiplyDivide_stall : ∃ (i : Instr) (s : State) (g : Nat) (r : Group) (a : BitVec 6), s.cur = .scalar g ∧ s.grp? g = some r ∧
    a ∈ (scalarNeeds i).reads ∧ (r.pend? a).isSome = true :=
  let r := { grp0 with pendS := [⟨3, 9, .alu, 0, 0⟩] }
  ⟨.sadd 1 3 4, atS r, 0, r, 3, by decide +kernel⟩

theorem witness_ControlTransfer : ∃ (i : Instr) (s : State) (g : Nat) (r r' : Group) (pc : W64), scalarTurn i s g r ∧
    controlTo (fun m => s.salRead (g / 32 / 80) m.toNat) (begun i s r) r.sread i = some (pc, r') ∧ pc = 0xFFF0 :=
  ⟨.sbr .nez 5 0x7FFC, atS grp0, 0, grp0, grp0, 0xFFF0, scalarTurn_of _ _ _ _ (by decide +kernel), by decide +kernel, rfl⟩

theorem witness_WaitsAndLaneQueue : ∃ (i : Instr) (s : State) (g : Nat) (r r' : Group), scalarTurn i s g r ∧
    waitLeaves s g (begun i s r) i = some r' :=
  ⟨.swaitc 0 0 7 7, atS grp0, 0, grp0, begun (.swaitc 0 0 7 7) (atS grp0) grp0, scalarTurn_of _ _ _ _ (by decide +kernel), by decide +kernel⟩

/-- A wait on a batch that is complete. -/
theorem witness_WaitsAndLaneQueue_batch : ∃ (s : State) (g : Nat) (r r' : Group), scalarTurn (.swaitp .cp 5) s g r ∧
    waitLeaves s g (begun (.swaitp .cp 5) s r) (.swaitp .cp 5) = some r' ∧ postedAfter s g r (.swaitp .cp 5) ≠ s.posted :=
  let r := { grp0 with batches := grp0.batches.setIfInBounds 7 ⟨.complete, false, 0, 0, 9⟩ }
  let s := { atS r with posted := [(8 * 1048576, 3)] }
  ⟨s, 0, r, { begun (.swaitp .cp 5) s r with batches := grp0.batches.setIfInBounds 7 ⟨.idle, false, 0, 0, 0⟩, gwctMax := max r.gwctMax 9 },
    scalarTurn_of _ _ _ _ (by decide +kernel), by decide +kernel⟩

theorem witness_SpecialRegisters : ∃ (i : Instr) (s : State) (g : Nat) (r r' : Group) (m : Team), scalarTurn i s g r ∧ s.team? r.team = some m ∧
    specialLeaves s g m (begun i s r) i = some r' :=
  ⟨.stime 1 false, atS grp0, 0, grp0, { grp0 with s := grp0.s.setIfInBounds 1 0 }, team0, scalarTurn_of _ _ _ _ (by decide +kernel),
    by decide +kernel⟩

theorem witness_HeldYieldAndExit_held : ∃ (i : Instr) (s : State) (g : Nat) (r r' : Group), scalarTurn i s g r ∧ heldLeaves (begun i s r) i = some r' :=
  ⟨.barinit 5 4 3, atS grp0, 0, grp0, grp0.holds (.barinit 5 4 3) 0 256 0x10000 0, scalarTurn_of _ _ _ _ (by decide +kernel), by decide +kernel⟩

theorem witness_HeldYieldAndExit_yield : ∃ (s : State) (g : Nat) (r : Group), scalarTurn .syield s g r :=
  ⟨atS grp0, 0, grp0, scalarTurn_of _ _ _ _ (by decide +kernel)⟩

theorem witness_HeldYieldAndExit_expiry : ∃ (s : State) (g : Nat) (r : Group), s.args = [g] ∧ s.grp? g = some r ∧ r.holdUntil ≤ s.ccount :=
  ⟨evt [0] grp0 team0, 0, grp0, by decide +kernel⟩

theorem witness_HeldYieldAndExit_exit : ∃ (s : State) (g : Nat) (r : Group) (m : Team), scalarTurn .sexit s g r ∧ r.outs = [] ∧
    (r.rs.any fun e => e.kind == .regroup) = false ∧ kwf s.groups = true ∧ s.team? r.team = some m ∧ m.ended.length + 1 ≠ m.groups :=
  let m := { team0 with groups := 2, members := [0, 8] }
  ⟨at_ (.scalar 0) grp0 m, 0, grp0, m, scalarTurn_of _ _ _ _ (by decide +kernel), by decide +kernel⟩

theorem witness_ScalarLoads : ∃ (i : Instr) (s : State) (g : Nat) (r : Group) (d a : BitVec 6) (off : BitVec 13) (n : Nat) (leaf : W64) (pa : Nat) (u : State),
    scalarTurn i s g r ∧ loadForm i = some (d, a, off, n) ∧
    (s.setGrp g (begun i s r)).checkData (g / 32) r.ctx (r.sread a + off.signExtend 64) n .read true = (.ok leaf pa, u) :=
  ⟨.sldd 1 3 8, atS grp0, 0, grp0, 1, 3, 8, 8, fetchLeaf, 0x100008, _, scalarTurn_of _ _ _ _ (by decide +kernel), rfl,
    Prod.ext (by decide +kernel) rfl⟩

theorem witness_ScalarStores : ∃ (i : Instr) (s : State) (g : Nat) (r : Group) (d a : BitVec 6) (off : BitVec 13) (n : Nat) (leaf : W64) (pa : Nat) (u : State),
    scalarTurn i s g r ∧ storeForm i = some (d, a, off, n) ∧
    (s.setGrp g (begun i s r)).checkData (g / 32) r.ctx (r.sread a + off.signExtend 64) n .write false = (.ok leaf pa, u) :=
  ⟨.sstb 5 3 0, atS grp0, 0, grp0, 5, 3, 0, 1, fetchLeaf, 0x100000, _, scalarTurn_of _ _ _ _ (by decide +kernel), rfl,
    Prod.ext (by decide +kernel) rfl⟩

theorem witness_ScalarAtomics : ∃ (i : Instr) (s : State) (g : Nat) (r : Group) (d a b : BitVec 6) (x : W64) (c : Ctr) (admitted : Bool) (leaf : W64)
    (pa : Nat) (u : State), scalarTurn i s g r ∧ atomicForm r.sread i = some (d, a, b, x, c, admitted) ∧
    (s.setGrp g (begun i s r)).checkData (g / 32) r.ctx (r.sread a) 8 .write true = (.ok leaf pa, u) ∧
    (pa / 2 ^ 50 % 4 = 1 → u.hostAtomics = true ∧ admitted = true) :=
  ⟨.scas .dev 1 3 5, atS grp0, 0, grp0, 1, 3, 5, 0, .ldc, true, fetchLeaf, 0x100000, _, scalarTurn_of _ _ _ _ (by decide +kernel), by decide +kernel,
    Prod.ext (by decide +kernel) rfl, by decide +kernel⟩

theorem witness_ScratchpadAndBarriers_load : ∃ (s : State) (g : Nat) (r : Group) (m : Team) (d a : BitVec 6) (imm : BitVec 13) (o : Nat),
    s.team? r.team = some m ∧ (r.sread a + imm.signExtend 64).toNat = o ∧ o % 8 = 0 ∧ o + 8 ≤ m.spSize ∧
    scalarTurn (.sldsp d a imm) s g r ∧ r.barrierIds = [] ∧ m.poison.contains o = false ∧ r.cq = [] :=
  ⟨atS grp0, 0, grp0, team0, 1, 4, 0x1FF8, 248, by decide +kernel, by decide +kernel, by decide, by decide +kernel,
    scalarTurn_of _ _ _ _ (by decide +kernel), by decide +kernel⟩

theorem witness_ScratchpadAndBarriers_forward : ∃ (s : State) (g : Nat) (r : Group) (m : Team) (d a : BitVec 6) (imm : BitVec 13) (o : Nat),
    s.team? r.team = some m ∧ (r.sread a + imm.signExtend 64).toNat = o ∧ o % 8 = 0 ∧ o + 8 ≤ m.spSize ∧
    scalarTurn (.sldsp d a imm) s g r ∧ r.barrierIds = [] ∧ m.poison.contains o = false ∧
    (∃ q e, r.cq = q ++ [e] ∧ e.pos < r.pos ∧ e.word.toNat / 2 ^ 25 = 0x31 ∧ e.x.toNat = o) :=
  let e : CqEntry := ⟨0, 0x62000000, 0, 0, 256, 7, 0, false, false, false, none⟩
  let r := { grp0 with cq := [e], pos := 1 }
  ⟨atS r, 0, r, team0, 1, 4, 0, 256, by decide +kernel, by decide +kernel, by decide, by decide +kernel, scalarTurn_of _ _ _ _ (by decide +kernel),
    by decide +kernel, by decide +kernel, [], e, rfl, by decide, by decide, by decide⟩

theorem witness_ScratchpadAndBarriers_store : ∃ (s : State) (g : Nat) (r : Group) (m : Team) (d a : BitVec 6) (imm : BitVec 13) (o : Nat),
    s.team? r.team = some m ∧ (r.sread a + imm.signExtend 64).toNat = o ∧ o % 8 = 0 ∧ o + 8 ≤ m.spSize ∧ scalarTurn (.sstsp d a imm) s g r :=
  let r := { grp0 with s := grp0.s.setIfInBounds 4 65528 }
  ⟨atS r, 0, r, team0, 5, 4, 0, 65528, by decide +kernel, by decide +kernel, by decide, by decide +kernel, scalarTurn_of _ _ _ _ (by decide +kernel)⟩

theorem witness_ScratchpadAndBarriers_wait : ∃ (i : Instr) (s : State) (g : Nat) (r : Group) (m : Team) (n : BitVec 4) (sc : Scope), scalarTurn i s g r ∧
    (i = .barw n sc ∨ (i = .baraw n sc ∧ r.baraw = true ∧ r.cq = [])) ∧
    s.team? r.team = some m ∧ m.forwards r.team n = false ∧ (m.bar n).err = false ∧
    ((m.bar n).armed = true ∨ r.barTarget.isSome = true ∨ r.baraw = true) :=
  ⟨.barw 5 .cl, at_ (.scalar 0) grp0 team5, 0, grp0, team5, 5, .cl, scalarTurn_of _ _ _ _ (by decide +kernel), .inl rfl, by decide +kernel⟩

/-- A wait for a phase that was recorded, at a word that is armed no more. -/
theorem witness_ScratchpadAndBarriers_waitUnarmed : ∃ (s : State) (g : Nat) (r : Group) (m : Team) (n : BitVec 4) (sc : Scope),
    scalarTurn (.barw n sc) s g r ∧ s.team? r.team = some m ∧ m.forwards r.team n = false ∧ (m.bar n).err = false ∧ (m.bar n).armed = false ∧
    r.barTarget.isSome = true :=
  let r := { grp0 with barTarget := some 3 }
  ⟨atS r, 0, r, team0, 5, .grp, scalarTurn_of _ _ _ _ (by decide +kernel), by decide +kernel⟩

theorem witness_ScratchpadAndBarriers_waitAfterArrival : ∃ (s : State) (g : Nat) (r : Group) (m : Team) (n : BitVec 4) (sc : Scope),
    scalarTurn (.baraw n sc) s g r ∧ r.baraw = true ∧ r.cq = [] ∧ s.team? r.team = some m ∧ m.forwards r.team n = false ∧ (m.bar n).err = false :=
  let r := { grp0 with baraw := true, drained := true, arr := [(5, 0)] }
  ⟨at_ (.scalar 0) r team5, 0, r, team5, 5, .team, scalarTurn_of _ _ _ _ (by decide +kernel), by decide +kernel⟩

theorem witness_ScratchpadAndBarriers_arrival : ∃ (s : State) (g : Nat) (r : Group) (n : BitVec 4) (sc : Scope), scalarTurn (.baraw n sc) s g r ∧
    r.baraw = false :=
  ⟨at_ (.scalar 0) grp0 team5, 0, grp0, 5, .grp, scalarTurn_of _ _ _ _ (by decide +kernel), by decide +kernel⟩

/-- The group in an unprivileged context. -/
def atUser (r : Group) : State := { atS r with alder := { State.reset.alder with ctxs := [{ ctx0 with priv := false }] } }

theorem witness_PrivilegeAndTrapRequests_stopat : ∃ (s : State) (g : Nat) (r : Group) (a : BitVec 6), scalarTurn (.swrs a 0x12) s g r ∧
    s.privOf r.ctx = true :=
  ⟨atS grp0, 0, grp0, 3, scalarTurn_of _ _ _ _ (by decide +kernel), by decide +kernel⟩

theorem witness_PrivilegeAndTrapRequests_stopatUser : ∃ (s u : State) (g : Nat) (r : Group) (a : BitVec 6),
    (scalarTurn (.swrs a 0x12) s g r ∧ s.privOf r.ctx = false ∧ s.quiet g r = true ∧ s.trapsAtOnce g r ∧ s.handlerFor r 7 = none) ∧
    (scalarTurn (.swrs a 0x12) u g r ∧ u.privOf r.ctx = false ∧ u.quiet g r = true ∧ Item.close ∈ u.agenda) :=
  ⟨atUser grp0, { atUser grp0 with agenda := [.close] }, 0, grp0, 3, ⟨scalarTurn_of _ _ _ _ (by decide +kernel), by decide +kernel, by decide +kernel,
    atOnce_of _ _ _ (by decide +kernel), by decide +kernel⟩, scalarTurn_of _ _ _ _ (by decide +kernel), by decide +kernel⟩

theorem witness_PrivilegeAndTrapRequests_xcmd : ∃ (i : Instr) (s u : State) (g : Nat) (r : Group) (m : Team) (d a b : BitVec 6),
    (i = .fcfgCreate d a b ∨ i = .fcfgDelete d a b ∨ i = .fcfgReadCounters d a b ∨ i = .wpset d a b) ∧
    (scalarTurn i s g r ∧ s.team? r.team = some m ∧ s.privOf r.ctx = false ∧ s.quiet g r = true ∧ s.trapsAtOnce g r ∧ m.handler = none) ∧
    (scalarTurn i u g r ∧ u.team? r.team = some m ∧ u.privOf r.ctx = false ∧ u.quiet g r = true ∧ Item.close ∈ u.agenda) :=
  ⟨.wpset 0 5 4, atUser grp0, { atUser grp0 with agenda := [.close] }, 0, grp0, team0, 0, 5, 4, .inr (.inr (.inr rfl)),
    ⟨scalarTurn_of _ _ _ _ (by decide +kernel), by decide +kernel, by decide +kernel, by decide +kernel, atOnce_of _ _ _ (by decide +kernel), rfl⟩,
    scalarTurn_of _ _ _ _ (by decide +kernel), by decide +kernel⟩

theorem witness_PrivilegeAndTrapRequests_trap : ∃ (s : State) (g : Nat) (r : Group) (m : Team) (code : BitVec 13) (h : W64) (mask : BitVec 32),
    scalarTurn (.strap code) s g r ∧ s.trapsAtOnce g r ∧ s.quiet g r = true ∧ r.drained = true ∧ r.rs = [] ∧ s.team? r.team = some m ∧
    m.handler = some (h, mask) ∧ mask.getLsbD 11 = true ∧ 256 + 1024 * m.groups ≤ m.spSize ∧ r.gid.toNat < m.groups :=
  let r := { grp0 with drained := true }
  let m := { team0 with handler := some (0x20000, 0x800) }
  ⟨at_ (.scalar 0) r m, 0, r, m, 3, 0x20000, 0x800, scalarTurn_of _ _ _ _ (by decide +kernel), atOnce_of _ _ _ (by decide +kernel), by decide +kernel⟩

theorem witness_PrivilegeAndTrapRequests_trapBehind : ∃ (s : State) (g : Nat) (r : Group) (code : BitVec 13), scalarTurn (.strap code) s g r ∧
    s.quiet g r = true ∧ r.rs = [] ∧ Item.close ∈ s.agenda :=
  ⟨{ atS grp0 with agenda := [.lane 8, .close] }, 0, grp0, 3, scalarTurn_of _ _ _ _ (by decide +kernel), by decide +kernel⟩

theorem witness_PrivilegeAndTrapRequests_break : ∃ (s : State) (g : Nat) (r : Group) (code : BitVec 13), scalarTurn (.sbrk code) s g r ∧
    s.bpSkip.contains (.scalar g) = false ∧ s.attach = true :=
  ⟨{ atS grp0 with attach := true }, 0, grp0, 3, scalarTurn_of _ _ _ _ (by decide +kernel), by decide +kernel, rfl⟩

theorem witness_PrivilegeAndTrapRequests_resumed : ∃ (s : State) (g : Nat) (r : Group) (code : BitVec 13), scalarTurn (.sbrk code) s g r ∧
    s.bpSkip.contains (.scalar g) = true :=
  ⟨{ atS grp0 with bpSkip := [.scalar 0] }, 0, grp0, 3, scalarTurn_of _ _ _ _ (by decide +kernel), by decide +kernel⟩

theorem witness_StackPopAndWaitOnAddress_pop : ∃ (s : State) (g : Nat) (r : Group) (m : Team) (q : List RsEntry) (e : RsEntry) (a : BitVec 6) (o : Nat),
    scalarTurn (.spop a) s g r ∧ s.team? r.team = some m ∧ r.rs = q ++ [e] ∧ (r.sread a).toNat = o ∧
    (a ≠ 0 → o % 64 = 0 ∧ 256 ≤ o ∧ o + 192 ≤ m.spSize ∧ swf m.sp = true) ∧ a ≠ 0 ∧ e.kind = .trap ∧ e.resume ≠ 0 :=
  let e : RsEntry := ⟨.trap, 0x10030, 0, 3, 0x10010, Vector.replicate 16 0⟩
  let r := { grp0 with rs := [e] }
  ⟨atS r, 0, r, team0, [], e, 4, 256, scalarTurn_of _ _ _ _ (by decide +kernel), by decide +kernel, rfl, by decide +kernel, by decide +kernel,
    by decide, rfl, by decide⟩

theorem witness_StackPopAndWaitOnAddress_wait : ∃ (s : State) (g : Nat) (r : Group) (a : BitVec 6) (imm : BitVec 13) (leaf : W64) (pa : Nat) (u : State),
    scalarTurn (.swaita a imm) s g r ∧
    (s.setGrp g (begun (.swaita a imm) s r)).checkData (g / 32) r.ctx (r.sread a + imm.signExtend 64) 1 .read true = (.ok leaf pa, u) ∧
    (pa / 2 ^ 50 % 4 = 1 → isCoherentHost leaf = true) :=
  ⟨atS grp0, 0, grp0, 3, 5, fetchLeaf, 0x100005, _, scalarTurn_of _ _ _ _ (by decide +kernel), Prod.ext (by decide +kernel) rfl, by decide⟩

/-- The same on a page of host memory that is mapped coherent. -/
theorem witness_StackPopAndWaitOnAddress_host : ∃ (s : State) (g : Nat) (r : Group) (a : BitVec 6) (imm : BitVec 13) (leaf : W64) (pa : Nat) (u : State),
    scalarTurn (.swaita a imm) s g r ∧
    (s.setGrp g (begun (.swaita a imm) s r)).checkData (g / 32) r.ctx (r.sread a + imm.signExtend 64) 1 .read true = (.ok leaf pa, u) ∧
    pa / 2 ^ 50 % 4 = 1 ∧ isCoherentHost leaf = true :=
  let leaf : W64 := fetchLeaf ||| 0x4000000000000
  ⟨{ atS grp0 with cores := [(0, { core0 with tlb := [⟨0, 0, 0, 0x10000, 65536, leaf⟩] })] }, 0, grp0, 3, 5, leaf, 0x4000000100005, _,
    scalarTurn_of _ _ _ _ (by decide +kernel), fst_eq (by decide +kernel), by decide +kernel⟩

theorem witness_ExtendedCommands : ∃ (i : Instr) (s : State) (g : Nat) (r : Group) (m : Team) (d a b : BitVec 6) (priv barrier : Bool) (c : Option Ctr),
    scalarTurn i s g r ∧ s.team? r.team = some m ∧ xcmdForm (begun i s r) m r.sread i = some (d, a, b, priv, barrier, true, c) ∧
    (priv = true → s.privOf r.ctx = true) :=
  ⟨.cpy2d 0 4 0, atS grp0, 0, grp0, team0, 0, 4, 0, false, false, some .cpc, scalarTurn_of _ _ _ _ (by decide +kernel), by decide +kernel,
    rfl, by decide⟩

/-- With the handle of that page in a register. -/
def grpF : Group := { grp0 with s := grp0.s.setIfInBounds 5 2 }

/-- Core 0 with a Fen page at 0x20000. -/
def atFen (r : Group) : State := { atS r with cores := [(0, { core0 with tlb := [⟨0, 0, 0, 0x20000, 65536, 0x120000000000002F⟩] })] }

theorem witness_FenAndExtendedAtomics_fen : ∃ (i : Instr) (k : FenKind) (s : State) (g : Nat) (r : Group) (m : Team) (d a b : BitVec 6) (leaf : W64)
    (pa : Nat) (u : State), scalarTurn i s g r ∧ s.team? r.team = some m ∧
    ((i = .fsdep d a b ∧ k = .deposit) ∨ (i = .fstake d a b ∧ k = .take) ∨ (i = .fscpy d a b ∧ k = .copy)) ∧
    (r.sread a).toNat / 2 ^ 50 < 5 ∧ (r.sread a).toNat / 2 ^ 46 % 4 = 0 ∧ (r.sread a).toNat / 2 ^ 49 % 2 = 0 ∧
    (if k = .deposit then (r.sread a).toNat / 2 ^ 32 % 2 ^ 14 = 0
      else (List.range 7).all (fun f => (r.sread a).toNat / 2 ^ (32 + 2 * f) % 4 != 3) = true) ∧
    (r.sread b).toNat < 2 ^ 20 ∧ (r.sread b).toNat % 64 = 0 ∧ (r.sread b).toNat + (if k = .deposit then 64 else 128) ≤ m.spSize ∧
    (s.setGrp g (begun i s r)).checkFen (g / 32) r.ctx ((r.sread a).setWidth 32) k = (.ok leaf pa, u) :=
  ⟨.fstake 1 5 4, .take, atFen grpF, 0, grpF, team0, 1, 5, 4, 0x120000000000002F, 0, _, scalarTurn_of _ _ _ _ (by decide +kernel), by decide +kernel,
    .inr (.inl ⟨rfl, rfl⟩), by
      refine ⟨?_, ?_, ?_, ?_, ?_, ?_, ?_, Prod.ext (by decide +kernel) rfl⟩ <;> decide +kernel⟩

theorem witness_FenAndExtendedAtomics_atomic : ∃ (s : State) (g : Nat) (r : Group) (d a b : BitVec 6) (fn : AtomFn) (n : Nat) (leaf : W64) (pa : Nat) (u : State),
    scalarTurn (.xatom d a b) s g r ∧ (r.sread a).toNat / 2 ^ 61 < 5 ∧ xatomFn ((r.sread a).toNat / 2 ^ 57 % 16) = some (fn, n) ∧
    (s.setGrp g (begun (.xatom d a b) s r)).checkData (g / 32) r.ctx (((r.sread a).setWidth 57).signExtend 64) n .write true = (.ok leaf pa, u) ∧
    (pa / 2 ^ 50 % 4 = 1 → u.hostAtomics = true ∧ (r.sread a).toNat / 2 ^ 57 % 16 ∈ [0, 8, 11]) :=
  ⟨atS grp0, 0, grp0, 1, 3, 5, .int .add, 8, fetchLeaf, 0x100000, _, scalarTurn_of _ _ _ _ (by decide +kernel), by decide +kernel, by decide +kernel,
    Prod.ext (by decide +kernel) rfl, by decide⟩

/-- Operand fields without a prefix: vd, va, vb. -/
def lf (ty : LType) (d a b : BitVec 10) : LaneF := ⟨ty, d, a, .reg b, false, none, false, 0, none⟩
/-- Without an operand b. -/
def ln (ty : LType) (d a : BitVec 10) : LaneF := ⟨ty, d, a, .none, false, none, false, 0, none⟩

theorem witness_LaneIntegers : ∃ (i : Instr) (s : State) (g : Nat) (r : Group) (f : LaneF) (fn : Nat → Nat → Nat → Nat → Nat × BitVec 8),
    intElement i = some (f, fn) ∧ i.wf = true ∧ laneTurn (laneNeeds f true false) s g r ∧ swf r.v = true ∧
    (∀ j, j < (if f.ty.is64 then 2 else 1) → r.writable (f.vd.toNat + j) = true) :=
  ⟨.vadd (lf .i64 8 10 12) true, atL grp0, 0, grp0, lf .i64 8 10 12, _, rfl, by decide +kernel, laneTurn_of _ _ _ _ (by decide +kernel),
    by decide +kernel⟩

theorem witness_LaneFloats : ∃ (i : Instr) (s : State) (g : Nat) (r : Group) (f : LaneF) (sfu : Bool) (fn : Nat → Nat → Nat → Nat × BitVec 8),
    floatElement r i = some (f, sfu, fn) ∧ i.wf = true ∧ laneTurn { laneNeeds f true false with sfu := sfu } s g r ∧ swf r.v = true ∧
    (∀ j, j < (if f.ty.is64 then 2 else 1) → r.writable (f.vd.toNat + j) = true) :=
  ⟨.vfsqrt (ln .f32 8 9), atL grp0, 0, grp0, ln .f32 8 9, true, _, rfl, by decide +kernel, laneTurn_of _ _ _ _ (by decide +kernel),
    by decide +kernel⟩

theorem witness_LaneMovesAndMasks : ∃ (i : Instr) (s : State) (g : Nat) (r : Group) (f : LaneF) (nd : LNeeds) (n : Nat) (val : Nat → List W32)
    (k : Option (Nat × (Nat → Bool))), laneOther r i = some (f, nd, n, val, k) ∧ i.wf = true ∧ laneTurn nd s g r ∧ swf r.v = true ∧
    (∀ j, j < n → r.writable (f.vd.toNat + j) = true) :=
  ⟨.vaddc (lf .n32 8 9 10) 3, atL grp0, 0, grp0, lf .n32 8 9 10, _, 1, _, _, rfl, by decide +kernel, laneTurn_of _ _ _ _ (by decide +kernel),
    by decide +kernel⟩

theorem witness_LaneConversions : ∃ (i : Instr) (s : State) (g : Nat) (r : Group) (f : LaneF) (nd : LNeeds) (n : Nat) (val : Nat → List W32)
    (k : Option (Nat × (Nat → Bool))) (flag : Nat → BitVec 8), laneConverts r i = some (f, nd, n, val, k, flag) ∧ i.wf = true ∧ laneTurn nd s g r ∧
    swf r.v = true ∧ (∀ j, j < n → r.writable (f.vd.toNat + j) = true) :=
  ⟨.vred (ln .f32 8 9) .add, atL grp0, 0, grp0, ln .f32 8 9, _, 1, _, _, _, rfl, by decide +kernel, laneTurn_of _ _ _ _ (by decide +kernel),
    by decide +kernel⟩

theorem witness_LaneBranchesAndCalls_control : ∃ (s : State) (g : Nat) (r r' : Group) (nd : LNeeds) (pc : W64) (i : Instr),
    laneControl r i = some (nd, r', pc) ∧ laneTurn nd s g r :=
  let r := { grp0 with exec := 3, rs := [⟨.div, 0x10030, 0x10030, 2, 0, Vector.replicate 16 0⟩] }
  ⟨atL r, 0, r, { r with rs := [], exec := r.exec ||| 2 }, noNeeds, r.lpc + 12, .vjoin, rfl, laneTurn_of _ _ _ _ (by decide +kernel)⟩

/-- The lane stream with the header of a function of budget 64 in its instruction cache, at address 0x10100. -/
def atCall (r : Group) : State := { atL r with cores := [(0, { core0 with icache := [(0x1000, hdrLine)] })] }

theorem witness_LaneBranchesAndCalls_call : ∃ (s : State) (g : Nat) (r : Group) (off : W32) (u : State), laneTurn noNeeds s g r ∧ r.rs.length ≤ 30 ∧
    s.callCheck g r (r.lpc + off.signExtend 64) = (some none, u) ∧ u.grp? g = some r :=
  let r := { grp0 with lpc := 0x10000 }
  ⟨atCall r, 0, r, 0x100, ((atCall r).callCheck 0 r 0x10100).2, laneTurn_of _ _ _ _ (by decide +kernel), by decide +kernel,
    Prod.ext (by decide +kernel) rfl, by decide +kernel⟩

theorem witness_LaneBranchesAndCalls_noLane : ∃ (s : State) (g : Nat) (r : Group) (a : BitVec 10), laneTurn { noNeeds with vr := [(a.toNat, 2, 2)] } s g r ∧
    r.rs.length ≤ 30 ∧ r.exec = 0 :=
  let r := { grp0 with exec := 0 }
  ⟨atL r, 0, r, 6, laneTurn_of _ _ _ _ (by decide +kernel), by decide +kernel, rfl⟩

theorem witness_LaneBranchesAndCalls_vector : ∃ (s : State) (g : Nat) (r : Group) (a : BitVec 10) (pc : W64) (u : State),
    laneTurn { noNeeds with vr := [(a.toNat, 2, 2)] } s g r ∧ r.rs.length ≤ 30 ∧ r.exec ≠ 0 ∧
    (∀ l, l < 96 → r.exec.getLsbD l = true → r.rd .i64 a l = pc) ∧ s.callCheck g r pc = (some none, u) ∧ u.grp? g = some r :=
  let r := { grp0 with v := sset [] (6 * 96) 0x10100 }
  ⟨atCall r, 0, r, 6, 0x10100, ((atCall r).callCheck 0 r 0x10100).2, laneTurn_of _ _ _ _ (by decide +kernel), by decide +kernel, by decide +kernel,
    by decide +kernel, Prod.ext (by decide +kernel) rfl, by decide +kernel⟩

theorem witness_LaneFenceTrapAndBlockEnd_end : ∃ (s : State) (g : Nat) (r : Group) (b : Blk), laneTurn noNeeds s g r ∧ r.blk = some b :=
  let b : Blk := ⟨0x10000, Vector.replicate 16 0, 0, grp0.ck, false, true, none, 0, 0, 0, 0⟩
  let r := { grp0 with blk := some b }
  ⟨atL r, 0, r, b, laneTurn_of _ _ _ _ (by decide +kernel), rfl⟩

theorem witness_LaneFenceTrapAndBlockEnd_fence : ∃ (s : State) (g : Nat) (r : Group) (sc : Scope), laneTurn noNeeds s g r ∧
    waitLeaves s g r (.sfence sc) = some r ∧ s.loadsBound g s.nextId 0 true = true ∧ s.laneHeld g = false :=
  ⟨atL grp0, 0, grp0, .team, laneTurn_of _ _ _ _ (by decide +kernel), by decide +kernel⟩

theorem witness_LaneFenceTrapAndBlockEnd_trap : ∃ (s u : State) (g : Nat) (r : Group),
    (laneTurn noNeeds s g r ∧ r.exec ≠ 0 ∧ s.trapsAtOnce g r ∧ s.earlyOut g r = false ∧ s.handlerFor r 0x0B = none) ∧
    (laneTurn noNeeds u g r ∧ r.exec ≠ 0 ∧ Item.close ∈ u.agenda) :=
  ⟨atL grp0, { atL grp0 with agenda := [.seq 0, .close] }, 0, grp0, ⟨laneTurn_of _ _ _ _ (by decide +kernel), by decide +kernel,
    atOnce_of _ _ _ (by decide +kernel), by decide +kernel⟩, laneTurn_of _ _ _ _ (by decide +kernel), by decide +kernel⟩

theorem witness_LaneFenceTrapAndBlockEnd_noLane : ∃ (s : State) (g : Nat) (r : Group), laneTurn noNeeds s g r ∧ r.exec = 0 :=
  let r := { grp0 with exec := 0 }
  ⟨atL r, 0, r, laneTurn_of _ _ _ _ (by decide +kernel), rfl⟩

theorem witness_LaneFenceTrapAndBlockEnd_break : ∃ (s : State) (g : Nat) (r : Group), laneTurn noNeeds s g r ∧ r.exec ≠ 0 ∧ s.attach = true ∧
    s.bpSkip.contains (.lane g) = false :=
  ⟨{ atL grp0 with attach := true }, 0, grp0, laneTurn_of _ _ _ _ (by decide +kernel), by decide +kernel, rfl, by decide +kernel⟩

theorem laneAll_of (p : LAll × State) (f : List (Nat × W64 × List Piece) → State → Bool)
    (h : (match p.1 with | .ok l => f l p.2 | _ => false) = true) : ∃ ls u, p = (.ok ls, u) ∧ f ls u = true := by
  obtain ⟨a, u⟩ := p
  cases a with
  | ok l => exact ⟨l, u, rfl, h⟩
  | wait => cases h
  | bad b => cases h

theorem fenAll_of (p : FAll × State) (f : List (Nat × Nat × Nat) → State → Bool)
    (h : (match p.1 with | .ok l => f l p.2 | _ => false) = true) : ∃ ls u, p = (.ok ls, u) ∧ f ls u = true := by
  obtain ⟨a, u⟩ := p
  cases a with
  | ok l => exact ⟨l, u, rfl, h⟩
  | wait => cases h
  | bad b => cases h

/-- Lane 0's address pair v10:v11 holds 0x10000. -/
def grpV : Group := { grp0 with v := sset [] (10 * 96) 0x10000 }

theorem witness_LaneLoads : ∃ (s : State) (g : Nat) (r : Group) (f : LaneF) (size : MSize) (ord : MOrder) (sc : Scope) (imm : W32)
    (ls : List (Nat × W64 × List Piece)) (u : State),
    laneTurn ⟨addrRegs f true, [dataRegs f.vd size], kRegs f, [], some .ldc, false⟩ s g r ∧ r.eff f.men ≠ 0 ∧ s.laneMay g r ord sc = true ∧
    s.laneAll (g / 32) r.ctx (mbytes size) (laneAlign size false) .read 0 (fun _ _ => none) (r.laneVas f imm (r.eff f.men)) = (.ok ls, u) ∧
    u.lanePoison (some (g / 32)) ls = none := by
  obtain ⟨ls, u, h, hp⟩ := laneAll_of ((atL grpV).laneAll 0 0 16 4 .read 0 (fun _ _ => none) (grpV.laneVas (ln .w32 12 10) 16 (grpV.eff none)))
    (fun l u => (u.lanePoison (some 0) l).isNone) (by decide +kernel)
  exact ⟨atL grpV, 0, grpV, ln .w32 12 10, .q, .acq, .cl, 16, ls, u, laneTurn_of _ _ _ _ (by decide +kernel), by decide +kernel,
    by decide +kernel, h, by simpa using hp⟩

theorem witness_LaneStores : ∃ (s : State) (g : Nat) (r : Group) (f : LaneF) (size : MSize) (ord : MOrder) (sc : Scope) (imm : W32)
    (ls : List (Nat × W64 × List Piece)) (u : State),
    laneTurn ⟨dataRegs f.vd size :: addrRegs f true, [], kRegs f, [], some .stc, false⟩ s g r ∧ r.eff f.men ≠ 0 ∧ s.laneMay g r ord sc = true ∧
    s.laneAll (g / 32) r.ctx (mbytes size) (laneAlign size false) .write 1 (fun _ _ => none) (r.laneVas f imm (lanesLeft r f)) = (.ok ls, u) := by
  obtain ⟨ls, u, h, -⟩ := laneAll_of ((atL grpV).laneAll 0 0 4 4 .write 1 (fun _ _ => none) (grpV.laneVas (ln .w32 12 10) 16 (lanesLeft grpV (ln .w32 12 10))))
    (fun _ _ => true) (by decide +kernel)
  exact ⟨atL grpV, 0, grpV, ln .w32 12 10, .w, .rel, .team, 16, ls, u, laneTurn_of _ _ _ _ (by decide +kernel), by decide +kernel,
    by decide +kernel, h⟩

/-- Behind a restoration: of lanes 0 and 1 the image lists lane 0 as sent. -/
def grpL : Group := { grpV with exec := 3, lsentV := true, lsent := 1, v := sset (sset [] (10 * 96) 0x10000) (10 * 96 + 1) 0x10100 }

theorem witness_LaneStores_restored : ∃ (s : State) (g : Nat) (r : Group) (f : LaneF) (size : MSize) (ord : MOrder) (sc : Scope) (imm : W32)
    (ls : List (Nat × W64 × List Piece)) (u : State), lanesLeft r f = 2 ∧ ls.length = 1 ∧
    laneTurn ⟨dataRegs f.vd size :: addrRegs f true, [], kRegs f, [], some .stc, false⟩ s g r ∧ r.eff f.men ≠ 0 ∧ s.laneMay g r ord sc = true ∧
    s.laneAll (g / 32) r.ctx (mbytes size) (laneAlign size false) .write 1 (fun _ _ => none) (r.laneVas f imm (lanesLeft r f)) = (.ok ls, u) := by
  obtain ⟨ls, u, h, hl⟩ := laneAll_of ((atL grpL).laneAll 0 0 4 4 .write 1 (fun _ _ => none) (grpL.laneVas (ln .w32 12 10) 16 (lanesLeft grpL (ln .w32 12 10))))
    (fun l _ => l.length == 1) (by decide +kernel)
  exact ⟨atL grpL, 0, grpL, ln .w32 12 10, .w, .rel, .team, 16, ls, u, by decide +kernel, by simpa using hl, laneTurn_of _ _ _ _ (by decide +kernel),
    by decide +kernel, by decide +kernel, h⟩

theorem witness_LaneAtomics_vatom : ∃ (s : State) (g : Nat) (r : Group) (f : LaneF) (op : AtomOp) (size : MSize) (ord : MOrder) (sc : Scope) (imm : W32)
    (ls : List (Nat × W64 × List Piece)) (u : State), atomicsPass s g r f size ord sc imm ((op == .add || op == .swap) && f.ty != .f32) ls u := by
  obtain ⟨ls, u, h, hp⟩ := laneAll_of ((atL grpV).laneAll 0 0 4 4 .write 2
      (fun va ps => if !((atL grpV).hostAtomics && true) && ps.any (fun (p : Piece) => paClass p.2.1 == 1) then some ⟨cREGION, va, 0, true, false, false⟩ else none)
      (grpV.laneVas (ln .n32 12 10) 8 (lanesLeft grpV (ln .n32 12 10))))
    (fun l u => (u.lanePoison none l).isNone) (by decide +kernel)
  exact ⟨atL grpV, 0, grpV, ln .n32 12 10, .add, .w, .relaxed, .dev, 8, ls, u, laneTurn_of _ _ _ _ (by decide +kernel), by decide +kernel,
    by decide +kernel, h, by simpa using hp⟩

theorem witness_LaneAtomics_vcas : ∃ (s : State) (g : Nat) (r : Group) (f : LaneF) (size : MSize) (ord : MOrder) (sc : Scope) (imm : W32) (vc : BitVec 10)
    (ls : List (Nat × W64 × List Piece)) (u : State), f.vc = some vc ∧ atomicsPass s g r f size ord sc imm true ls u := by
  let f : LaneF := { ln .n64 12 10 with pfx := true, vc := some 14 }
  obtain ⟨ls, u, h, hp⟩ := laneAll_of ((atL grpV).laneAll 0 0 8 8 .write 2
      (fun va ps => if !((atL grpV).hostAtomics && true) && ps.any (fun (p : Piece) => paClass p.2.1 == 1) then some ⟨cREGION, va, 0, true, false, false⟩ else none)
      (grpV.laneVas f 8 (lanesLeft grpV f)))
    (fun l u => (u.lanePoison none l).isNone) (by decide +kernel)
  exact ⟨atL grpV, 0, grpV, f, .d, .relaxed, .dev, 8, 14, ls, u, rfl, laneTurn_of _ _ _ _ (by decide +kernel), by decide +kernel,
    by decide +kernel, h, by simpa using hp⟩

theorem witness_LaneScratchpadAndPrefetch_load : ∃ (s : State) (g : Nat) (r : Group) (m : Team) (f : LaneF) (size : MSize) (imm : W32),
    s.teamOf r = some m ∧ swf r.v = true ∧
    (∀ l, l < 96 → (r.eff f.men).getLsbD l = true → r.laneOff f r.blkSnap imm l % mbytes size = 0 ∧ r.laneOff f r.blkSnap imm l + mbytes size ≤ m.spSize) ∧
    laneTurn ⟨addrRegs f false, [dataRegs f.vd size], kRegs f, [], none, false⟩ s g r ∧ m.poison = [] ∧
    (∀ j, j < mwords size → r.writable (f.vd.toNat + j) = true) :=
  ⟨atL grp0, 0, grp0, team0, ln .w32 12 10, .q, 65520, by decide +kernel, by decide +kernel, by decide +kernel, laneTurn_of _ _ _ _ (by decide +kernel),
    by decide +kernel⟩

theorem witness_LaneScratchpadAndPrefetch_store : ∃ (s : State) (g : Nat) (r : Group) (m : Team) (f : LaneF) (size : MSize) (imm : W32),
    s.teamOf r = some m ∧ swf r.v = true ∧
    (∀ l, l < 96 → (r.eff f.men).getLsbD l = true → r.laneOff f r.blkSnap imm l % mbytes size = 0 ∧ r.laneOff f r.blkSnap imm l + mbytes size ≤ m.spSize) ∧
    laneTurn ⟨dataRegs f.vd size :: addrRegs f false, [], kRegs f, [], none, false⟩ s g r ∧
    (∀ l, l < 96 → (r.eff f.men).getLsbD l = true → 256 ≤ r.laneOff f r.blkSnap imm l) ∧ g ∈ m.members ∧ r.hidSp = [] :=
  ⟨atL grp0, 0, grp0, team0, ln .w32 12 10, .h, 256, by decide +kernel, by decide +kernel, by decide +kernel, laneTurn_of _ _ _ _ (by decide +kernel),
    by decide +kernel⟩

theorem witness_LaneScratchpadAndPrefetch_prefetch : ∃ (s : State) (g : Nat) (r : Group) (f : LaneF) (imm : W32) (u : State),
    laneTurn ⟨addrRegs f true, [], kRegs f, [], none, false⟩ s g r ∧ s.laneHeld g = false ∧
    s.prefetch (g / 32) r.ctx r.lease.toNat (r.laneVas f imm (r.eff f.men)) = (true, u) ∧ u.grp? g = some r :=
  let r := { grpV with exec := 0 }
  ⟨atL r, 0, r, ln .w32 0 10, 16, ((atL r).prefetch 0 r.ctx r.lease.toNat (r.laneVas (ln .w32 0 10) 16 (r.eff none))).2,
    laneTurn_of _ _ _ _ (by decide +kernel), by decide +kernel, Prod.ext (by decide +kernel) rfl, by decide +kernel⟩

/-- Lane 0 names the region of handle 2 in v10. -/
def grpW : Group := { grp0 with v := sset [] (10 * 96) 2 }
/-- At the lane stream, the region of that page held by this module. -/
def laneFenS (r : Group) : State :=
  { atFen r with cur := .lane 0, alder := { (atFen r).alder with regions := [(0x12, ⟨0, 2, 0, false, 0, 0⟩)] } }

theorem witness_LaneFen_deposit : ∃ (blk : Bool) (sc : Scope) (s : State) (g : Nat) (r : Group) (f : LaneF)
    (vs : BitVec 10) (ls : List (Nat × Nat × Nat)) (u : State), f.b = .reg vs ∧ r.eff f.men ≠ 0 ∧ s.laneHeld g = false ∧
    laneTurn { vr := [(f.vd.toNat, 16, 16)], vw := [(vs.toNat, 1, 1)], kr := kRegs f, kw := [], ctr := some .tlc, sfu := false } s g r ∧
    (∀ l, l < 96 → (lanesLeft r f).getLsbD l = true → (r.vread (f.vd.toNat + 1) l).toNat < 8) ∧ s.fenceHolds g r sc = true ∧
    s.loadsBound g s.nextId 0 true = true ∧
    s.fenAll (g / 32) r.ctx .deposit (((List.range 96).filter fun l => (lanesLeft r f).getLsbD l).map fun l => (l, r.vread vs.toNat l)) = (.ok ls, u) ∧
    u.fenUnsent g = [] ∧ (∀ x, x ∈ ls → (kget u.alder.regions x.2.2).isSome = true) ∧ blk = true := by
  obtain ⟨ls, u, h, hp⟩ := fenAll_of ((laneFenS grpW).fenAll 0 0 .deposit
      (((List.range 96).filter fun l => (lanesLeft grpW (lf .w32 16 0 10)).getLsbD l).map fun l => (l, grpW.vread 10 l)))
    (fun l u => (u.fenUnsent 0).isEmpty && l.all fun x => (kget u.alder.regions x.2.2).isSome) (by decide +kernel)
  simp only [Bool.and_eq_true, List.isEmpty_iff, List.all_eq_true] at hp
  exact ⟨true, .grp, laneFenS grpW, 0, grpW, lf .w32 16 0 10, 10, ls, u, rfl, by decide +kernel, by decide +kernel,
    laneTurn_of _ _ _ _ (by decide +kernel), by decide +kernel, by decide +kernel, by decide +kernel, h, hp.1, hp.2, rfl⟩

theorem witness_LaneFen_take : ∃ (k : FenKind) (s : State) (g : Nat) (r : Group) (f : LaneF)
    (vs : BitVec 10) (ls : List (Nat × Nat × Nat)) (u : State), (k = .take ∨ k = .copy) ∧ f.b = .reg vs ∧ r.eff f.men ≠ 0 ∧ s.laneHeld g = false ∧
    laneTurn { vr := [(f.vd.toNat, 16, 16), (f.va.toNat, 16, 16)], vw := [(f.vd.toNat, 16, 16), (vs.toNat, 1, 1)], kr := kRegs f, kw := []
               ctr := some .tlc, sfu := false } s g r ∧
    s.fenAll (g / 32) r.ctx k (((List.range 96).filter fun l => (lanesLeft r f).getLsbD l).map fun l => (l, r.vread (f.va.toNat + 1) l)) = (.ok ls, u) ∧
    u.fenUnsent g = [] ∧ (∀ x, x ∈ ls → (kget u.alder.regions x.2.2).isSome = true) := by
  let r : Group := { grp0 with v := sset [] (33 * 96) 2 }
  obtain ⟨ls, u, h, hp⟩ := fenAll_of ((laneFenS r).fenAll 0 0 .take
      (((List.range 96).filter fun l => (lanesLeft r (lf .w32 16 32 10)).getLsbD l).map fun l => (l, r.vread 33 l)))
    (fun l u => (u.fenUnsent 0).isEmpty && l.all fun x => (kget u.alder.regions x.2.2).isSome) (by decide +kernel)
  simp only [Bool.and_eq_true, List.isEmpty_iff, List.all_eq_true] at hp
  exact ⟨.take, laneFenS r, 0, r, lf .w32 16 32 10, 10, ls, u, .inl rfl, rfl, by decide +kernel, by decide +kernel,
    laneTurn_of _ _ _ _ (by decide +kernel), h, hp.1, hp.2⟩

theorem witness_RegroupArrivals_regrp : ∃ (s : State) (g : Nat) (r : Group) (m : Team) (a base : BitVec 10) (count : BitVec 7), s.team? r.team = some m ∧
    m.members = [g] ∧ r.pendV = [] ∧ r.lres = [] ∧ r.parked = none ∧ (s.core (r.team / 4)).moves = [] ∧
    laneTurn { noNeeds with vr := [(a.toNat, 1, 1), (base.toNat, count.toNat, 16)] } s g r ∧ r.rs.length ≤ 30 ∧
    (∀ e ∈ r.rs, e.kind ≠ .regroup) ∧ (∀ l, l < 96 → r.exec.getLsbD l = true → (r.vread a.toNat l).toNat < 8) :=
  ⟨atL grp0, 0, grp0, team0, 33, 32, 16, by decide +kernel, by decide +kernel, by decide +kernel, by decide +kernel, rfl, by decide +kernel,
    laneTurn_of _ _ _ _ (by decide +kernel), by decide +kernel⟩

theorem witness_RegroupArrivals_rjoin : ∃ (s : State) (g : Nat) (r : Group) (m : Team) (w : Regroup) (e : RsEntry), s.team? r.team = some m ∧
    m.members = [g] ∧ r.pendV = [] ∧ r.lres = [] ∧ r.parked = none ∧ (s.core (r.team / 4)).moves = [] ∧ laneTurn noNeeds s g r ∧ r.rg = some w ∧ w.host = true ∧
    r.rs.getLast? = some e ∧ e.kind = .regroup :=
  let w : Regroup := ⟨true, false, 32, 16, Vector.replicate 16 0, [], List.replicate 96 0⟩
  let e : RsEntry := ⟨.regroup, 0x1000C, 0, 1, 0, Vector.replicate 16 0⟩
  let r := { grp0 with rg := some w, rs := [e] }
  ⟨atL r, 0, r, team0, w, e, by decide +kernel, by decide +kernel, by decide +kernel, by decide +kernel, rfl, by decide +kernel,
    laneTurn_of _ _ _ _ (by decide +kernel), rfl, rfl, rfl, rfl⟩

theorem witness_TeamArithmeticAndControl : ∃ (i : Instr) (s : State) (q : Nat) (m m' : Team) (regs : List (BitVec 5)) (pc : W64),
    teamLeaves m i = some (regs, m', pc) ∧ seqTurn regs s q m :=
  ⟨.wli 9 0xFFFFFFF0, atQ team0, 0, team0, team0.takes 9 ((0xFFFFFFF0 : W32).signExtend 64), [9], team0.tpc + 8, rfl, seqTurn_of _ _ _ _ (by decide +kernel)⟩

theorem witness_TeamResultsAndBarriers_multiply : ∃ (s : State) (q : Nat) (m : Team) (d a b : BitVec 5), seqTurn [d, a, b] s q m ∧ d ≠ 0 :=
  ⟨atQ team0, 0, team0, 9, 10, 11, seqTurn_of _ _ _ _ (by decide +kernel), by decide⟩

theorem witness_TeamResultsAndBarriers_load : ∃ (s : State) (q : Nat) (m : Team) (d a : BitVec 5) (imm : W32) (o : Nat), seqTurn [d, a] s q m ∧ d ≠ 0 ∧
    (m.wread a + imm.signExtend 64).toNat = o ∧ o % 8 = 0 ∧ o + 8 ≤ m.spSize ∧ m.poison.contains o = false :=
  ⟨atQ team0, 0, team0, 9, 10, 65528, 65528, seqTurn_of _ _ _ _ (by decide +kernel), by decide, by decide +kernel, by decide,
    by decide +kernel⟩

theorem witness_TeamResultsAndBarriers_store : ∃ (s : State) (q : Nat) (m : Team) (b a : BitVec 5) (imm : W32) (o : Nat), seqTurn [a, b] s q m ∧
    (m.wread a + imm.signExtend 64).toNat = o ∧ o % 8 = 0 ∧ 256 ≤ o ∧ o + 8 ≤ m.spSize ∧ swf m.sp = true :=
  ⟨atQ team0, 0, team0, 11, 10, 256, 256, seqTurn_of _ _ _ _ (by decide +kernel), by decide +kernel, by decide, by decide,
    by decide +kernel⟩

theorem witness_TeamResultsAndBarriers_result : ∃ (s : State) (q : Nat) (m : Team) (p : PendW), s.args = [q, p.id] ∧ s.team? q = some m ∧ m.pendW = [p] :=
  let p : PendW := ⟨9, 5, 7⟩
  let m := { team0 with pendW := [p] }
  ⟨evt [0, 7] grp0 m, 0, m, p, by decide +kernel, by decide +kernel, rfl⟩

theorem witness_TeamResultsAndBarriers_barrier : ∃ (s : State) (q : Nat) (m : Team) (n : BitVec 4), seqTurn [] s q m ∧ (m.bar n).armed = true ∧
    m.forwards q n = false ∧ (m.bar n).err = false ∧ m.fwdArr = false ∧ (m.bar n).arrived + 1 < (m.bar n).expect ∧ swf m.sp = true :=
  ⟨atQ team5, 0, team5, 5, seqTurn_of _ _ _ _ (by decide +kernel), by decide +kernel⟩

/-- A sequencer that has recorded a phase which is over. -/
theorem witness_TeamResultsAndBarriers_over : ∃ (s : State) (q : Nat) (m : Team) (n : BitVec 4), seqTurn [] s q m ∧ (m.bar n).armed = true ∧
    m.forwards q n = false ∧ (m.bar n).err = false ∧ m.fwdArr = false ∧
    ((m.barTarget.or (kget m.arr n.toNat)).getD (BitVec.ofNat 32 (m.bar n).phase)).toNat ≠ (m.bar n).phase :=
  let m := { team5 with barTarget := some 7 }
  ⟨atQ m, 0, m, 5, seqTurn_of _ _ _ _ (by decide +kernel), by decide +kernel⟩

theorem witness_TeamResultsAndBarriers_exit : ∃ (s : State) (q : Nat) (m : Team), seqTurn [] s q m ∧ m.ended.length ≠ m.groups ∧ m.pendW.length = 1 :=
  let m := { team0 with pendW := [⟨9, 5, 7⟩] }
  ⟨atQ m, 0, m, seqTurn_of _ _ _ _ (by decide +kernel), by decide +kernel⟩

/-- The team with two descriptor pairs of 2 rows of 16 elements, and format blocks at 256 and 320. -/
def teamE : Team := { teamF with w := ((((team0.w.setIfInBounds 5 0x0000100200000040).setIfInBounds 7 0x0000100200000040).setIfInBounds 4 0x10000
  ).setIfInBounds 6 0x11000).setIfInBounds 8 0x0000014000000100 }

theorem witness_EngineHandOver : ∃ (i : Instr) (s : State) (q : Nat) (m : Team) (regs : List (BitVec 5)) (kind : EngKind) (tl : BitVec 3) (n : BitVec 4)
    (pairs : List (BitVec 5)) (vals : List W64), engineForm m i = some (regs, kind, tl, n, pairs, vals) ∧ seqTurn regs s q m ∧ tl.toNat < m.accs ∧
    (∀ a ∈ pairs, a.toNat % 2 = 0) ∧ s.engRoom m.core q = true :=
  ⟨.mma 2 4 6 8 5, atQ teamE, 0, teamE, [4, 4 + 1, 6, 6 + 1, 8], .mma, 2, 5, [4, 6],
    [teamE.wread 4, teamE.wread (4 + 1), teamE.wread 6, teamE.wread (6 + 1), teamE.wread 8],
    by simp only [engineForm]; rw [if_pos (by decide +kernel)], seqTurn_of _ _ _ _ (by decide +kernel), by decide +kernel⟩

theorem witness_EngineHandOver_scratchpad : ∃ (s : State) (q : Nat) (m : Team) (a : BitVec 5) (n : BitVec 4) (c : DrainCtl) (tl : BitVec 3) (vals : List W64),
    c.spd = true ∧ engineForm m (.mdrain tl a n c) = some ([a, a + 1], .mdrain, tl, n, [a], vals) ∧ seqTurn [a, a + 1] s q m ∧ tl.toNat < m.accs ∧
    a.toNat % 2 = 0 ∧ s.engRoom m.core q = true :=
  let m := { teamE with w := teamE.w.setIfInBounds 4 256 }
  let c : DrainCtl := ⟨.fp32, true, false, .team, 0, false⟩
  ⟨atQ m, 0, m, 4, 5, c, 2, [m.wread 4, m.wread (4 + 1)], rfl, by simp only [engineForm]; rw [if_pos (by decide +kernel)],
    seqTurn_of _ _ _ _ (by decide +kernel), by decide +kernel⟩

theorem witness_WritesAtHome_accept : ∃ (s : State) (o p : Nat) (m : MemOp) (q : Part), s.args = [o, p] ∧ s.part? o p = some (m, q) ∧ q.gwct = none ∧
    paClass q.pa = 0 ∧ s.earlierWrite m.core ((m.agent.group?).getD 1048576) o q.pa q.len = false ∧
    (∀ e, e ∈ m.parts.take p → e.gwct = none → e.pa / 256 ≠ q.pa / 256 ∧ e.lane ≠ q.lane) ∧ s.pinnedCopy (q.pa / 256) = false :=
  let m := memOp .store (.scalar 0) .none part0
  ⟨withOp [7, 0] grp0 m, 7, 0, m, part0, by decide +kernel, by decide +kernel, rfl, by decide +kernel, by decide +kernel, by decide, by decide +kernel⟩

/-- The second part of a store of two lines, while the first, of another lane, has no GWCT yet. -/
theorem witness_WritesAtHome_second : ∃ (s : State) (o p : Nat) (m : MemOp) (q : Part), s.args = [o, p] ∧ s.part? o p = some (m, q) ∧ q.gwct = none ∧
    paClass q.pa = 0 ∧ s.earlierWrite m.core ((m.agent.group?).getD 1048576) o q.pa q.len = false ∧ p = 1 ∧
    (∀ e, e ∈ m.parts.take p → e.gwct = none → e.pa / 256 ≠ q.pa / 256 ∧ e.lane ≠ q.lane) ∧ s.pinnedCopy (q.pa / 256) = false :=
  let q := { part0 with lane := 1, pa := 0x100100 }
  let m := { memOp .store (.lane 0) .none part0 with parts := [part0, q] }
  ⟨withOp [7, 1] grp0 m, 7, 1, m, q, by decide +kernel, by decide +kernel, rfl, by decide +kernel, by decide +kernel, rfl, by decide, by decide +kernel⟩

theorem witness_WritesAtHome_perform : ∃ (s : State) (id : Nat) (w : PWrite), s.args = [id] ∧ kget s.writes id = some w ∧ kwf s.writes = true ∧
    w.gwct ≤ s.ptime ∧ s.behindAdd id w = false ∧ w.pa + w.data.length ≤ 2 ^ 50 ∧ (∀ i, i < w.data.length → isRegBlock (w.pa + i) = false) ∧
    isRegBlock w.pa = false ∧ s.homePlain :=
  let w : PWrite := ⟨0x100000, [some 1, none, some 3], 0, 7, 0, none, 0, none⟩
  ⟨{ evt [3] grp0 team0 with writes := [(3, w)] }, 3, w, by
      refine ⟨?_, ?_, ?_, ?_, ?_, ?_, ?_, ?_, homePlain_of _ rfl (by decide +kernel)⟩ <;> decide +kernel⟩

theorem witness_WritesAtHome_return : ∃ (s : State) (o p g gr : Nat) (m : MemOp) (q : Part) (r : Group), s.args = [o, p] ∧ s.part? o p = some (m, q) ∧
    q.gwct = some g ∧ q.bound = false ∧ (m.parts.eraseIdx p).all (·.bound) = true ∧ (m.agent = .scalar gr ∨ m.agent = .lane gr) ∧
    s.grp? gr = some r ∧ kwf s.ops = true :=
  let q := { part0 with gwct := some 90 }
  let m := memOp .store (.scalar 0) .none q
  ⟨withOp [7, 0] grp0 m, 7, 0, 90, 0, m, q, grp0, by decide +kernel, by decide +kernel, rfl, rfl, by decide +kernel, .inl rfl, by decide +kernel⟩

theorem witness_WritesAtHome_masks : ∃ (s : State) (core line : Nat) (ms : List MaskB), s.args = [core, line] ∧
    kget (s.core core).masks line = some ms ∧ kwf (s.core core).masks = true :=
  let ms : List MaskB := [⟨0, 1, 7, .scalar 0, some (0, 3)⟩, ⟨1, 1, 7, .lane 0, some (9, 4)⟩, ⟨2, 1, 8, .lane 0, none⟩]
  ⟨{ evt [0, 0x1000] grp0 team0 with cores := [(0, { core0 with masks := [(0x1000, ms)] })] }, 0, 0x1000, ms, by decide +kernel⟩

theorem witness_ReadsAndFills_read : ∃ (s : State) (o g : Nat) (m : MemOp) (q : Part), s.args = [o, 0] ∧ s.op? o = some m ∧ m.parts = [q] ∧ m.kind = .load ∧
    m.order = .relaxed ∧ (m.agent = .scalar g ∨ m.agent = .lane g) ∧ q.bound = false ∧ q.pa + 64 ≤ 2 ^ 50 ∧ isRegBlock q.pa = false ∧
    q.pa % 64 + q.len ≤ 64 ∧ isRegBlock (q.pa / 64 * 64) = false ∧ s.earlierRead g o m.pos m.agent.isLane (q.pa / 64) = false ∧
    s.meetsRefresh q.pa = false ∧ s.l2Room q.pa = true ∧ s.rdcHit (dieOf m.core) q.pa m.minFill = none ∧ s.homePlain ∧
    (∀ x, x ∈ s.ops → x.1 < s.nextId) ∧ kwf s.ops = true :=
  let m := memOp .load (.lane 0) (.lanes 12 .d false) part0
  ⟨withOp [7, 0] grp0 m, 7, 0, m, part0, by decide +kernel, by decide +kernel, rfl, rfl, rfl, .inr rfl, rfl, by
      refine ⟨?_, ?_, ?_, ?_, ?_, ?_, ?_, ?_, homePlain_of _ rfl (by decide +kernel), by decide +kernel⟩ <;> decide +kernel⟩

theorem witness_ReadsAndFills_fill : ∃ (s : State) (o : Nat) (m : MemOp) (q : Part) (bs : List Byte) (exp ft : Nat), s.args = [o, 0] ∧
    s.part? o 0 = some (m, q) ∧ q.fill = some (bs, exp, ft) ∧ m.kind = .fetchOnly ∧ m.asize = 0 ∧ bs.length = 64 ∧ paClass q.pa = 0 ∧
    isRegBlock (paLow q.pa) = false ∧ homeDie (paLow q.pa) = dieOf m.core ∧ kget (s.core m.core).l1 (l1Set (q.pa / 256)) = none ∧ kwf s.ops = true ∧ s.ptime < exp :=
  let q := { part0 with fill := some (List.replicate 64 9, 600, 0), bound := true }
  let m := { memOp .fetchOnly (.scalar 0) .none q with asize := 0 }
  ⟨withOp [7, 0] grp0 m, 7, m, q, List.replicate 64 9, 600, 0, by decide +kernel⟩

theorem witness_ReadsAndFills_lateFill : ∃ (s : State) (o : Nat) (m : MemOp) (q : Part) (bs : List Byte) (exp ft : Nat), s.args = [o, 0] ∧
    s.part? o 0 = some (m, q) ∧ q.fill = some (bs, exp, ft) ∧ m.kind = .fetchOnly ∧ m.asize = 0 ∧ bs.length = 64 ∧ paClass q.pa = 0 ∧
    isRegBlock (paLow q.pa) = false ∧ homeDie (paLow q.pa) = dieOf m.core ∧ kget (s.core m.core).l1 (l1Set (q.pa / 256)) = none ∧ kwf s.ops = true ∧ exp ≤ s.ptime :=
  let q := { part0 with fill := some (List.replicate 64 9, 0, 0), bound := true }
  let m := { memOp .fetchOnly (.scalar 0) .none q with asize := 0 }
  ⟨withOp [7, 0] grp0 m, 7, m, q, List.replicate 64 9, 0, 0, by decide +kernel⟩

theorem witness_ReadsAndFills_expiry : ∃ (s : State) (c line i sec : Nat) (l : CLine), sec < 4 ∧ c < 4 ∧ s.pinnedRdc c line = false ∧
    (kgetD (s.core c).l1 (l1Set line) CSet.empty).way? line = some (i, l) ∧
    (kgetD (s.die c).rdc (rdcSet line) CSet.empty).way? line = some (i, l) ∧ kget (s.core c).icache line = some l :=
  ⟨{ State.reset with
      cores := [(0, { Core.reset with l1 := [(0, ⟨[(0, hdrLine)], 0⟩)], icache := [(0x1000, hdrLine)] })]
      dies := #v[{ Die.reset with rdc := [(rdcSet 0x1000, ⟨[(0, hdrLine)], 0⟩)] }, Die.reset, Die.reset, Die.reset] },
    0, 0x1000, 0, 3, hdrLine, by decide, by decide, by decide +kernel⟩

theorem witness_ReadsAndFills_scalarReturn : ∃ (s : State) (o g : Nat) (m : MemOp) (r : Group) (p : PendS), s.args = [o] ∧ s.op? o = some m ∧
    m.unbound = false ∧ m.agent = .scalar g ∧ s.grp? g = some r ∧ r.pendS.find? (·.id == m.out) = some p ∧ p.reg.toNat < 61 ∧ kwf s.ops = true :=
  let m := memOp .load (.scalar 0) (.sreg 5) partB
  ⟨withOp [7] grpP m, 7, 0, m, grpP, ⟨5, 7, .load, 0x10000, 0⟩, by decide +kernel, by decide +kernel, by decide +kernel, rfl, by decide +kernel,
    by decide +kernel, by decide, by decide +kernel⟩

theorem witness_ReadsAndFills_laneReturn : ∃ (s : State) (o g vd : Nat) (sz : MSize) (sext : Bool) (m : MemOp) (r : Group), s.args = [o] ∧ s.op? o = some m ∧
    m.unbound = false ∧ m.agent = .lane g ∧ m.dest = .lanes vd sz sext ∧ s.grp? g = some r ∧ swf r.v = true ∧
    (∀ j, j < mwords sz → r.writable (vd + j) = true) ∧ kwf s.ops = true :=
  let m := memOp .load (.lane 0) (.lanes 12 .d false) partB
  ⟨withOp [7] grp0 m, 7, 0, 12, .d, false, m, grp0, by decide +kernel, by decide +kernel, by decide +kernel, rfl, rfl, by decide +kernel⟩

theorem witness_ReadsAndFills_walk : ∃ (s : State) (id : Nat) (w : Walk), s.args = [id] ∧ kget s.walks id = some w ∧ w.stale = false ∧
    kwf s.walks = true ∧ tlbFind (s.die (dieOf w.core)).tlb w.asn (vaLow w.va) = none ∧
    (s.walkReads w.va 5 0 w.root).any s.meetsRefresh = false ∧ s.walk w.root w.va w.priv = .bad false :=
  let w : Walk := ⟨0, 0, 0x100000, 0x30000, true, false⟩
  ⟨{ evt [4] grp0 team0 with walks := [(4, w)] }, 4, w, by decide +kernel, by decide +kernel, rfl, by decide +kernel⟩

theorem witness_ReadsAndFills_walkLeaf : ∃ (s : State) (id : Nat) (w : Walk) (e : W64) (size : Nat), s.args = [id] ∧ kget s.walks id = some w ∧ w.stale = false ∧
    kwf s.walks = true ∧ tlbFind (s.die (dieOf w.core)).tlb w.asn (vaLow w.va) = none ∧ (s.walkReads w.va 5 0 w.root).any s.meetsRefresh = false ∧
    s.walk w.root w.va w.priv = .leaf e size ∧ tlbFind (s.core w.core).tlb w.asn (vaLow w.va) = none ∧ size = 1073741824 :=
  let w : Walk := ⟨0, 0, 0x100000, 0x40010000, true, false⟩
  ⟨{ evt [4] grp0 team0 with
      walks := [(4, w)], mem := ssetL (w := 8) (ssetL (w := 8) (ssetL (w := 8) [] 0x100000 (natBytes 8 0x110001)) 0x110000 (natBytes 8 0x120001)) 0x120008
        (natBytes 8 0x4000001F) }, 4, w, 0x4000001F, 1073741824, by decide +kernel, by decide +kernel, rfl, by decide +kernel⟩

theorem witness_ReadsAndFills_earlyLoad : ∃ (s : State) (o g : Nat) (m : MemOp) (r : Group), s.args = [o] ∧ s.op? o = some m ∧ m.kind = .load ∧
    m.agent = .scalar g ∧ m.performed = false ∧ s.grp? g = some r ∧ (∀ i, i ∈ m.waits → i ∉ r.barrierIds) :=
  let m := { memOp .load (.scalar 0) (.sreg 5) part0 with performed := false, waits := [3] }
  ⟨withOp [7] grpP m, 7, 0, m, grpP, by decide +kernel, by decide +kernel, rfl, rfl, rfl, by decide +kernel⟩

theorem witness_AtomicsAndWatches_atomic : ∃ (s : State) (o g : Nat) (m : MemOp) (q : Part) (new : Option Nat), s.args = [o, 0] ∧ s.op? o = some m ∧
    m.parts = [q] ∧ m.agent = .scalar g ∧ q.bound = false ∧ paClass q.pa = 0 ∧ (m.asize = 4 ∨ m.asize = 8) ∧
    s.earlierWrite m.core g o q.pa q.len = false ∧ s.meetsRefresh q.pa = false ∧ s.pinnedCopy (q.pa / 256) = false ∧
    (∃ op, m.kind = .atomic ∧ m.fn = .int op ∧
      new = some (atomicValue op (8 * m.asize) (bytesNat (s.latestBytes q.pa m.asize)) (q.y.toNat % 2 ^ (8 * m.asize)))) ∧ new = some 5 :=
  let m := { memOp .atomic (.scalar 0) (.sreg 5) part0 with asize := 8 }
  ⟨withOp [7, 0] grpP m, 7, 0, m, part0, some 5, by decide +kernel, by decide +kernel, rfl, rfl, rfl, by decide +kernel, .inr rfl, by decide +kernel,
    by decide +kernel, by decide +kernel, ⟨.add, rfl, rfl, by decide +kernel⟩, rfl⟩

theorem witness_AtomicsAndWatches_compare : ∃ (s : State) (o g : Nat) (m : MemOp) (q : Part) (new : Option Nat), s.args = [o, 0] ∧ s.op? o = some m ∧
    m.parts = [q] ∧ m.agent = .scalar g ∧ q.bound = false ∧ paClass q.pa = 0 ∧ (m.asize = 4 ∨ m.asize = 8) ∧
    s.earlierWrite m.core g o q.pa q.len = false ∧ s.meetsRefresh q.pa = false ∧ s.pinnedCopy (q.pa / 256) = false ∧ m.kind = .cas ∧
    new = (if bytesNat (s.latestBytes q.pa m.asize) = q.x.toNat % 2 ^ (8 * m.asize) then some (q.y.toNat % 2 ^ (8 * m.asize)) else none) ∧ new = none :=
  let q := { part0 with x := 9 }
  let m := { memOp .cas (.scalar 0) (.sreg 5) q with asize := 4 }
  ⟨withOp [7, 0] grpP m, 7, 0, m, q, none, by decide +kernel, by decide +kernel, rfl, rfl, rfl, by decide +kernel, .inl rfl, by decide +kernel,
    by decide +kernel, by decide +kernel, rfl, by decide +kernel, rfl⟩

theorem witness_AtomicsAndWatches_reply : ∃ (s : State) (o g k : Nat) (m : MemOp) (q : Part) (r : Group) (p : PendS) (new : List Byte) (x y : Nat),
    s.args = [o, 0] ∧ s.op? o = some m ∧ m.parts = [q] ∧ m.agent = .scalar k ∧ q.bound = true ∧ q.fill = some (new, x, y) ∧ q.gwct = some g ∧
    s.grp? k = some r ∧ r.pendS.find? (·.id == m.out) = some p ∧ p.reg.toNat < 61 ∧ kwf s.ops = true ∧ (s.l1Alloc m.core q.pa).isSome = true :=
  let q := { part0 with bound := true, fill := some ([5], 0, 0), gwct := some 40 }
  let m := memOp .atomic (.scalar 0) (.sreg 5) q
  ⟨withOp [7, 0] grpP m, 7, 40, 0, m, q, grpP, ⟨5, 7, .load, 0x10000, 0⟩, [5], 0, 0, by decide +kernel, by decide +kernel, rfl, rfl, rfl, rfl, rfl,
    by decide +kernel⟩

theorem witness_AtomicsAndWatches_wake (p : Park) : ∃ (s : State) (g : Nat) (r : Group), g < 10240 ∧ s.grp? g = some r ∧ r.atStep = false ∧ r.parked = some p :=
  ⟨{ State.reset with groups := [(0, { grp0 with parked := some p })] }, 0, { grp0 with parked := some p }, by decide,
    by simp [State.grp?, kget], rfl, rfl⟩

/-- A watch on the line of 0x100000. -/
def watch0 : Watch := ⟨0x1000, homeSlice 0x100000, none, 0⟩

theorem witness_AtomicsAndWatches_arm : ∃ (s : State) (g : Nat) (r : Group) (w : Watch), s.args = [g] ∧ s.grp? g = some r ∧ r.watch = some w ∧
    r.parked = some .watch ∧ (s.monTable w.slice).length < 256 :=
  let r := { grp0 with parked := some .watch, watch := some watch0 }
  ⟨evt [0] r team0, 0, r, watch0, by decide +kernel, by decide +kernel, rfl, rfl, by decide +kernel⟩

theorem witness_AtomicsAndWatches_notice : ∃ (s : State) (line : Nat) (e : Mon), s.args = [line] ∧
    e ∈ kgetD s.pod.mons (switchSlice (line * 256)) [] ∧ e.line = line :=
  ⟨{ evt [0x1000] grp0 team0 with pod := { State.reset.pod with mons := [(switchSlice (0x1000 * 256), [⟨0x1000, 0, 5⟩])] } }, 0x1000, ⟨0x1000, 0, 5⟩,
    by decide +kernel, by decide +kernel, rfl⟩

theorem witness_AtomicsAndWatches_timeout : ∃ (s : State) (g : Nat) (r : Group) (w : Watch) (e : Mon), s.args = [g] ∧ s.grp? g = some r ∧
    r.watch = some w ∧ e ∈ s.monTable w.slice ∧ e.gident = g ∧ w.until_ ≤ s.ptime :=
  let w := { watch0 with armed := some 0 }
  let r := { grp0 with parked := some .watch, watch := some w }
  ⟨{ evt [0] r team0 with slices := [(homeSlice 0x100000, { Slice.reset with mons := [⟨0x1000, 0, 0⟩] })] }, 0, r, w, ⟨0x1000, 0, 0⟩,
    by decide +kernel, by decide +kernel, rfl, by decide +kernel, rfl, by decide +kernel⟩

theorem witness_LateResults_scalar : ∃ (s : State) (g id : Nat) (r : Group) (p : PendS), s.args = [g, id] ∧ s.grp? g = some r ∧
    r.pendS.find? (·.id == id) = some p ∧ p.reg.toNat < 61 :=
  ⟨evt [0, 7] grpP team0, 0, 7, grpP, ⟨5, 7, .load, 0x10000, 0⟩, by decide +kernel, by decide +kernel, by decide +kernel, by decide⟩

theorem witness_LateResults_lane : ∃ (s : State) (g id : Nat) (r : Group) (x : LanePend), s.args = [g, id] ∧ s.grp? g = some r ∧
    r.lres.find? (·.id == id) = some x ∧ swf r.v = true ∧ (∀ p, p ∈ x.vw → r.writable (p.1 / 96) = true) ∧ (x.vw.map (·.1)).Nodup ∧ (x.kw.map (·.1)).Nodup :=
  let x : LanePend := ⟨7, true, [(960, 5), (961, 6)], [(2, 3, 1)], 1, 0, 0x10000⟩
  let r := { grp0 with lres := [x] }
  ⟨evt [0, 7] r team0, 0, 7, r, x, by decide +kernel⟩

theorem witness_LateResults_team : ∃ (s : State) (q id : Nat) (m : Team) (p : PendW), s.args = [q, id] ∧ s.team? q = some m ∧
    m.pendW.find? (·.id == id) = some p :=
  let m := { team0 with pendW := [⟨9, 5, 7⟩] }
  ⟨evt [0, 7] grp0 m, 0, 7, m, ⟨9, 5, 7⟩, by decide +kernel⟩

theorem witness_IllegalAndTrapEntry_scalar : ∃ (s u : State) (g : Nat) (r : Group) (e : DecErr) (cause : BitVec 8) (sub : Nat),
    ((∃ x, e = .illegal x ∧ cause = 6 ∧ sub = x.toNat) ∨ (∃ f, e = .xfunc f ∧ cause = 0x0D ∧ sub = f.toNat)) ∧
    (s.grp? g = some r ∧ s.cur = .scalar g ∧ s.quiet g r = true ∧ s.trapsAtOnce g r ∧ s.handlerFor r cause = none) ∧
    (u.grp? g = some r ∧ u.cur = .scalar g ∧ u.quiet g r = true ∧ Item.close ∈ u.agenda) :=
  ⟨atS grp0, { atS grp0 with agenda := [.close] }, 0, grp0, .xfunc 0x7F, 0x0D, 0x7F, .inr ⟨_, rfl, rfl, rfl⟩,
    ⟨by decide +kernel, rfl, by decide +kernel, atOnce_of _ _ _ (by decide +kernel), by decide +kernel⟩, by decide +kernel⟩

theorem witness_IllegalAndTrapEntry_lane : ∃ (s u : State) (g : Nat) (r : Group) (e : DecErr) (cause : BitVec 8) (sub : Nat),
    ((∃ x, e = .illegal x ∧ cause = 6 ∧ sub = x.toNat) ∨ (∃ f, e = .xfunc f ∧ cause = 0x0D ∧ sub = f.toNat)) ∧
    (s.grp? g = some r ∧ s.cur = .lane g ∧ s.trapsAtOnce g r ∧ s.earlyOut g r = false ∧ s.handlerFor r cause = none) ∧
    (u.grp? g = some r ∧ u.cur = .lane g ∧ Item.close ∈ u.agenda) :=
  ⟨atL grp0, { atL grp0 with agenda := [.close] }, 0, grp0, .illegal 0x10, 6, 0x10, .inl ⟨_, rfl, rfl, rfl⟩,
    ⟨by decide +kernel, rfl, atOnce_of _ _ _ (by decide +kernel), by decide +kernel⟩, by decide +kernel⟩

theorem witness_IllegalAndTrapEntry_team : ∃ (s : State) (q : Nat) (m : Team), s.cur = .seq q ∧ s.team? q = some m :=
  ⟨atQ team0, 0, team0, rfl, by decide +kernel⟩

theorem witness_IllegalAndTrapEntry_entry : ∃ (s : State) (g : Nat) (r : Group) (x : TrapRec), s.args = [g] ∧ s.grp? g = some r ∧ r.trap = some x ∧
    (∀ y, y ∈ (s.core (g / 32)).moves → y.team ≠ r.team) ∧ (recorded x.cause = true → s.fqWaits (g / 32 / 80) 1 = false) ∧ x.defer = none ∧
    r.lres = [] ∧ (x.lane = true → s.earlyOut g r = false) ∧ s.handlerFor r x.cause = none :=
  let x : TrapRec := ⟨1, 0x30000, 0, true, false, false, false, none⟩
  let r := { grp0 with trap := some x }
  ⟨evt [0] r team0, 0, r, x, by decide +kernel, by decide +kernel, rfl, by decide +kernel, by decide +kernel, rfl, by decide +kernel⟩

theorem witness_IllegalAndTrapEntry_deferred : ∃ (s : State) (g : Nat) (r : Group) (x : TrapRec) (pc : W64), s.args = [g] ∧ s.grp? g = some r ∧
    r.trap = some x ∧ (∀ y, y ∈ (s.core (g / 32)).moves → y.team ≠ r.team) ∧ (recorded x.cause = true → s.fqWaits (g / 32 / 80) 1 = false) ∧
    x.defer = some pc :=
  let x : TrapRec := ⟨6, 0, 3, false, false, false, false, some 0x10004⟩
  let r := { grp0 with trap := some x }
  ⟨evt [0] r team0, 0, r, x, 0x10004, by decide +kernel, by decide +kernel, rfl, by decide +kernel, by decide +kernel, rfl⟩

theorem witness_BlocksDrainsAndReleases_block : ∃ (s : State) (g : Nat) (r : Group) (q : LqEntry) (rest : List LqEntry), s.args = [g] ∧ s.grp? g = some r ∧
    r.lq = q :: rest ∧ r.stop = .runs ∧ r.trap = none ∧ r.blk = none ∧ r.rel = none ∧ r.cq = [] ∧ s.laneHeld g = false :=
  let q : LqEntry := ⟨0x10040, Vector.replicate 16 3, 0, grp0.ck⟩
  let r := { grp0 with lq := [q] }
  ⟨evt [0] r team0, 0, r, q, [], by decide +kernel, by decide +kernel, rfl, by decide +kernel⟩

theorem witness_BlocksDrainsAndReleases_drain : ∃ (s : State) (g : Nat) (r : Group), s.args = [g] ∧ s.grp? g = some r ∧ r.drain = true ∧ r.stop = .runs ∧
    r.trap = none ∧ r.rel = none ∧ s.quiet g r = true ∧ s.laneHeld g = false :=
  let r := { grp0 with drain := true }
  ⟨evt [0] r team0, 0, r, by decide +kernel, by decide +kernel, rfl, by decide +kernel⟩

/-- An entry of the commit queue for a word with two operands, released next. -/
def held (w : W32) (x y : W64) (v : Option W64) : CqEntry := ⟨0, w, 0x10000, 0, x, y, 0, false, false, false, v⟩
/-- The group that drains it. -/
def grpR (e : CqEntry) : Group := { grp0 with cq := [e], pos := 1, rel := some 1, drain := true, relCnt := (0, 0), stop := .runs, trap := none, lq := [] }

theorem releases_of (s : State) (e : CqEntry) (h : e.pos < 1) (hs : e.skip = false) : (grpR e).releases s e :=
  ⟨rfl, rfl, ⟨1, rfl, h⟩, rfl, fun x => absurd x.2 (by show ¬ 4 ≤ 0; decide), hs, rfl, rfl⟩

theorem witness_BlocksDrainsAndReleases_release : ∃ (s : State) (g : Nat) (r x : Group) (m : Team) (e : CqEntry) (i : Instr), s.args = [g, 0] ∧
    s.grp? g = some r ∧ s.team? r.team = some m ∧ r.releases s e ∧ e.val = none ∧ decodeScalar e.word = .ok i ∧ releaseLeaves r s.ccount e i = some x :=
  let e := held 0xC200A011 5000 0 none
  ⟨evt [0, 0] (grpR e) team0, 0, grpR e, { grpR e with lease := BitVec.ofNat 17 (max 64 (min 65536 5000)) }, team0, e, .swrs 5 0x11, by decide +kernel,
    by decide +kernel, by decide +kernel, releases_of _ _ (by decide) rfl, rfl, by decide +kernel, rfl⟩

theorem witness_BlocksDrainsAndReleases_exec : ∃ (s : State) (g : Nat) (r : Group) (m : Team) (e : CqEntry) (i : Instr) (v : W64) (d : BitVec 6),
    s.args = [g, 0] ∧ s.grp? g = some r ∧ s.team? r.team = some m ∧ r.releases s e ∧ e.val = some v ∧ decodeScalar e.word = .ok i ∧
    (scalarNeeds i).dest = some d ∧ e.word.extractLsb' 19 6 = d ∧ 61 ≤ d.toNat :=
  let e := held (0x20 <<< 25 ||| 62 <<< 19 ||| 7) 0 0 (some 7)
  ⟨evt [0, 0] (grpR e) team0, 0, grpR e, team0, e, .sli 62 7, 7, 62, by decide +kernel, by decide +kernel, by decide +kernel,
    releases_of _ _ (by decide) rfl, rfl, by decide +kernel, by decide +kernel, by decide +kernel, by decide⟩

theorem witness_BlocksDrainsAndReleases_store : ∃ (s : State) (g : Nat) (r : Group) (m : Team) (e : CqEntry) (b a : BitVec 6) (imm : BitVec 13),
    s.args = [g, 0] ∧ s.grp? g = some r ∧ s.team? r.team = some m ∧ r.releases s e ∧ e.val = none ∧ decodeScalar e.word = .ok (.sstsp b a imm) ∧
    swf m.sp = true ∧ 256 ≤ e.x.toNat ∧ s.spLoadBefore g e.pos = false ∧ r.hidSp = [] :=
  let e := held (0x31 <<< 25 ||| 5 <<< 19 ||| 4 <<< 13) 256 7 none
  ⟨evt [0, 0] (grpR e) team0, 0, grpR e, team0, e, 5, 4, 0, by decide +kernel, by decide +kernel, by decide +kernel, releases_of _ _ (by decide) rfl, rfl,
    by decide +kernel⟩

theorem witness_BlocksDrainsAndReleases_grant : ∃ (s : State) (g c : Nat) (r : Group) (m : Team), s.args = [c * 32] ∧ s.grp? g = some r ∧
    s.requesters c = [(g, r)] ∧ s.team? r.team = some m ∧ (s.core c).decided ≠ s.ccount + 1 :=
  let r := { grp0 with allot := 32, allotSt := .waiting, parked := some .grant }
  ⟨evt [0] r team0, 0, 0, r, team0, by decide +kernel⟩

/-- The barrier words that BARA names at the head of the commit queue of a group whose effects are released. -/
def barE : CqEntry := held (0x50 <<< 25 ||| 5 ||| 2 <<< 4) 0 0 none

theorem witness_BarrierAndRegroupEvents_arrival : ∃ (s : State) (g : Nat) (r : Group) (m : Team) (e : CqEntry) (rest : List CqEntry) (n : BitVec 4)
    (sc : Scope), s.args = [g] ∧ s.grp? g = some r ∧ r.cq = e :: rest ∧ decodeScalar e.word = .ok (.bara n sc) ∧ e.acted = false ∧ r.stop = .runs ∧
    r.trap = none ∧ r.rel.isSome = true ∧ s.team? r.team = some m ∧ (m.bar n).armed = true ∧ m.forwards r.team n = false ∧ (m.bar n).err = false ∧
    (m.bar n).arrived + 1 < (m.bar n).expect ∧ swf m.sp = true :=
  ⟨evt [0] (grpR barE) team5, 0, grpR barE, team5, barE, [], 5, .cl, by decide +kernel, by decide +kernel, rfl, by decide +kernel, rfl, rfl, rfl, rfl,
    by decide +kernel⟩

theorem witness_BarrierAndRegroupEvents_unarmed : ∃ (s u : State) (g : Nat) (r : Group) (m : Team) (e : CqEntry) (rest : List CqEntry) (n : BitVec 4)
    (sc : Scope), r.cq = e :: rest ∧ decodeScalar e.word = .ok (.bara n sc) ∧ e.acted = false ∧ r.stop = .runs ∧ r.trap = none ∧ r.rel.isSome = true ∧
    (m.bar n).armed = false ∧
    (s.args = [g] ∧ s.grp? g = some r ∧ s.team? r.team = some m ∧ Item.close ∉ s.agenda ∧ (∀ y, y ∈ (s.core (g / 32)).moves → y.team ≠ r.team)) ∧
    (u.args = [g] ∧ u.grp? g = some r ∧ u.team? r.team = some m ∧ Item.close ∈ u.agenda ∧ (∀ x, Item.trap g x ∈ u.agenda → x.defer = none)) :=
  ⟨evt [0] (grpR barE) team0, { evt [0] (grpR barE) team0 with agenda := [.close] }, 0, grpR barE, team0, barE, [], 5, .cl, rfl, by decide +kernel,
    rfl, rfl, rfl, rfl, by
      refine ⟨?_, ?_, ?_, ?_, ?_, ?_, fun x h => by simp at h⟩ <;> decide +kernel⟩

/-- With a message between the teams of a cluster. -/
def withMsg (b : BarMsg) (r : Group) (m : Team) : State := { evt [3] r m with barMsgs := [(3, (0, 0, b))] }

theorem witness_BarrierAndRegroupEvents_home : ∃ (s : State) (id ctx clid home g : Nat) (n : BitVec 4) (r : Group) (h : Team), s.args = [id] ∧
    kget s.barMsgs id = some (ctx, clid, .groupArrive home n.toNat g) ∧ kwf s.barMsgs = true ∧ s.grp? g = some r ∧ s.team? home = some h ∧ h.ctx = ctx ∧
    h.clpos.toNat / 2 ^ 16 % 2 ^ 32 = clid ∧ (h.bar n).armed = true ∧ (h.bar n).err = false ∧ (h.bar n).arrived + 1 < (h.bar n).expect ∧ swf h.sp = true :=
  ⟨withMsg (.groupArrive 0 5 0) grp0 team5, 3, 0, 0, 0, 0, 5, grp0, team5, by decide +kernel⟩

theorem witness_BarrierAndRegroupEvents_homeUnarmed : ∃ (s : State) (id ctx clid home g : Nat) (n : BitVec 4) (r : Group) (h : Team), s.args = [id] ∧
    kget s.barMsgs id = some (ctx, clid, .groupArrive home n.toNat g) ∧ kwf s.barMsgs = true ∧ s.grp? g = some r ∧ s.team? home = some h ∧ h.ctx = ctx ∧
    h.clpos.toNat / 2 ^ 16 % 2 ^ 32 = clid ∧ (h.bar n).armed = false :=
  ⟨withMsg (.groupArrive 0 5 0) grp0 team0, 3, 0, 0, 0, 0, 5, grp0, team0, by decide +kernel⟩

theorem witness_BarrierAndRegroupEvents_refusals : ∃ (s1 s2 s3 : State) (id ctx clid home n g q : Nat) (tg : Option (BitVec 32)) (r1 r2 : Group) (m : Team)
    (e : CqEntry),
    (s1.args = [id] ∧ kwf s1.barMsgs = true ∧ kget s1.barMsgs id = some (ctx, clid, .groupArrive home n g) ∧ s1.grp? g = some r1 ∧ r1.cq.head? = some e ∧
      Item.close ∉ s1.agenda ∧ (∀ y, y ∈ (s1.core (g / 32)).moves → y.team ≠ r1.team)) ∧
    (s2.args = [id] ∧ kwf s2.barMsgs = true ∧ kget s2.barMsgs id = some (ctx, clid, .groupWait home n g tg) ∧ s2.grp? g = some r2 ∧ r2.atStep = false ∧
      s2.trapsAtOnce g r2 ∧ s2.handlerFor r2 6 = none) ∧
    (s3.args = [id] ∧ kwf s3.barMsgs = true ∧ kget s3.barMsgs id = some (ctx, clid, .seqArrive home n q) ∧ s3.team? q = some m) :=
  ⟨withMsg (.groupArrive 0 5 0) (grpR barE) team0, withMsg (.groupWait 0 5 0 none) grp0 team0, withMsg (.seqArrive 0 5 0) grp0 team0, 3, 0, 0, 0, 5, 0, 0,
    none, grpR barE, grp0, team0, barE, by decide +kernel, ⟨by decide +kernel, by decide +kernel, by decide +kernel, by decide +kernel, rfl,
    atOnce_of _ _ _ (by decide +kernel), by decide +kernel⟩, by decide +kernel⟩

/-- A core that moves registers for its only team. -/
def moving (r : Group) : State := { evt [0] r team0 with cores := [(0, { core0 with moves := [⟨0, false, 0, 60, none⟩] })] }

theorem witness_BarrierAndRegroupEvents_regrp : ∃ (s : State) (g : Nat) (r : Group) (m : Team) (a : RgArrive), s.args = [r.team] ∧ s.grp? g = some r ∧
    s.team? r.team = some m ∧ s.liveOf r.team = [(g, r)] ∧ r.rgArr = some a ∧ r.parked = some .regroup ∧ (s.core (r.team / 4)).moves.length = 1 ∧
    swf r.v = true :=
  let a : RgArrive := ⟨false, 0x10000, 33, 32, 16, 0⟩
  let r := { grp0 with rgArr := some a, parked := some .regroup }
  ⟨moving r, 0, r, team0, a, by decide +kernel⟩

/-- A window whose only placed lane is lane 0 of group 0. -/
def rgJ : Regroup := ⟨true, false, 32, 16, Vector.replicate 16 0, [], 0x8000 :: List.replicate 95 0⟩
/-- Its host at RJOIN. -/
def grpJ : Group :=
  { grp0 with rgArr := some ⟨true, 0x10000, 0, 0, 0, 0⟩, parked := some .regroup, rg := some rgJ, rs := [⟨.regroup, 0x1000C, 0, 1, 0, Vector.replicate 16 0⟩] }
theorem mapJ : ∀ x, x ∈ rgJ.map → x = 0 ∨ rgJ.map.count x = 1 := by
  intro x hx
  rcases List.mem_cons.1 hx with rfl | h
  · exact .inr (by decide +kernel)
  · exact .inl (List.eq_of_mem_replicate h)

theorem witness_BarrierAndRegroupEvents_rjoin : ∃ (s : State) (g : Nat) (r : Group) (m : Team) (a : RgArrive) (w : Regroup) (e : RsEntry),
    s.args = [r.team] ∧ s.grp? g = some r ∧ s.team? r.team = some m ∧ s.liveOf r.team = [(g, r)] ∧ r.rgArr = some a ∧ r.parked = some .regroup ∧
    (s.core (r.team / 4)).moves.length = 1 ∧ swf r.v = true ∧ r.rg = some w ∧ r.rs.getLast? = some e ∧ w.map.length = 96 ∧
    (w.map.Nodup ∨ (∀ x, x ∈ w.map → x = 0 ∨ w.map.count x = 1)) :=
  ⟨moving grpJ, 0, grpJ, team0, ⟨true, 0x10000, 0, 0, 0, 0⟩, rgJ, ⟨.regroup, 0x1000C, 0, 1, 0, Vector.replicate 16 0⟩, by decide +kernel, by decide +kernel,
    by decide +kernel, by decide +kernel, rfl, rfl, by decide +kernel, by decide +kernel, rfl, rfl, by decide +kernel, .inr mapJ⟩

/-- An operation of the matrix engine: MLOAD of 2 rows of 16 words at 0x10000 into tile 0, barrier 5. -/
def eng0 : EngOp :=
  ⟨9, .mload, 0, 0, 5, 0, [0x10000, 0x0000100200000040], [], [], 0, .none, some 0, 0, 0, 0, 0, 0, false, [], [], [], [], 0, 0, 0, none, false, none, [], none⟩
/-- A core with it. -/
def withEng (args : List Nat) (e : EngOp) (m : Team) : State := { evt args grp0 m with cores := [(0, { core0 with eng := [e] })] }

theorem witness_EngineFetch_line : ∃ (s : State) (c : Nat) (e : EngOp) (m : Team) (lo hi last pa : Nat) (leaf : W64) (u : State), s.args = [c] ∧
    (s.core c).eng = [e] ∧ s.team? e.team = some m ∧ e.finish = none ∧ e.cancelled = false ∧ s.stopping e.team = false ∧
    e.fetching = true ∧ e.nextLine = some (lo, hi, last) ∧ e.fault = none ∧
    s.checkVa c m.ctx (BitVec.ofNat 64 lo) .read false = (.ok leaf pa, u) ∧ (u.core c).eng = [e] ∧ paClass pa = 0 ∧ isRegBlock (paLow pa) = false ∧
    homeDie (paLow pa) = c / 80 ∧ (∀ p ∈ e.usesOf (lo / 256), u.poisonRead c (pa / 256 * 256 + p.1 % 256) (p.2 - p.1) = none) ∧
    (∀ k ∈ e.sectorsOf (lo / 256), u.meetsRefresh (pa / 256 * 256 + 64 * k) = false ∧ u.l2Room (paLow (pa / 256 * 256 + 64 * k)) = true) ∧
    u.pinsOf c < 512 ∧
    u.pinsWhere (fun _ x => !x.copied && homeSlice (x.pline * 256) == homeSlice (pa / 256 * 256)) < 1024 :=
  let e := { eng0 with fetching := true }
  ⟨withEng [0] e team0, 0, e, team0, 0x10000, 0x10080, 0, 0x100000, fetchLeaf, ((withEng [0] e team0).checkVa 0 0 0x10000 .read false).2, by decide +kernel,
    by decide +kernel, by decide +kernel, rfl, rfl, by decide +kernel, rfl, by decide +kernel, rfl, Prod.ext (by decide +kernel) rfl, by decide +kernel⟩

theorem witness_EngineFetch_fault : ∃ (s : State) (c : Nat) (e : EngOp) (m : Team) (lo hi last : Nat) (b : Bad) (u : State), s.args = [c] ∧
    (s.core c).eng = [e] ∧ s.team? e.team = some m ∧ e.finish = none ∧ e.cancelled = false ∧ s.stopping e.team = false ∧
    e.fetching = true ∧ e.nextLine = some (lo, hi, last) ∧ e.fault = none ∧ s.checkVa c m.ctx (BitVec.ofNat 64 lo) .read false = (.bad b, u) ∧
    (u.core c).eng = [e] :=
  let e := { eng0 with fetching := true }
  let s : State := { withEng [0] e team0 with cores := [(0, { core0 with eng := [e], tlb := [⟨0, 0, 0, 0x10000, 65536, 0x100003⟩] })] }
  ⟨s, 0, e, team0, 0x10000, 0x10080, 0, ⟨cPROT, 0x10000, 0, false, false, false⟩, (s.checkVa 0 0 0x10000 .read false).2, by decide +kernel, by decide +kernel,
    by decide +kernel, rfl, rfl, by decide +kernel, rfl, by decide +kernel, rfl, Prod.ext (by decide +kernel) rfl, by decide +kernel⟩

theorem witness_EngineFetch_leave : ∃ (s : State) (c : Nat) (e : EngOp) (m : Team), s.args = [c] ∧ (s.core c).eng = [e] ∧ s.team? e.team = some m ∧
    e.finish = none ∧ e.cancelled = false ∧ s.stopping e.team = false ∧ e.kind = .mma ∧ e.leave = .none ∧ e.doneG < e.groups ∧ (s.core c).leave = none :=
  let e := { eng0 with kind := .mma, regs := [0x10000, 0x0000100200000040, 0x11000, 0x0000100200000040, 0x0000014000000100] }
  ⟨withEng [0] e team0, 0, e, team0, by decide +kernel, by decide +kernel, by decide +kernel, rfl, rfl, by decide +kernel, rfl, rfl, by decide +kernel⟩

theorem witness_EngineFetch_grant : ∃ (s : State) (c : Nat) (e : EngOp) (m : Team), s.args = [c] ∧ (s.core c).eng = [e] ∧ s.team? e.team = some m ∧
    e.finish = none ∧ e.cancelled = false ∧ s.stopping e.team = false ∧ (s.core c).leave = some e.id :=
  let e := { eng0 with kind := .mma, leave := .asked }
  ⟨{ withEng [0] e team0 with cores := [(0, { core0 with eng := [e], leave := some 9 })] }, 0, e, team0, by decide +kernel, by decide +kernel,
    by decide +kernel, rfl, rfl, by decide +kernel⟩

/-- An add-on-store of one word at 0x100000. -/
def engA : EngOp := { eng0 with kind := .mdraina, upd := [(0x100000, [0, 0, 0x80, 0x3F])] }

theorem witness_EngineFetch_report : ∃ (s : State) (c x : Nat) (e : EngOp), s.args = [c, x] ∧ (s.core c).eng = [e] ∧ e.kind = .mdraina ∧
    e.began.isSome = true ∧ e.commitT = none ∧ e.ctl.spd = false ∧ (e.reports.any fun r => r.1 == x) = false ∧ e.partAt x ≠ [] ∧
    (∀ u ∈ e.partAt x, s.pinnedCopy (u.1 / 256) = false) :=
  ⟨withEng [0, homeSlice 0x100000] engA team0, 0, homeSlice 0x100000, engA, by decide +kernel, by decide +kernel, rfl, rfl, rfl, by decide +kernel⟩

theorem witness_EngineFetch_commit : ∃ (s : State) (c : Nat) (e : EngOp), s.args = [c] ∧ (s.core c).eng = [e] ∧ e.kind = .mdraina ∧ e.began.isSome = true ∧
    e.commitT = none ∧ e.ctl.spd = false ∧ e.reports.length = e.slices.length :=
  let e := { engA with reports := [(homeSlice 0x100000, 50)] }
  ⟨withEng [0] e team0, 0, e, by decide +kernel, by decide +kernel, rfl, rfl, rfl, by decide +kernel⟩

theorem witness_EngineFetch_apply : ∃ (s : State) (c id k : Nat) (e : EngOp) (w : PWrite) (fp : Bool) (x : List Byte), s.args = [c, id] ∧
    (s.core c).eng.find? (·.id == id) = some e ∧ e.ctl.spd = false ∧ s.poisonIn w.pa 4 = none ∧ s.writes = [(k, w)] ∧ w.op = id ∧ w.add = some fp ∧
    w.gwct ≤ s.ptime ∧ w.data = x.map some ∧ x.length = 4 ∧ w.pa % 4 = 0 ∧ w.pa + 4 ≤ 2 ^ 50 ∧ isRegBlock w.pa = false ∧ s.homePlain :=
  let w : PWrite := ⟨0x100000, [some 0, some 0, some 0x80, some 0x3F], 0, 9, 0, some true, 0, none⟩
  ⟨{ withEng [0, 9] engA team0 with writes := [(3, w)] }, 0, 9, 3, engA, w, true, [0, 0, 0x80, 0x3F], by decide +kernel, by decide +kernel,
    by decide +kernel, by decide +kernel, rfl, rfl, rfl, by decide +kernel, rfl, by decide, by decide, by decide, by decide +kernel,
    homePlain_of _ rfl (by decide +kernel)⟩

/-- What the completions have in common. -/
def engReady (s : State) (c : Nat) (e : EngOp) (rest : List EngOp) (m : Team) : Prop :=
  (s.core c).eng = e :: rest ∧ s.team? e.team = some m ∧ m.core = c ∧ m.ended.length ≠ m.groups ∧ e.cancelled = false ∧ swf m.acc = true

theorem openWord5 : team5.openWord 0 5 := by
  refine ⟨?_, ?_, ?_, ?_, ?_⟩ <;> decide +kernel

theorem witness_EngineCompletions_mma : ∃ (s : State) (c n : Nat) (e : EngOp) (rest : List EngOp) (m : Team), engReady s c e rest m ∧ s.args = [c] ∧
    e.kind = .mma ∧ e.finish = some n ∧ n + 4 ≤ s.ccount ∧ e.fault = none ∧ s.stopping e.team = false ∧ m.openWord e.team e.n :=
  let e := { eng0 with kind := .mma, finish := some 6 }
  ⟨{ withEng [0] e team5 with ccount := 10 }, 0, 6, e, [], team5, by unfold engReady; decide +kernel,
    by decide +kernel, rfl, rfl, by decide, rfl, by decide +kernel, openWord5⟩

theorem witness_EngineCompletions_mzero : ∃ (s : State) (c : Nat) (e : EngOp) (rest : List EngOp) (m : Team), engReady s c e rest m ∧ s.args = [c] ∧
    e.kind = .mzero ∧ e.began.isSome = true ∧ e.finish = none :=
  let e := { eng0 with kind := .mzero }
  ⟨withEng [0] e team5, 0, e, [], team5, by unfold engReady; decide +kernel,
    by decide +kernel, rfl, rfl, rfl⟩

theorem witness_EngineCompletions_mload : ∃ (s : State) (c : Nat) (e : EngOp) (rest : List EngOp) (m : Team), engReady s c e rest m ∧ s.args = [c] ∧
    e.kind = .mload ∧ e.began.isSome = true ∧ e.finish = none ∧ shRows (e.reg 1) ≤ 128 ∧ shKlen (e.reg 1) ≤ 128 ∧ m.openWord e.team e.n :=
  ⟨withEng [0] eng0 team5, 0, eng0, [], team5, by unfold engReady; decide +kernel,
    by decide +kernel, rfl, rfl, rfl, by decide +kernel, by decide +kernel, openWord5⟩

theorem witness_EngineCompletions_drain : ∃ (s : State) (c : Nat) (e : EngOp) (rest : List EngOp) (m : Team), engReady s c e rest m ∧
    s.args = [c, e.id] ∧ s.drainReady e = true ∧ m.openWord e.team e.n :=
  let e := { eng0 with kind := .mdrain, doneL := 99, word := 0x30 }
  ⟨withEng [0, 9] e team5, 0, e, [], team5, by unfold engReady; decide +kernel,
    by decide +kernel, by decide +kernel, openWord5⟩

theorem witness_EngineCompletions_error : ∃ (s : State) (c : Nat) (e : EngOp) (rest : List EngOp) (m : Team) (f : EngFault), engReady s c e rest m ∧
    s.args = [c] ∧ rest = [] ∧ e.fault = some f ∧ e.finish.isSome = true ∧ e.writes = 0 ∧ e.gmax ≤ s.ptime ∧ e.kind ≠ .mzero ∧
    (m.bar e.n).armed = true ∧ (m.bar e.n).err = false ∧ m.forwards e.team e.n = false ∧ swf m.sp = true :=
  let f : EngFault := ⟨2, 0x10000, false⟩
  let e := { eng0 with kind := .mma, finish := some 0, fault := some f }
  ⟨withEng [0] e team5, 0, e, [], team5, f, by unfold engReady; decide +kernel,
    by decide +kernel, rfl, rfl, rfl, rfl, by decide +kernel⟩

theorem pages_of (p : Pages × State) (f : List (Nat × W64 × Nat) → State → Bool)
    (h : (match p.1 with | .ok l => f l p.2 | _ => false) = true) : ∃ l u, p = (.ok l, u) ∧ f l u = true := by
  obtain ⟨a, u⟩ := p
  cases a with
  | ok l => exact ⟨l, u, rfl, h⟩
  | wait => cases h
  | bad b => cases h

/-- A copy of one piece of 64 bytes from offset 1024 to 2048 of the scratchpad, its progress bitmap at 512. -/
def copy0 : CopyCmd :=
  ⟨9, 0, 0, .c1d, natBytes 8 1024 ++ natBytes 8 2048 ++ natBytes 4 64 ++ natBytes 4 1 ++ natBytes 8 0 ++ natBytes 8 0 ++ natBytes 2 3 ++ natBytes 2 0 ++
    natBytes 4 512 ++ List.replicate 16 0, 4096, 0, 0, 1, false, false, [], false, 0, 9⟩
/-- A core with it. -/
def withCopy (args : List Nat) (c : CopyCmd) : State := { evt args grp0 team0 with cores := [(0, { core0 with copyQ := [c] })] }

/-- The same to memory at 0x10400. -/
def copyM : CopyCmd := { copy0 with desc := copy0.desc.take 8 ++ natBytes 8 0x10400 ++ (copy0.desc.drop 16).take 24 ++ natBytes 2 1 ++ copy0.desc.drop 42 }
/-- Its bytes, which have come back. -/
def copyOp : MemOp := { memOp .load (.copier 0) .none partB with out := 9 }

/-- What the clauses of a piece have in common. -/
def pieceReady (s : State) (core row lo n : Nat) (c : CopyCmd) (m : Team) : Prop :=
  s.args = [core] ∧ (s.core core).copyQ = [c] ∧ c.ended = false ∧ s.stopping c.team = false ∧ c.busy = false ∧ s.fqWaits (core / 80) = false ∧
  c.next < c.pieces ∧ c.skipBits = false ∧ c.piece? c.next = some (row, lo, n) ∧ s.team? c.team = some m

theorem pieceReady_of (s : State) (c : CopyCmd) (h : decide (s.args = [0]) && decide ((s.core 0).copyQ = [c]) && !c.ended && !s.stopping c.team && !c.busy &&
    !s.fqWaits 0 && decide (c.next < c.pieces) && !c.skipBits && decide (c.piece? c.next = some (0, 0, 64)) && decide (s.team? c.team = some team0) = true) :
    pieceReady s 0 0 0 64 c team0 := by
  simpa [pieceReady, and_assoc] using h

theorem witness_Copies_piece : ∃ (s : State) (core row lo n : Nat) (c : CopyCmd) (m : Team), pieceReady s core row lo n c m ∧ (descOf c.desc).ssp = true ∧
    (descOf c.desc).dsp = true ∧ m.poison = [] ∧ s.copyRead core c = none ∧ swf m.sp = true ∧
    256 ≤ ((descOf c.desc).rowStart row + BitVec.ofNat 64 lo).toNat ∧ (∀ g r, g ∈ m.members → s.grp? g = some r → r.hidSp = []) := by
  have hs : ∀ g r, g ∈ team0.members → (withCopy [0] copy0).grp? g = some r → r.hidSp = [] := by
    intro g r _ h
    have hg : (withCopy [0] copy0).grp? g = if g = 0 then some grp0 else none := by
      simp [withCopy, evt, at_, State.grp?, kget, eq_comm]
    rw [hg] at h
    split at h <;> cases h
    rfl
  refine ⟨withCopy [0] copy0, 0, 0, 0, 64, copy0, team0, pieceReady_of _ _ ?_, ?_, ?_, ?_, ?_, ?_, ?_, hs⟩ <;> decide +kernel

theorem witness_Copies_read : ∃ (s : State) (core row lo n : Nat) (c : CopyCmd) (m : Team) (o : Nat) (op : MemOp), pieceReady s core row lo n c m ∧
    (descOf c.desc).dsp = true ∧ swf m.sp = true ∧ 256 ≤ ((descOf c.desc).rowStart row + BitVec.ofNat 64 lo).toNat ∧
    s.copyRead core c = some (o, op) ∧ op.unbound = false :=
  let c := { copy0 with desc := natBytes 8 0x10400 ++ (copy0.desc.drop 8).take 32 ++ natBytes 2 2 ++ copy0.desc.drop 42 }
  ⟨{ withCopy [0] c with ops := [(7, copyOp)] }, 0, 0, 0, 64, c, team0, 7, copyOp, pieceReady_of _ _ (by decide +kernel), by decide +kernel⟩

theorem witness_Copies_memory : ∃ (s : State) (core row lo n : Nat) (c : CopyCmd) (m : Team) (u v : State) (l0 l : List (Nat × W64 × Nat)),
    pieceReady s core row lo n c m ∧ (descOf c.desc).dsp = false ∧ (descOf c.desc).ssp = true ∧ m.poison = [] ∧ s.copyRead core c = none ∧
    State.copyPages core m.ctx .write [((descOf c.desc).rowStart row + BitVec.ofNat 64 lo).toNat] s = (.ok l0, u) ∧
    u.loadsBound c.g c.key c.pos false = true ∧
    State.copyPages core m.ctx .write [((descOf c.desc).rowStart row + BitVec.ofNat 64 lo).toNat] u = (.ok l, v) ∧ (v.core core).copyQ = [c] := by
  obtain ⟨l0, u, h0, h1⟩ := pages_of (State.copyPages 0 0 .write [0x10400] (withCopy [0] copyM))
    (fun _ u => u.loadsBound 0 9 0 false && (match State.copyPages 0 0 .write [0x10400] u with
      | (.ok _, v) => decide ((v.core 0).copyQ = [copyM])
      | _ => false)) (by decide +kernel)
  rw [Bool.and_eq_true] at h1
  obtain ⟨l, v, h2, h3⟩ := pages_of (State.copyPages 0 0 .write [0x10400] u) (fun _ v => decide ((v.core 0).copyQ = [copyM])) (by
    revert h1; cases State.copyPages 0 0 .write [0x10400] u with
    | mk a b => cases a <;> simp)
  have e : ((descOf copyM.desc).rowStart 0 + BitVec.ofNat 64 0).toNat = 0x10400 := by decide +kernel
  exact ⟨withCopy [0] copyM, 0, 0, 0, 64, copyM, team0, u, v, l0, l, pieceReady_of _ _ (by decide +kernel), by decide +kernel, by decide +kernel,
    by decide +kernel, by decide +kernel, by rw [e]; exact h0, h1.1, by rw [e]; exact h2, by simpa using h3⟩

theorem witness_Copies_readToMemory : ∃ (s : State) (core row lo n : Nat) (c : CopyCmd) (m : Team) (v : State) (l : List (Nat × W64 × Nat)) (o : Nat) (op : MemOp),
    pieceReady s core row lo n c m ∧ (descOf c.desc).dsp = false ∧ s.copyRead core c = some (o, op) ∧ op.unbound = false ∧
    (s.delOp o).loadsBound c.g c.key c.pos false = true ∧
    State.copyPages core m.ctx .write [((descOf c.desc).rowStart row + BitVec.ofNat 64 lo).toNat] (s.delOp o) = (.ok l, v) ∧ (v.core core).copyQ = [c] := by
  let s : State := { withCopy [0] copyM with ops := [(7, copyOp)] }
  obtain ⟨l, v, h2, h3⟩ := pages_of (State.copyPages 0 0 .write [0x10400] (s.delOp 7)) (fun _ v => decide ((v.core 0).copyQ = [copyM])) (by decide +kernel)
  have e : ((descOf copyM.desc).rowStart 0 + BitVec.ofNat 64 0).toNat = 0x10400 := by decide +kernel
  exact ⟨s, 0, 0, 0, 64, copyM, team0, v, l, 7, copyOp, pieceReady_of _ _ (by decide +kernel), by decide +kernel, by decide +kernel, by decide +kernel,
    by decide +kernel, by rw [e]; exact h2, by simpa using h3⟩

theorem witness_Copies_done : ∃ (s : State) (core i g row lo n : Nat) (c : CopyCmd) (m : Team) (r : Group), s.args = [core, c.id, i, g] ∧
    g ≤ s.ptime ∧ (s.core core).copyQ = [c] ∧ c.piece? i = some (row, lo, n) ∧ s.team? c.team = some m ∧ s.grp? c.g = some r ∧ (descOf c.desc).ben = false ∧
    swf m.sp = true ∧ 256 ≤ (descOf c.desc).prog ∧ c.batch < 16 ∧ i + 1 = c.pieces :=
  ⟨{ withCopy [0, 9, 0, 77] copy0 with ptime := 77 }, 0, 0, 77, 0, 0, 64, copy0, team0, grp0, by decide +kernel⟩

/-- A transfer of 300 bytes between 0x10000 and 0x10480. -/
def xfer0 : Xfer := ⟨9, 0, 0x10000, 0x10480, 300, 0, 0, .dev, 5, 0, 0, 0, false, true⟩
/-- A core with it. -/
def withXfer (args : List Nat) (x : Xfer) (r : Group) : State := { evt args r team0 with cores := [(0, { core0 with xferQ := [x] })] }

/-- What the clauses of a packet have in common. -/
def packetReady (s : State) (core : Nat) (x : Xfer) : Prop :=
  s.args = [core] ∧ (s.core core).xferQ = [x] ∧ x.stopped = false ∧ 0 < x.left ∧ s.stopping (s.xferTeam x) = false ∧ s.fqWaits (core / 80) = false

theorem witness_BulkTransfers_read : ∃ (s : State) (core pa : Nat) (x : Xfer) (leaf : W64) (u v : State) (l : List (Nat × W64 × Nat)),
    packetReady s core x ∧ min x.left (256 - x.dst.toNat % 256) = 128 ∧ s.xferRead core x = none ∧
    State.copyPages core (s.xferCtx x) .read (lowOfPages ((List.range 128).map fun j => (x.src + BitVec.ofNat 64 j).toNat)) s = (.ok l, u) ∧
    (∀ a, a ∈ (List.range 128).map (fun j => (x.src + BitVec.ofNat 64 j).toNat) → paClass (paOfByte l a).1 = 0 ∧
      u.poisonRead core (paOfByte l a).1 1 = none) ∧
    u.checkVa core (s.xferCtx x) x.dst .write false = (.ok leaf pa, v) ∧ paClass pa ≠ 1 ∧ (paClass pa = 0 → isRegBlock (paLow pa) = false) := by
  obtain ⟨l, u, h, hp⟩ := pages_of (State.copyPages 0 0 .read (lowOfPages ((List.range 128).map fun j => (xfer0.src + BitVec.ofNat 64 j).toNat))
      (withXfer [0] xfer0 grp0))
    (fun l u => decide ((u.checkVa 0 0 0x10480 .write false).1 = .ok fetchLeaf 0x100480) &&
      ((List.range 128).map fun j => (xfer0.src + BitVec.ofNat 64 j).toNat).all fun a =>
      decide (paClass (paOfByte l a).1 = 0 ∧ u.poisonRead 0 (paOfByte l a).1 1 = none)) (by decide +kernel)
  simp only [Bool.and_eq_true, decide_eq_true_eq, List.all_eq_true] at hp
  exact ⟨withXfer [0] xfer0 grp0, 0, 0x100480, xfer0, fetchLeaf, u, _, l, by unfold packetReady; decide +kernel, by decide, by decide +kernel, h, hp.2,
    Prod.ext hp.1 rfl, by decide, by decide +kernel⟩

theorem witness_BulkTransfers_send : ∃ (s : State) (core pa : Nat) (x : Xfer) (o : Nat) (op : MemOp) (leaf : W64) (u : State), packetReady s core x ∧
    s.xferRead core x = some (o, op) ∧ op.unbound = false ∧ s.checkVa core (s.xferCtx x) x.dst .write false = (.ok leaf pa, u) ∧ paClass pa = 0 ∧
    (u.core core).xferQ = [x] ∧ (u.l1Alloc core pa).isSome = true :=
  let op : MemOp := { memOp .load (.xfer 0) .none partB with out := 9 }
  ⟨{ withXfer [0] xfer0 grp0 with ops := [(7, op)] }, 0, 0x100480, xfer0, 7, op, fetchLeaf, _, by unfold packetReady; decide +kernel, by decide +kernel,
    by decide +kernel, Prod.ext (by decide +kernel) rfl, by decide +kernel⟩

/-- A packet of 4 bytes for 0x100000. -/
def pkt0 : BulkPkt := ⟨0, 9, 0x100000, [1, 2, 3, 4], 0, none, none, none⟩

theorem witness_BulkTransfers_write : ∃ (s : State) (k : Nat) (p : BulkPkt), s.args = [k] ∧ kget s.pkts k = some p ∧ p.fromPeer = none ∧
    kwf s.pkts = true ∧ p.gwct = none ∧ s.pinnedCopy (p.dst / 256) = false ∧ s.earlierWrite p.core 1048576 k p.dst p.data.length = false :=
  ⟨{ evt [4] grp0 team0 with pkts := [(4, pkt0)] }, 4, pkt0, by decide +kernel⟩

theorem witness_BulkTransfers_refused : ∃ (s u : State) (k : Nat) (p q : BulkPkt) (g c : Nat),
    (s.args = [k] ∧ kget s.pkts k = some p ∧ p.fromPeer = none ∧ kwf s.pkts = true ∧ p.gwct = some g ∧ p.code = some c ∧ c ≠ 4) ∧
    (u.args = [k] ∧ kget u.pkts k = some q ∧ q.fromPeer = none ∧ kwf u.pkts = true ∧ q.gwct = some g ∧ q.code = none ∧ g ≤ u.ptime ∧
      q.sel.getLsbD 31 = true ∧ u.selTeam q.sel = none ∧ u.fqWaits ((q.sel.extractLsb' 0 9).toNat / 80 % 4) = false) :=
  let p := { pkt0 with gwct := some 0, code := some 2 }
  let q := { pkt0 with gwct := some 0, sel := 0x8000A001 }
  ⟨{ evt [4] grp0 team0 with pkts := [(4, p)] }, { evt [4] grp0 team0 with pkts := [(4, q)] }, 4, p, q, 0, 2, by decide +kernel⟩

theorem witness_BulkTransfers_performed : ∃ (s : State) (k : Nat) (p : BulkPkt) (g : Nat), s.args = [k] ∧ kget s.pkts k = some p ∧ p.fromPeer = none ∧
    kwf s.pkts = true ∧ p.gwct = some g ∧ p.code = none ∧ g ≤ s.ptime ∧ p.sel.getLsbD 31 = false :=
  let p := { pkt0 with gwct := some 0 }
  ⟨{ evt [4] grp0 team0 with pkts := [(4, p)] }, 4, p, 0, by decide +kernel, by decide +kernel, rfl, by decide +kernel, rfl, rfl, by decide +kernel, by decide⟩

theorem witness_BulkTransfers_counted : ∃ (s : State) (k : Nat) (p : BulkPkt) (g q : Nat) (n : BitVec 4) (m : Team), s.args = [k] ∧ kget s.pkts k = some p ∧
    p.fromPeer = none ∧ kwf s.pkts = true ∧ p.gwct = some g ∧ p.code = none ∧ g ≤ s.ptime ∧ p.sel.getLsbD 31 = true ∧
    s.selTeam p.sel = some (q, n) ∧ s.team? q = some m ∧ m.openWord q n :=
  let p := { pkt0 with gwct := some 0, sel := 0x8000A000 }
  ⟨{ evt [4] grp0 team5 with pkts := [(4, p)] }, 4, p, 0, 0, 5, team5, by decide +kernel, by decide +kernel, rfl, by decide +kernel, rfl, rfl, by decide +kernel,
    by decide, by decide +kernel, by decide +kernel, openWord5⟩

theorem witness_BulkTransfers_ack : ∃ (s : State) (core n code g : Nat) (x : Xfer) (r : Group), s.args = [core, x.id, n, code, g] ∧
    (s.core core).xferQ = [x] ∧ s.grp? x.g = some r ∧ 1 < x.inFlight :=
  let x := { xfer0 with inFlight := 2 }
  ⟨withXfer [0, 9, 128, 0, 5] x grp0, 0, 128, 0, 5, x, grp0, by decide +kernel, by decide +kernel, by decide +kernel, by decide⟩

theorem witness_BulkTransfers_lastAck : ∃ (s : State) (core n code g : Nat) (x : Xfer) (r : Group) (d : PendS), s.args = [core, x.id, n, code, g] ∧
    (s.core core).xferQ = [x] ∧ s.grp? x.g = some r ∧ x.inFlight = 1 ∧ x.left = 0 ∧ x.code = 0 ∧ code < 256 ∧ x.cause = 0 ∧ x.done + n < 2 ^ 32 ∧
    r.pendS.find? (·.id == x.id) = some d ∧ d.reg.toNat < 61 :=
  let x := { xfer0 with inFlight := 1, left := 0 }
  let r := { grp0 with pendS := [⟨5, 9, .reply, 0x10000, 0⟩] }
  ⟨withXfer [0, 9, 44, 0, 5] x r, 0, 44, 0, 5, x, r, ⟨5, 9, .reply, 0x10000, 0⟩, by decide +kernel, by decide +kernel, by decide +kernel, rfl, rfl, rfl,
    by decide, rfl, by decide, by decide +kernel, by decide⟩

/-! ### The Fen at its homes -/

/-- A request for region 1 at slice 0: tag 5, one field. -/
def rqF (k : FenKind) (blk : Bool) : FenReq :=
  ⟨0, 9, 0, k, blk, .cl, 1, 0, 0, 0, [5, 1, 7, 0] ++ List.replicate 12 0, List.replicate 16 0, 1, none, 0, [], true, false, none⟩
/-- A region with room for two tuples on-chip at a slice and no ring. -/
def rgF : Region := ⟨0, 2, 0, false, 0, 0⟩
/-- A tuple that the requests match, and one of another tag. -/
def tupF : Tuple := ⟨3, [5, 1, 7, 0] ++ List.replicate 12 0⟩
def tupG : Tuple := ⟨2, [6, 1, 7, 0] ++ List.replicate 12 0⟩
/-- A state with requests, a region and its part at slice 0. -/
def withFen (args : List Nat) (rs : KMap FenReq) (rg : Region) (p : FenPart) (parked : List Nat) : State :=
  { evt args grp0 team0 with
    fenReqs := rs, slices := [(0, { Slice.reset with fen := [(1, p)], parked := parked, nextSeq := 9 })]
    alder := { (evt args grp0 team0).alder with regions := [(1, rg)] } }
def partF (l : List Tuple) : FenPart := { FenPart.zero with onchip := l }

/-- A request that acts when it reaches its home. -/
def fenAtOnce (s : State) (q : Nat) (u : FenReq) (rg : Region) : Prop :=
  (s.fenPart u.slice u.region).queue = [] ∧ s.fenBehind q u = false ∧ s.fenDelay rg u = 0

theorem witness_FenHomes_store : ∃ (s : State) (q : Nat) (u : FenReq) (rg : Region), s.args = [q] ∧ s.req? q = some u ∧
    kget s.alder.regions u.region = some rg ∧ fenAtOnce s q u rg ∧ u.kind = .deposit ∧ (s.slice u.slice).parked = [] ∧
    (s.fenPart u.slice u.region).onchip.length < rg.onchip :=
  ⟨withFen [4] [(4, rqF .deposit false)] rgF (partF []) [], 4, rqF .deposit false, rgF, by unfold fenAtOnce; decide +kernel⟩

theorem witness_FenHomes_full : ∃ (s : State) (q : Nat) (u : FenReq) (rg : Region), s.args = [q] ∧ s.req? q = some u ∧
    kget s.alder.regions u.region = some rg ∧ fenAtOnce s q u rg ∧ u.kind = .deposit ∧ (s.slice u.slice).parked = [] ∧
    rg.onchip ≤ (s.fenPart u.slice u.region).onchip.length ∧ rg.ring = 0 ∧ u.blk = false :=
  ⟨withFen [4] [(4, rqF .deposit false)] rgF (partF [tupG, tupF]) [], 4, rqF .deposit false, rgF, by unfold fenAtOnce; decide +kernel⟩

theorem witness_FenHomes_handOver : ∃ (s : State) (q : Nat) (u : FenReq) (rg : Region) (k : Nat) (v : FenReq), s.args = [q] ∧ s.req? q = some u ∧
    kget s.alder.regions u.region = some rg ∧ fenAtOnce s q u rg ∧ u.kind = .deposit ∧ (s.slice u.slice).parked = [k] ∧ k ≠ q ∧ s.req? k = some v ∧ v.region = u.region ∧
    v.kind = .take ∧ matchesTuple v u.words = true :=
  ⟨withFen [4] [(3, rqF .take true), (4, rqF .deposit false)] rgF (partF []) [3], 4, rqF .deposit false, rgF, 3, rqF .take true,
    by unfold fenAtOnce; decide +kernel⟩

theorem witness_FenHomes_found : ∃ (s : State) (q : Nat) (u : FenReq) (rg : Region) (c : Tuple), s.args = [q] ∧ s.req? q = some u ∧
    kget s.alder.regions u.region = some rg ∧ fenAtOnce s q u rg ∧ (s.slice u.slice).parked = [] ∧
    (s.fenPart u.slice u.region).head = (s.fenPart u.slice u.region).tail ∧
    c ∈ (s.fenPart u.slice u.region).onchip ∧ matchesTuple u c.words = true ∧
    (∀ d, d ∈ (s.fenPart u.slice u.region).onchip → matchesTuple u d.words = true → d = c ∨ c.sq < d.sq) :=
  ⟨withFen [4] [(4, rqF .take false)] rgF (partF [tupG, tupF]) [], 4, rqF .take false, rgF, tupF, by unfold fenAtOnce; decide +kernel⟩

theorem witness_FenHomes_none : ∃ (s : State) (q : Nat) (u : FenReq) (rg : Region), s.args = [q] ∧ s.req? q = some u ∧
    kget s.alder.regions u.region = some rg ∧ fenAtOnce s q u rg ∧ (s.slice u.slice).parked = [] ∧
    (s.fenPart u.slice u.region).head = (s.fenPart u.slice u.region).tail ∧ u.blk = false ∧
    (∀ d, d ∈ (s.fenPart u.slice u.region).onchip → matchesTuple u d.words = false) ∧ u.withdrawn = false :=
  ⟨withFen [4] [(4, rqF .copy false)] rgF (partF [tupG]) [], 4, rqF .copy false, rgF, by unfold fenAtOnce; decide +kernel⟩

theorem witness_FenHomes_withdrawal : ∃ (s : State) (q : Nat) (u : FenReq) (rg : Region), s.args = [q] ∧ s.req? q = some u ∧
    kget s.alder.regions u.region = some rg ∧ q ∈ (s.slice u.slice).parked ∧ u.fromPeer = none ∧ u.withdrawn = false ∧ u.sent = true :=
  ⟨withFen [4] [(4, rqF .copy true)] rgF (partF [tupG]) [4], 4, rqF .copy true, rgF, by decide +kernel⟩

/-- A region of the Fen with a ring of two slots a slice in module memory. -/
def rgR : Region := ⟨0, 2, 2, false, 0x100000, 0x200000⟩

theorem witness_FenHomes_refill : ∃ (s : State) (x region i : Nat) (rg : Region) (c : Tuple), s.args = [x, region] ∧
    kget s.alder.regions region = some rg ∧ (s.ringLive rg x (s.fenPart x region)).head? = some (i, c) ∧
    (s.fenPart x region).onchip.length < rg.onchip ∧ paClass (ringSeqPa rg x i) = 0 ∧ isRegBlock (paLow (ringSeqPa rg x i)) = false ∧
    s.ringRefreshes rg x i 1 = false :=
  ⟨withFen [0, 1] [] rgR { FenPart.zero with tail := 1 } [], 0, 1, 0, rgR, ⟨0, List.replicate 16 0⟩, by decide +kernel⟩

/-- A take whose region's ring holds 5 slots at the slice: its search takes a further cycle. -/
theorem witness_FenHomes_search : ∃ (s : State) (q : Nat) (u : FenReq) (rg : Region), s.args = [q] ∧ s.req? q = some u ∧
    kget s.alder.regions u.region = some rg ∧ (s.fenPart u.slice u.region).queue = [] ∧ s.fenBehind q u = false ∧ s.fenDelay rg u ≠ 0 ∧
    (Instr.fenTake, u.kind) ∈ [(Instr.fenDeposit, FenKind.deposit), (.fenTake, .take), (.fenCopy, .copy)] :=
  let rg := { rgR with ring := 8 }
  ⟨withFen [4] [(4, rqF .take false)] rg { FenPart.zero with tail := 5 } [], 4, rqF .take false, rg, by decide +kernel⟩

theorem witness_FenHomes_parked : ∃ (s : State) (x region q : Nat) (rest : List Nat) (rg : Region) (u : FenReq), s.args = [x, region] ∧
    kget s.alder.regions region = some rg ∧ (s.slice x).parked = q :: rest ∧ s.req? q = some u ∧ u.kind = .deposit ∧ u.region = region ∧
    (s.fenPart x region).onchip.length < rg.onchip :=
  ⟨withFen [0, 1] [(4, rqF .deposit true)] rgF (partF [tupG]) [4], 0, 1, 4, [], rgF, rqF .deposit true, by decide +kernel⟩

/-- With a Fen instruction whose one request has its status. -/
def withStatus (q : FenReq) (o : FenOp) (r : Group) : State := { evt [4] r team0 with fenReqs := [(4, q)], fenOps := [(9, o)] }
/-- All registers of the group may be written at its allotment. -/
theorem witness_FenStatus_lane : ∃ (s : State) (k : Nat) (q : FenReq) (o : FenOp) (r : Group) (code : Nat), s.args = [k] ∧ s.req? k = some q ∧
    q.code = some code ∧ q.fromPeer = none ∧ kget s.fenOps q.op = some o ∧ s.grp? q.g = some r ∧ kwf s.fenReqs = true ∧ kwf s.fenOps = true ∧ code ≠ 4 ∧
    o.scalar = false ∧ o.left = 1 ∧ o.fullHandle = none ∧ q.lane < 96 ∧ swf r.v = true ∧ (∀ j, r.writable j = true) ∧
    (o.vs < o.vd ∨ o.vd + 16 ≤ o.vs) :=
  let q := { rqF .take false with code := some 2, reply := [5, 1, 7, 0] ++ List.replicate 12 0 }
  let o : FenOp := ⟨0, .take, false, false, .cl, 4, 2, 0, 0, 1, 0x10000, none, 0⟩
  ⟨withStatus q o grp0, 4, q, o, grp0, 2, by decide +kernel, by decide +kernel, rfl, rfl, by decide +kernel, by decide +kernel, by decide +kernel,
    by decide +kernel, by decide, rfl, rfl, rfl, by decide, by decide +kernel, fun j => by rfl, by decide⟩

theorem witness_FenStatus_scalar : ∃ (s : State) (k : Nat) (q : FenReq) (o : FenOp) (r : Group) (code : Nat) (p : PendS), s.args = [k] ∧
    s.req? k = some q ∧ q.code = some code ∧ q.fromPeer = none ∧ kget s.fenOps q.op = some o ∧ s.grp? q.g = some r ∧ kwf s.fenReqs = true ∧
    kwf s.fenOps = true ∧ code ≠ 4 ∧ o.scalar = true ∧ (code ≠ 2 ∨ q.kind = .deposit) ∧ r.pendS.find? (·.id == o.rid) = some p ∧ p.reg.toNat < 61 :=
  let q := { rqF .deposit false with code := some 0 }
  let o : FenOp := ⟨0, .deposit, true, false, .cl, 0, 0, 5, 0, 1, 0x10000, none, 7⟩
  ⟨withStatus q o grpP, 4, q, o, grpP, 0, ⟨5, 7, .load, 0x10000, 0⟩, by decide +kernel, by decide +kernel, rfl, rfl, by decide +kernel, by decide +kernel,
    by decide +kernel, by decide +kernel, by decide, rfl, .inr rfl, by decide +kernel, by decide⟩

/-! ### Host commands and scheduling -/

theorem ok_of {α β : Type} (x : Except α β) (h : (match x with | .ok _ => true | .error _ => false) = true) : ∃ c, x = .ok c := by
  cases x with
  | ok c => exact ⟨c, rfl⟩
  | error e => exact absurd h (by simp)

/-- A queue of 16 entries with one entry, enabled. -/
def hq : HQueue := ⟨0x1000, 0x104, 1, 0, 0x2000, 0, 0, []⟩
/-- A module in full service with that queue and these contexts and commands. -/
def withQ (args : List Nat) (cs : List Ctx) (ms : List Cmd) : State :=
  { evt args grp0 team0 with
    phase := 6, full := true, queues := (Vector.replicate 16 HQueue.reset).setIfInBounds 0 hq
    alder := { State.reset.alder with ctxs := cs, cmds := ms } }

/-- An image at 0x300000, its descriptor at the virtual address 0x10000, the page table at 0x200000 whose entry 0 names itself. -/
def imgMem : List Host.Cell :=
  ssetL (w := 8) (ssetL (w := 8) (ssetL (w := 8) [] 0x100000
      (natBytes 4 0x4B440001 ++ natBytes 4 0 ++ natBytes 8 0x10000 ++ natBytes 8 0 ++ natBytes 2 1 ++ [1, 1] ++ natBytes 2 96 ++ [8, 16] ++ natBytes 4 65536))
    0x200000 (natBytes 8 0x200001 ++ natBytes 8 0x10001F))
    0x300000 (natBytes 4 0x53450001 ++ natBytes 4 1 ++ natBytes 8 0x10000 ++ natBytes 8 0 ++ natBytes 4 1 ++ natBytes 4 1 ++ natBytes 4 1 ++ natBytes 4 0 ++
      natBytes 8 0x200000)
/-- RESUME of it as context 3, cookie 9. -/
def resumeCmd : BitVec 512 := BitVec.ofNat 512 (1 + 3 * 2 ^ 32 + 0x300000 * 2 ^ 64 + 9 * 2 ^ 192)
/-- A state with it. -/
def sImg : State := { withQ [] [] [] with mem := imgMem, fcLimits := [] }

theorem witness_HostCommands_resume : ∃ (q : Nat) (cmd : BitVec 512) (s : State) (h : List Byte) (c : Ctx), cmdField cmd 2 2 < 2 ∧ cmdField cmd 4 2 ≠ 0 ∧
    (∀ x, x ∈ s.alder.ctxs → x.ctxid ≠ cmdField cmd 4 2) ∧ cmdField cmd 6 2 = 0 ∧ cmdField cmd 32 32 = 0 ∧ cmdField cmd 8 8 % 256 = 0 ∧
    cmdField cmd 16 8 % 256 = 0 ∧ s.alderRead (cmdField cmd 8 8) 64 = some h ∧ fieldN h 4 4 % 2 = 1 ∧
    (s.takeCmd q (natBytes 64 cmd.toNat)).2.imageOf q (natBytes 64 cmd.toNat) h s.nextId = .ok c := by
  obtain ⟨c, hc⟩ := ok_of ((sImg.takeCmd 0 (natBytes 64 resumeCmd.toNat)).2.imageOf 0 (natBytes 64 resumeCmd.toNat) (sgetL (w := 8) imgMem 0x300000 64) sImg.nextId)
    (by decide +kernel)
  exact ⟨0, resumeCmd, sImg, sgetL (w := 8) imgMem 0x300000 64, c, by decide +kernel, by decide +kernel, (fun x hx => nomatch (show x ∈ ([] : List Ctx) from hx)),
    by
      refine ⟨?_, ?_, ?_, ?_, ?_, ?_, hc⟩ <;> decide +kernel⟩

/-- A command: opcode, fields at byte 4, byte 8 and byte 32, cookie 9. -/
def cmdOf (opc f4 f8 f32 : Nat) : BitVec 512 := BitVec.ofNat 512 (opc + f4 * 2 ^ 32 + f8 * 2 ^ 64 + 9 * 2 ^ 192 + f32 * 2 ^ 256)
/-- A trap table record for address space 0 at 0x300000. -/
def tabMem : List Host.Cell := ssetL (w := 8) [] 0x300000 (natBytes 4 0x54540001 ++ natBytes 4 0 ++ natBytes 8 0x10000 ++ natBytes 4 6)
def sTab : State := { withQ [] [] [] with mem := tabMem, fcLimits := [] }

theorem mayQ (s : State) (h : s.queues = (Vector.replicate 16 HQueue.reset).setIfInBounds 0 hq) (hm : s.hostMem = []) : s.mayComplete 0 := by
  simp only [State.mayComplete, State.queue, h, hm]
  decide +kernel

theorem witness_HostCommands_trapset : ∃ (q : Nat) (cmd : BitVec 512) (s : State) (b : List Byte), s.mayComplete q ∧ s.alder.cmds = [] ∧
    cmdField cmd 2 2 < 2 ∧ cmdField cmd 4 4 = 0 ∧ cmdField cmd 16 8 = 0 ∧ cmdField cmd 32 32 = 0 ∧ cmdField cmd 8 8 % 64 = 0 ∧
    s.alderRead (cmdField cmd 8 8) 64 = some b ∧ fieldN b 0 4 = 0x54540001 ∧ fieldN b 6 2 = 0 ∧ fieldN b 20 44 = 0 ∧ b.length = 64 ∧
    fieldN b 8 8 % 4 = 0 ∧ (BitVec.ofNat 32 (fieldN b 16 4) &&& 0xFFFC9000 = 0) :=
  ⟨0, cmdOf 2 0 0x300000 0, sTab, sgetL (w := 8) tabMem 0x300000 64, mayQ _ rfl rfl, rfl, by decide +kernel⟩

theorem witness_HostCommands_preempt : ∃ (q : Nat) (cmd : BitVec 512) (s : State) (c : Ctx), s.mayComplete q ∧ s.alder.cmds = [] ∧ s.alder.ctxs = [c] ∧
    c.ctxid = cmdField cmd 4 2 ∧ cmdField cmd 2 2 < 2 ∧ cmdField cmd 6 18 = 0 ∧ cmdField cmd 32 32 = 0 ∧ c.pre = none :=
  ⟨0, cmdOf 3 1 0 0, withQ [] [ctx0] [], ctx0, mayQ _ rfl rfl, rfl, rfl, by decide +kernel⟩

theorem witness_HostCommands_qfence : ∃ (q : Nat) (cmd : BitVec 512) (s : State), s.mayComplete q ∧ s.alder.cmds = [] ∧ cmdField cmd 0 2 = 5 ∧
    cmdField cmd 2 2 < 2 ∧ cmdField cmd 4 20 = 0 ∧ cmdField cmd 32 32 = 0 :=
  ⟨0, cmdOf 5 0 0 0, withQ [] [] [], mayQ _ rfl rfl, rfl, by decide +kernel⟩

theorem witness_HostCommands_tlbinv : ∃ cmd : BitVec 512, cmdField cmd 2 2 < 2 ∧ cmdField cmd 4 4 = 0 ∧ cmdField cmd 10 1 ≤ 2 ∧ cmdField cmd 11 13 = 0 ∧
    cmdField cmd 48 16 = 0 ∧
    (cmdField cmd 10 1 = 1 → cmdField cmd 32 8 % 65536 = 0 ∧ cmdField cmd 40 8 % 65536 = 0 ∧ cmdField cmd 40 8 ≠ 0) :=
  ⟨cmdOf 4 0 0x10000 (0x10000 + 0x20000 * 2 ^ 64), by decide +kernel⟩

theorem witness_HostCommands_visit : ∃ (s : State) (q : Nat) (x : HQueue) (e : List Byte) (i : Instr), s.args = [q] ∧ q < 16 ∧ s.queue q = x ∧
    x.waiting = [] ∧ x.qctl.getLsbD 8 = true ∧ x.room = true ∧ 4 ≤ s.phase.toNat ∧ x.qtail ≠ x.qhead ∧ (x.qtail - x.qhead).toNat ≤ 2 ^ x.size ∧
    s.full = true ∧ e = s.homeBytes (2 ^ 50 + (x.qbase.extractLsb' 12 40).toNat * 4096 + 64 * (x.qhead.toNat % 2 ^ x.size)) 64 ∧
    fieldN e 2 2 % 2 = 0 ∧ commandOf q e = some i ∧ s.alder.ctxs.length < 16 ∧ s.phase ≠ 5 ∧ s.openFences = [] :=
  let s := { withQ [0] [] [] with hostMem := [(0x1000, 5)] }
  ⟨s, 0, hq, 5 :: List.replicate 63 0, .qfence 0 5, rfl, by decide, by decide +kernel, rfl, by decide +kernel, by decide +kernel, by decide +kernel,
    by decide, by decide +kernel, rfl, by decide +kernel⟩

/-- A context of single teams with one cluster left. -/
def ctxN : Ctx := { ctx0 with nextCl := 0, live := [], root := 0 }

theorem witness_Scheduling_place : ∃ (s : State) (c : Ctx) (o : Nat), s.alder.ctxs = [c] ∧ c.pre = none ∧ c.restore = [] ∧ c.cw = 1 ∧ c.ch = 1 ∧
    c.clusters = c.nextCl + 1 ∧ s.chooseOrigin 1 1 [c.freshTeam c.nextCl 0 0] = some o :=
  let s := { State.reset with alder := { State.reset.alder with ctxs := [ctxN] } }
  ⟨s, ctxN, 0, rfl, rfl, rfl, by decide +kernel⟩

/-- The placed team of the context, on core 3. -/
def plc : Placement := { ctxN.freshTeam 0 0 0 with core := 3, start := 512 }

theorem witness_Scheduling_start : ∃ (s : State) (k : Nat) (p : Placement), s.args = [k] ∧ kget s.alder.placements k = some p ∧
    kwf s.alder.placements = true ∧ (p.grps.map (·.1)).Nodup ∧ ((s.ctx? p.team.ctx).bind (·.pre)) = none :=
  let s := { withQ [7] [ctxN] [] with alder := { State.reset.alder with ctxs := [ctxN], placements := [(7, plc)] } }
  ⟨s, 7, plc, rfl, rfl, by decide, by decide +kernel⟩

theorem witness_Scheduling_slice : ∃ (s : State) (c : Ctx), s.args = [c.id, c.placedAt] ∧ s.alder.ctxs = [c] ∧ c.pre = none :=
  ⟨withQ [0, 0] [ctx0] [], ctx0, rfl, rfl, rfl⟩

/-- The pre-emption of the context, grove 0 having stopped. -/
def preS : Preempt := ⟨2, 0, [0], [], [], 0, 0, 0, false, 0⟩
def ctxP : Ctx := { ctx0 with pre := some preS }
/-- A group that has come to its stopping point. -/
def grpS : Group := { grp0 with stop := .preempted }

theorem witness_Scheduling_stop : ∃ (s : State) (w g : Nat) (c : Ctx) (p : Preempt) (r : Group), s.args = [w, c.id] ∧ s.alder.ctxs = [c] ∧
    c.pre = some p ∧ s.groups = [(g, r)] ∧ r.ctx = c.id ∧ willowOf (g / 32) = w :=
  ⟨withQ [0, 0] [ctxP] [], 0, 0, ctxP, preS, grp0, rfl, rfl, rfl, rfl, rfl, by decide +kernel⟩

theorem witness_Scheduling_ack : ∃ (s : State) (w g : Nat) (c : Ctx) (p : Preempt) (r : Group), s.args = [w, c.id] ∧ s.alder.ctxs = [c] ∧
    c.pre = some p ∧ s.groups = [(g, r)] ∧ r.ctx = c.id ∧ willowOf (g / 32) = w ∧ w ∈ p.stopped ∧ w ∉ p.acked ∧ s.groveStopped w c.id = true :=
  let r := { grpS with gwctMax := 0 }
  let s := { withQ [0, 0] [ctxP] [] with groups := [(0, r)], ptime := 5 }
  ⟨s, 0, 0, ctxP, preS, r, rfl, rfl, rfl, rfl, rfl, by decide +kernel, by decide, by decide, by decide +kernel⟩

theorem witness_Scheduling_report : ∃ (s : State) (w : Nat) (c : Ctx) (p : Preempt), s.alder.ctxs = [c] ∧ c.pre = some p ∧ w ∉ p.reports ∧
    p.reports.length ≠ 31 :=
  ⟨withQ [] [ctxP] [], 0, ctxP, preS, rfl, rfl, by decide, by decide⟩

/-- An invalidation that 31 Willows have reported. -/
def inv31 : Cmd := ⟨6, 0, 4, 0, 9, (List.range 31).map (· + 1)⟩

theorem witness_Scheduling_invalidated : ∃ (s : State) (w : Nat) (c : Cmd), s.alder.cmds = [c] ∧ w ∉ c.reports ∧ c.reports.length = 31 ∧
    s.walks.any (·.2.stale) = false ∧ s.mayComplete c.queue :=
  ⟨withQ [] [] [inv31], 0, inv31, rfl, by decide, by decide, rfl, mayQ _ rfl rfl⟩

theorem witness_Scheduling_tinv : ∃ (s : State) (w id asn kind va len : Nat), s.args = [w, id, asn, kind, va, len] ∧ w < 32 :=
  ⟨withQ [1, 6, 0, 2, 0, 0] [] [], 1, 6, 0, 2, 0, 0, rfl, by decide⟩

theorem witness_Scheduling_preempted : ∃ (s : State) (c : Ctx) (m : Cmd) (p : Preempt), s.args = [c.id] ∧ s.alder.ctxs = [c] ∧ s.alder.cmds = [m] ∧
    m.id = c.id ∧ s.mayComplete m.queue ∧ c.pre = some p ∧ p.done = true ∧ p.imgG < s.ptime ∧ c.halted = false :=
  let p := { preS with done := true }
  let c := { ctx0 with pre := some p }
  let m : Cmd := ⟨0, 0, 1, 1, 9, []⟩
  ⟨{ withQ [0] [c] [m] with ptime := 5 }, c, m, p, rfl, rfl, rfl, rfl, mayQ _ rfl rfl, rfl, rfl, by decide, rfl⟩

theorem witness_Scheduling_completed : ∃ (s : State) (c : Ctx) (m : Cmd), s.args = [c.id] ∧ s.alder.ctxs = [c] ∧ s.alder.cmds = [m] ∧
    m.id = c.id ∧ s.mayComplete m.queue ∧ c.pre = none ∧ c.restore = [] ∧ c.live = [] ∧ c.clusters ≤ c.nextCl ∧ c.gmax < s.ptime :=
  let c := { ctx0 with live := [] }
  let m : Cmd := ⟨0, 0, 1, 1, 9, []⟩
  ⟨{ withQ [0] [c] [m] with ptime := 5 }, c, m, rfl, rfl, rfl, rfl, mayQ _ rfl rfl, rfl, rfl, rfl, by decide +kernel, by decide⟩

/-! ### Peers, fabric links, the host link -/

/-- A request of module 1 for the memory at 0x100000: a write of 64 bytes, all enabled; ESEQ 7, from core 3. -/
def pktQ (kind : Nat) : Packet :=
  ⟨BitVec.ofNat 8 kind, false, false, 0, 1, 3, 7, 0, 0x100000, 0, BitVec.allOnes 256, List.replicate 64 5⟩

theorem portFree_of (s : State) (port n : Nat) (hp : s.ports = State.reset.ports) (hg : s.gates = State.reset.gates) (hn : n ≤ 1024)
    (h : decide ((State.reset.gates.getD (1 + port) Gate.reset).mode ≠ .replay) = true) : s.portFree port n := by
  have e : s.port port = Port.reset := by
    simp only [State.port, hp, State.reset, Domain.reset, Vector.getD, Array.getD]
    split <;> simp
  refine ⟨by rw [e]; rfl, fun i hi => ?_, ?_⟩
  · have : (Port.reset.planes.getD i Plane.fresh).buf = [] := by
      obtain rfl | rfl : i = 0 ∨ i = 1 := by omega
      all_goals decide
    rw [e, this]; simpa using hn
  · simpa [State.transmits, hg] using h

theorem fromPeer_of (s : State) (p : Packet) (h : s.modNum = 0) (hs : s.pod.seen = []) (hr : s.reduced = false) (hq : s.ports = State.reset.ports)
    (hg : s.gates = State.reset.gates)
    (hp : (p.dst == 0 && p.src != 0 && isBonded (p.addr.toNat % 2 ^ 42) &&
      decide ((State.reset.gates.getD (1 + portFor (homeDie (p.addr.toNat % 2 ^ 42) % 4) p.src.toNat) Gate.reset).mode ≠ .replay)) = true) :
    s.fromPeer p := by
  simp only [Bool.and_eq_true, beq_iff_eq, bne_iff_ne] at hp
  obtain ⟨⟨⟨h1, h2⟩, h3⟩, h4⟩ := hp
  exact ⟨by rw [h]; exact h1, by rw [h]; exact h2, by simp [State.served?, hs], by rw [State.backed, h3, hr]; rfl,
    portFree_of s _ _ hq hg (by decide) h4⟩

theorem witness_PeerRequests_read : ∃ (s : State) (p : Packet), s.fromPeer p ∧ s.meetsRefresh (p.addr.toNat % 2 ^ 42 / 64 * 64) = false ∧ s.homePlain :=
  ⟨evt [] grp0 team0, pktQ 1, fromPeer_of _ _ rfl rfl rfl rfl rfl (by decide +kernel), by decide +kernel, homePlain_of _ rfl (by decide +kernel)⟩

theorem witness_PeerRequests_write : ∃ (s : State) (p : Packet) (i : Nat), s.fromPeer p ∧ p.kind = 2 ∧ p.addr.toNat % 2 ^ 42 % 64 = 0 ∧
    p.data.length = 64 ∧ i < 64 ∧ p.ben.getLsbD i = true ∧ s.pinnedCopy (p.addr.toNat % 2 ^ 42 / 256) = false :=
  ⟨evt [] grp0 team0, pktQ 2, 3, fromPeer_of _ _ rfl rfl rfl rfl rfl (by decide +kernel), rfl, by decide +kernel, by decide +kernel, by decide, by decide +kernel⟩

theorem witness_PeerRequests_atomic : ∃ (s : State) (p : Packet), s.fromPeer p ∧ p.addr.toNat % 2 ^ 42 % 8 = 0 ∧ p.ben.extractLsb' 8 8 = (8 : BitVec 8) ∧
    s.pod.hot = [] ∧ s.meetsRefresh (p.addr.toNat % 2 ^ 42) = false ∧ s.pinnedCopy (p.addr.toNat % 2 ^ 42 / 256) = false :=
  ⟨evt [] grp0 team0, { pktQ 3 with ben := 0x801 }, fromPeer_of _ _ rfl rfl rfl rfl rfl (by decide +kernel), by decide +kernel, by decide +kernel, rfl, by decide +kernel⟩

/-- A state that waits for module 1's answer to a request of part 0 of operation 7. -/
def asked (k : OpKind) (kind : Nat) : State :=
  { withOp [] grpP (memOp k (.scalar 0) (.sreg 5) part0) with
    dies := (Vector.replicate 4 Die.reset).setIfInBounds 0 { Die.reset with reqs := [⟨1, 7, { pktQ kind with dst := 1, src := 0 }, 0, 0, 7, 0⟩] } }

theorem witness_PeerRequests_response : ∃ (s : State) (p : Packet) (d : Nat) (x : PeerReq) (m : MemOp) (q : Part), d < 4 ∧
    s.peerReq? p.src.toNat p.eseq.toNat p.addr = some (d, x) ∧ s.part? x.op x.part = some (m, q) ∧ x.pkt.kind = 2 :=
  ⟨asked .store 2, pktQ 6, 0, ⟨1, 7, { pktQ 2 with dst := 1, src := 0 }, 0, 0, 7, 0⟩, memOp .store (.scalar 0) (.sreg 5) part0, part0, by decide,
    by decide +kernel, by decide +kernel, rfl⟩

theorem witness_PeerRequests_load : ∃ (s : State) (p : Packet) (d : Nat) (x : PeerReq) (m : MemOp) (q : Part) (g : Nat), d < 4 ∧
    s.peerReq? p.src.toNat p.eseq.toNat p.addr = some (d, x) ∧ s.part? x.op x.part = some (m, q) ∧ x.pkt.kind = 1 ∧ x.part = 0 ∧ m.parts = [q] ∧
    m.kind = .load ∧ m.order = .relaxed ∧ m.agent = .scalar g ∧ q.bound = false ∧ q.unc = false ∧ p.data.length = 64 ∧ q.pa % 64 + q.len ≤ 64 ∧
    (∀ y, y ∈ s.ops → y.1 < s.nextId) ∧ kwf s.ops = true :=
  ⟨asked .load 1, pktQ 6, 0, ⟨1, 7, { pktQ 1 with dst := 1, src := 0 }, 0, 0, 7, 0⟩, memOp .load (.scalar 0) (.sreg 5) part0, part0, 0, by decide,
    by decide +kernel, by decide +kernel, rfl, rfl, rfl, rfl, rfl, rfl, rfl, rfl, by decide +kernel, by decide, by decide +kernel⟩

theorem witness_FabricLinks_credit : ∃ (s : State) (die dst n : Nat), s.args = [die, dst, n] ∧ die < 4 ∧ dst ∉ (s.die die).salOff ∧
    (s.die die).salWait = [] ∧ swf (s.die die).sal = true :=
  ⟨evt [0, 1, 3] grp0 team0, 0, 1, 3, rfl, by decide, by decide +kernel⟩

theorem transmits_of (s : State) (g : Nat) (h : decide ((s.gates.getD g Gate.reset).mode ≠ .replay) = true) : s.transmits g := by
  simpa [State.transmits] using h

theorem witness_FabricLinks_owed : ∃ (s : State) (die dst : Nat) (o : Owed), s.args = [die, dst] ∧ o ∈ s.owed ∧ o.src = dst ∧ o.since + 256 ≤ s.ccount ∧
    s.portFree (portFor die dst) 1 :=
  ⟨{ evt [0, 1] grp0 team0 with owed := [⟨1, 0, 5, 0⟩], ccount := 300 }, 0, 1, ⟨1, 0, 5, 0⟩, rfl, List.mem_singleton_self _, rfl, by decide,
    portFree_of _ _ _ rfl rfl (by decide) (by decide +kernel)⟩

/-- A request that was sent again some times. -/
def withAsk (tries : Nat) : State :=
  { evt [0, 1, 7] grp0 team0 with
    dies := (Vector.replicate 4 Die.reset).setIfInBounds 0 { Die.reset with reqs := [⟨1, 7, { pktQ 2 with dst := 1, src := 0 }, 0, tries, 7, 0⟩] } }

theorem witness_FabricLinks_resend : ∃ (s : State) (die dst : Nat) (x : PeerReq), s.args = [die, dst, x.eseq] ∧ die < 4 ∧
    (s.die die).reqs = [x] ∧ x.dst = dst ∧ s.held die dst = false ∧ x.tries = 14 ∧ s.portFree (portFor die dst) (1 + (x.pkt.data.length + 63) / 64) :=
  ⟨withAsk 14, 0, 1, ⟨1, 7, { pktQ 2 with dst := 1, src := 0 }, 0, 14, 7, 0⟩, rfl, by decide, by decide +kernel, rfl, by decide +kernel, rfl,
    portFree_of _ _ _ rfl rfl (by decide) (by decide +kernel)⟩

theorem witness_FabricLinks_giveUp : ∃ (s : State) (die dst : Nat) (x : PeerReq), s.args = [die, dst, x.eseq] ∧ die < 4 ∧
    (s.die die).reqs = [x] ∧ x.dst = dst ∧ s.held die dst = false ∧ x.tries = 15 ∧ dst < 256 :=
  ⟨withAsk 15, 0, 1, ⟨1, 7, { pktQ 2 with dst := 1, src := 0 }, 0, 15, 7, 0⟩, rfl, by decide, by decide +kernel, rfl, by decide +kernel, rfl, by decide⟩

/-- A flit of a read's packet, its CRC moved by d. -/
def flitQ (d : W32) : Flit := ⟨0, 0, false, 1 :: List.replicate 63 0, flitCrc ⟨0, 0, false, 1 :: List.replicate 63 0, 0⟩ + d⟩

theorem flitQ_good : flitGood (flitQ 0) = true := by simp [flitGood, flitQ, flitCrc, flitWrap]
theorem flitQ_bad : flitGood (flitQ 1) = false := by simp [flitGood, flitQ, flitCrc, flitWrap]

theorem witness_FabricLinks_flit : ∃ (s : State) (port plane : Nat) (f : Flit) (pl : Plane), port < 16 ∧ plane < 2 ∧
    (s.port port).planes.getD plane ⟨0, 0, [], [], false⟩ = pl ∧ flitGood f = true ∧ f.lseq = pl.inSeq ∧ pl.rx = [] ∧ fieldN f.content 6 1 = 0 ∧
    (packetOf f.content).crit = false :=
  ⟨evt [] grp0 team0, 0, 0, flitQ 0, ⟨0, 0, [], [], false⟩, by decide, by decide, by decide +kernel, flitQ_good, rfl, rfl, by decide +kernel⟩

theorem witness_FabricLinks_bad : ∃ (s : State) (port plane : Nat) (f : Flit) (pl : Plane), port < 16 ∧ plane < 2 ∧
    (s.port port).planes.getD plane ⟨0, 0, [], [], false⟩ = pl ∧ flitGood f = false ∧ pl.naked = false ∧ s.args = [port] ∧ s.frozen = true :=
  ⟨{ evt [0] grp0 team0 with frozen := true }, 0, 0, flitQ 1, ⟨0, 0, [], [], false⟩, by decide, by decide, by decide +kernel, flitQ_bad, rfl, rfl, rfl⟩

theorem witness_FabricLinks_nak : ∃ (s u : State) (port plane : Nat) (pl pe : Plane) (l : BitVec 12), port < 16 ∧ plane < 2 ∧
    (s.port port).planes.getD plane ⟨0, 0, [], [], false⟩ = pl ∧ pl.buf.dropWhile (·.lseq != l) = [] ∧
    (u.port port).planes.getD plane ⟨0, 0, [], [], false⟩ = pe ∧ pe.buf.dropWhile (·.lseq != l) ≠ [] :=
  let f : Flit := ⟨3, 0, false, [], 0⟩
  let pe : Plane := { Plane.fresh with buf := [f] }
  ⟨evt [] grp0 team0, { evt [] grp0 team0 with ports := State.reset.ports.setIfInBounds 2 { Port.reset with planes := #v[Plane.fresh, pe] } }, 2, 1,
    ⟨0, 0, [], [], false⟩, pe, 3, by decide, by decide, by decide +kernel, by decide, by decide +kernel, by decide⟩

theorem witness_HostLink_read : ∃ (s : State) (tag a n : Nat), s.args = [tag, a, n] ∧ s.transmits 0 ∧ s.backed a = true ∧ s.backed (a + n - 1) = true ∧
    s.frozen = false ∧ 0 < n ∧ a % 64 + n ≤ 64 ∧ s.meetsRefresh (a / 64 * 64) = false ∧ s.homePlain :=
  ⟨evt [9, 0x100000, 8] grp0 team0, 9, 0x100000, 8, rfl, transmits_of _ _ (by decide +kernel), by decide +kernel, by decide +kernel, rfl, by decide, by decide,
    by decide +kernel, homePlain_of _ rfl (by decide +kernel)⟩

theorem witness_HostLink_readFrozen : ∃ (s : State) (tag a n : Nat), s.args = [tag, a, n] ∧ s.transmits 0 ∧ s.backed a = true ∧
    s.backed (a + n - 1) = true ∧ s.frozen = true :=
  ⟨{ evt [9, 0x100000, 8] grp0 team0 with frozen := true }, 9, 0x100000, 8, rfl, transmits_of _ _ (by decide +kernel), by decide +kernel, by decide +kernel,
    rfl⟩

theorem witness_HostLink_readUnbacked : ∃ (s : State) (tag a n : Nat), s.args = [tag, a, n] ∧ s.transmits 0 ∧ s.backed a = false ∧ isRegBlock a = false :=
  ⟨evt [9, 0x5000000000, 8] grp0 team0, 9, 0x5000000000, 8, rfl, transmits_of _ _ (by decide +kernel), by decide +kernel⟩

theorem witness_HostLink_write : ∃ (s : State) (a : Nat) (data : List Byte) (ben : List Bool) (k : Nat), s.frozen = false ∧ s.backed a = true ∧
    s.backed (a + data.length - 1) = true ∧ s.pinnedCopy (a / 256) = false ∧ a % 64 + data.length ≤ 64 ∧ k < data.length ∧ ben.getD k false = true :=
  ⟨evt [] grp0 team0, 0x100000, [1, 2], [false, true], 1, rfl, by decide +kernel, by decide +kernel, by decide +kernel, by decide, by decide, rfl⟩

theorem witness_HostLink_atomic : ∃ (s : State) (a n : Nat), s.transmits 0 ∧ (n = 4 ∨ n = 8) ∧ a % n = 0 ∧ s.backed a = true ∧ s.meetsRefresh a = false ∧
    s.pinnedCopy (a / 256) = false :=
  ⟨evt [] grp0 team0, 0x100000, 8, transmits_of _ _ (by decide +kernel), .inr rfl, by decide, by decide +kernel⟩

/-- A read of 8 bytes of host memory with tag 2. -/
def partH : Part := { part0 with pa := 0x4000000100000, unc := true }
def sHost : State := { withOp [] grpP (memOp .load (.scalar 0) (.sreg 5) partH) with pendingHost := [(2, ⟨7, 0, 8, []⟩)] }

theorem witness_HostLink_completion : ∃ (s : State) (tag : Nat) (q : HostReq) (m : MemOp) (p : Part) (g : Nat) (data : List Byte),
    kget s.pendingHost tag = some q ∧ kwf s.pendingHost = true ∧ s.part? q.op q.part = some (m, p) ∧ q.part = 0 ∧ q.got = [] ∧ q.len = p.len ∧
    p.unc = true ∧ m.kind = .load ∧ m.order = .relaxed ∧ m.parts = [p] ∧ p.bound = false ∧ m.agent = .scalar g ∧ data.length = p.len ∧
    p.pa % 64 + p.len ≤ 64 :=
  ⟨sHost, 2, ⟨7, 0, 8, []⟩, memOp .load (.scalar 0) (.sreg 5) partH, partH, 0, [1, 2, 3, 4, 5, 6, 7, 8], by decide +kernel, by decide +kernel,
    by decide +kernel, rfl, rfl, rfl, rfl, rfl, rfl, rfl, rfl, rfl, rfl, by decide⟩

theorem witness_HostLink_args : ∃ (s1 s2 : State) (k v n : Nat), s1.args = [k, v] ∧ s2.args = [n] ∧ 1 ≤ n ∧ n ≤ 4 :=
  ⟨evt [3, 100] grp0 team0, evt [2] grp0 team0, 3, 100, 2, rfl, rfl, by decide, by decide⟩

/-! ### The boot chain's algorithms, against values made outside Lean -/
/-- The modulus of a key whose factors are known: Mersenne primes. -/
def bootN : Nat := (2 ^ 3217 - 1) * (2 ^ 607 - 1) * (2 ^ 127 - 1) * (2 ^ 107 - 1) * (2 ^ 31 - 1) * (2 ^ 7 - 1)
/-- A signature made with it outside Lean (RFC 8017, salt bytes 0 to 63) over the header of an image of Willow without a body. -/
def bootSig : Nat :=
  0x6BA4BB968D4A73CE9D31C8D2965C8EEC006FEC45406FA5D4B11F21D586B238C77927ED00FBEFADEB0EA861149873970A0F3BA023B35C92E1DD890FC8 +
  0xBE263A16441BC5CFC1DBA7EE5B4E2FA36EC4C550342C8E562AD93EDC5FAC259B6ED1AAE4BF65D22D5F06074341B2FE7FB9ACFC7AF48AB45196221E18 * 2 ^ 480 +
  0x4B43938B3CA40EB2A8A30CB04D32B4B1845FAC39F9ABC133E91614ACFBFAC5DD384C7A962C31D8EB9724FFBAE74DB0F561AD32F9DCA4902EB1029747 * 2 ^ 960 +
  0x31181F4CB94547DBB60BE0F85E523C2912CA67AD362A9A1258281B43C5563A1666DC6BBFCA3644CD09673F36263DFDAD8E08B1E6CD2D1E5D87217E30 * 2 ^ 1440 +
  0x7DB3E7BEB967F3D7D989EEDBA07BF2963EA9F3CD80B027A6390C7EE491221BC31C2E8990B0786C5FD1FB5151178D12BD88A699D03B8B7154F4AA0C9A * 2 ^ 1920 +
  0xB712314B741B0CC8D4556D0C7B164DF063497784A7E458BE5AA1AC96398C80D6FEB4A05E076398667A12D6083DB152799281DD9D0E54DE35773902B9 * 2 ^ 2400 +
  0x66CF0128722906BE9C41A23E36A9963E9968DF66CE00C469A0DF02FF4D223F0F2E9BF78A39DB0E04ADD961975BE98652B3F28084A0456B95850238A2 * 2 ^ 2880 +
  0x68B73A7D6AC72266FCECDEB407EB6B901EA9701E21B2A118BC636A75C72DCFB82006E8434CB0AF7F749269376689A1B507D35285013E41C34422337E * 2 ^ 3360 +
  0x6B8D3C9DC8B430B70A99B778B3AA206A2AACB06CF1AB24E6474C6EA30568061B * 2 ^ 3840
/-- The SHA-512 of the key, from outside Lean. -/
def bootKeyDigest : Nat := 0x56F28A4D800F86CF06D043FDABF111C55B5973472FBFCC1AFA063881FA8E407E4C01A71F00BDFD6B4C59871119D4C23D8152684B237A7B44718C3C2DB355649C
/-- That image, SVN at its largest. -/
def bootImg : List Byte :=
  natBytes 4 0x46490001 ++ natBytes 4 2 ++ natBytes 4 0xFFFFFFFF ++ natBytes 4 0 ++ natBytes 512 bootN ++ beBytes 512 bootSig ++ beBytes 64 bootKeyDigest ++
    List.replicate 944 0
/-- Phase 1, the next image that of Willow, whose key is that of the image of Alder. -/
def sBoot : State := { State.reset with phase := 1, bootNext := 2, alderKey := BitVec.ofNat 512 bootKeyDigest }
theorem test_sha512_abc : beNat (sha512 [0x61, 0x62, 0x63]) =
    0xDDAF35A193617ABACC417349AE20413112E6FA4E89A97EA20A9EEEE64B55D39A2192992A274FC1A836BA3C23A3FEEBBD454D4423643CE80E2A9AC94FA54CA49F := by decide +kernel

theorem test_boot_signature : pssValid (bytesNat ((bootImg.drop 16).take 512)) (beNat ((bootImg.drop 528).take 512)) (bootImg.take 16 ++ bootImg.drop 2048) = true := by
  decide +kernel

theorem bootHead : ¬(bootImg.length < 2048 ∨ fieldN bootImg 0 4 ≠ 0x46490001 ∨ fieldN bootImg 4 4 ≠ sBoot.bootNext ∨ fieldN bootImg 12 4 ≠ bootImg.length - 2048 ∨
    ((bootImg.drop 1104).take 944).any (· != 0) = true ∨ (sBoot.bootNext = 1 ∧ ((bootImg.drop 1040).take 64).any (· != 0) = true)) := by decide +kernel
theorem bootSvn : ¬(fieldN bootImg 8 4 < Config.rollback.toNat) := by
  have h : fieldN bootImg 8 4 = 0xFFFFFFFF := by decide +kernel
  have := Config.rollback.isLt
  omega
theorem bootKey : ¬((bootImg.drop 1040).take 64 ≠ sha512 ((bootImg.drop 16).take 512) ∨
    sha512 ((bootImg.drop 16).take 512) ≠ beBytes 64 sBoot.alderKey.toNat) := by decide +kernel

theorem test_boot_image_good : sBoot.imageErr bootImg = 0 := by
  have h1 : ¬(sBoot.bootNext = 1) := by decide
  have hh := bootHead
  simp only [h1, false_and] at hh
  simp only [State.imageErr, h1, false_and, if_neg hh, if_neg bootSvn, if_false, decide_false, Bool.not_false, true_and, if_neg bootKey,
    test_boot_signature, if_true]
/-! ### Gates, registers, power, boot, trace, steps -/

/-- A state whose gate g has these registers. -/
def withGate (args : List Nat) (g : Nat) (y : Gate) : State :=
  { evt args grp0 team0 with gates := (Vector.replicate 18 Gate.reset).setIfInBounds g y, ptime := 40 }
/-- A ring of 16 slots at 0x10000; CTL 0x104 strict, 0x124 lossy, 0x144 replay. -/
def ring (ctl tail : BitVec 64) : Gate := { Gate.reset with gbase := 0x10000, gctl := ctl, gtail := tail.setWidth 32, grlim := 99 }

theorem witness_Gates_record : ∃ (s : State) (g : Nat) (x : Arrival), 0 < g ∧ g < 18 ∧ (∀ c, x ≠ .stepEvent c) ∧ (∀ a b, x ≠ .credit a b) ∧
    (s.gateAt g).on = true ∧ (s.gateAt g).mode ≠ .replay ∧ (s.gateAt g).isFull = false ∧ (s.gateAt g).headDelay = false ∧
    (s.gateAt g).waiting = [] ∧ (s.gateAt g).lost = 0 :=
  ⟨withGate [] 1 (ring 0x104 3), 1, .hold 2, by decide, by decide, (fun c h => nomatch h), (fun a b h => nomatch h), by decide +kernel⟩

theorem witness_Gates_strict : ∃ (s : State) (g : Nat) (x : Arrival), 0 < g ∧ g < 18 ∧ (∀ c, x ≠ .stepEvent c) ∧ (∀ a b, x ≠ .credit a b) ∧
    (s.gateAt g).on = true ∧ (s.gateAt g).isFull = true ∧ (s.gateAt g).mode = .strict :=
  ⟨withGate [] 1 (ring 0x104 16), 1, .hold 2, by decide, by decide, (fun c h => nomatch h), (fun a b h => nomatch h), by decide +kernel⟩

theorem witness_Gates_lossy : ∃ (s : State) (g : Nat) (x : Arrival), 0 < g ∧ g < 18 ∧ (∀ c, x ≠ .stepEvent c) ∧ (∀ a b, x ≠ .credit a b) ∧
    (s.gateAt g).on = true ∧ (s.gateAt g).isFull = true ∧ (s.gateAt g).mode = .lossy :=
  ⟨withGate [] 1 (ring 0x124 16), 1, .hold 2, by decide, by decide, (fun c h => nomatch h), (fun a b h => nomatch h), by decide +kernel⟩

theorem witness_Gates_off : ∃ (s : State) (g : Nat) (x : Arrival), 0 < g ∧ g < 18 ∧ (∀ c, x ≠ .stepEvent c) ∧ (∀ a b, x ≠ .credit a b) ∧
    (s.gateAt g).on = false :=
  ⟨withGate [] 1 Gate.reset, 1, .hold 2, by decide, by decide, (fun c h => nomatch h), (fun a b h => nomatch h), by decide +kernel⟩

theorem witness_Gates_discard : ∃ (s : State) (g : Nat) (x : Arrival), 0 < g ∧ g < 18 ∧ (∀ c, x ≠ .stepEvent c) ∧ (∀ a b, x ≠ .credit a b) ∧
    (s.gateAt g).on = true ∧ (s.gateAt g).mode = .replay ∧ (∀ a b c d, x ≠ .barRead a b c d) ∧ (∀ a b c d e f, x ≠ .barAtomic a b c d e f) :=
  ⟨withGate [] 1 (ring 0x144 3), 1, .hold 2, by decide, by decide, (fun c h => nomatch h), (fun a b h => nomatch h), by decide +kernel, by decide +kernel,
    (fun a b c d h => nomatch h), (fun a b c d e f h => nomatch h)⟩

theorem witness_Gates_loss : ∃ (s : State) (g : Nat), s.args = [g] ∧ g < 18 ∧ (s.gateAt g).on = true ∧ (s.gateAt g).mode = .lossy ∧ (s.gateAt g).lost ≠ 0 ∧
    (s.gateAt g).isFull = false :=
  ⟨withGate [1] 1 { ring 0x124 3 with lost := 2 }, 1, rfl, by decide, by decide +kernel⟩

theorem witness_Gates_crossing : ∃ (s : State) (g off n : Nat) (p q : Packet), 0 < g ∧ g < 17 ∧ p.dst ≠ s.modNum ∧ q.dst = s.modNum ∧ q.kind = 6 ∧ q.cred = 0 ∧
    s.transmits 0 ∧ crcerrOf off n = none :=
  ⟨withGate [] 1 Gate.reset, 1, 0x1000, 8, { pktQ 6 with dst := 3 }, pktQ 6, by decide, by decide, by decide +kernel, by decide +kernel, by decide +kernel,
    by decide +kernel, transmits_of _ _ (by decide +kernel), by decide +kernel⟩

/-- With a record in slot 3 of the ring of gate 1: its stamp, kind, step code, and a payload of one byte. -/
def withRec (stamp kind code seq : Nat) : State :=
  { withGate [1] 1 (ring 0x144 3) with
    hostMem := ssetL [] (0x10000 + 2048 * 3) (natBytes 8 stamp ++ natBytes 1 kind ++ [0, 1, 0] ++ natBytes 4 seq ++ natBytes 1 code ++ List.replicate 15 0 ++ [7]) }

theorem witness_Gates_diverge : ∃ (s : State) (g stamp kind len code : Nat) (seq : BitVec 32) (body : List Byte), s.args = [g] ∧ g < 18 ∧
    (s.gateAt g).on = true ∧ (s.gateAt g).mode = .replay ∧
    s.slotRecord ((s.gateAt g).slot (s.gateAt g).gtail.toNat) = (stamp, kind, len, seq, code, body) ∧ (s.gateAt g).gtail ≠ (s.gateAt g).grlim ∧
    (seq ≠ (s.gateAt g).gtail ∨ kind = 10 ∨ stamp < s.ptime) :=
  ⟨withRec 40 4 0 2, 1, 40, 4, 1, 0, 2, [7], rfl, by decide, by decide +kernel, by decide +kernel, by decide +kernel, by decide +kernel,
    .inl (by decide +kernel)⟩

theorem witness_Gates_early : ∃ (s : State) (g stamp kind len code : Nat) (seq : BitVec 32) (body : List Byte), s.args = [g] ∧ g < 18 ∧
    (s.gateAt g).on = true ∧ (s.gateAt g).mode = .replay ∧
    s.slotRecord ((s.gateAt g).slot (s.gateAt g).gtail.toNat) = (stamp, kind, len, seq, code, body) ∧ (s.gateAt g).gtail ≠ (s.gateAt g).grlim ∧
    seq = (s.gateAt g).gtail ∧ kind ≠ 10 ∧ s.ptime < stamp :=
  ⟨withRec 41 4 0 3, 1, 41, 4, 1, 0, 3, [7], rfl, by decide +kernel⟩

theorem witness_Gates_inject : ∃ (s : State) (g stamp kind len code : Nat) (seq : BitVec 32) (body : List Byte) (x : Arrival), s.args = [g] ∧ g < 18 ∧
    (s.gateAt g).on = true ∧ (s.gateAt g).mode = .replay ∧
    s.slotRecord ((s.gateAt g).slot (s.gateAt g).gtail.toNat) = (stamp, kind, len, seq, code, body) ∧ (s.gateAt g).gtail ≠ (s.gateAt g).grlim ∧
    seq = (s.gateAt g).gtail ∧ kind ≠ 10 ∧ stamp = s.ptime ∧ kind ≠ 8 ∧ arrivalOf kind body = some x ∧ (∀ a b c, x ≠ .wakeEntry a b c) :=
  ⟨withRec 40 4 0 3, 1, 40, 4, 1, 0, 3, [7], .hold 7, rfl, by decide, by
      refine ⟨?_, ?_, ?_, ?_, ?_, by decide, by decide +kernel, by decide, by decide +kernel, (fun a b c h => nomatch h)⟩ <;> decide +kernel⟩

theorem witness_Gates_step (code : Nat) (h : code = 3 ∨ code = 1) : ∃ (s : State) (g stamp kind len : Nat) (seq : BitVec 32) (body : List Byte),
    s.args = [g] ∧ g < 18 ∧ (s.gateAt g).on = true ∧ (s.gateAt g).mode = .replay ∧
    s.slotRecord ((s.gateAt g).slot (s.gateAt g).gtail.toNat) = (stamp, kind, len, seq, code, body) ∧ (s.gateAt g).gtail ≠ (s.gateAt g).grlim ∧
    seq = (s.gateAt g).gtail ∧ kind ≠ 10 ∧ stamp = s.ptime ∧ kind = 8 ∧ s.step.toNat = 3 := by
  rcases h with rfl | rfl
  · exact ⟨withRec 40 8 3 3, 1, 40, 8, 1, 3, [7], rfl, by decide +kernel⟩
  · exact ⟨withRec 40 8 1 3, 1, 40, 8, 1, 3, [7], rfl, by decide +kernel⟩

/-- A gated device with one write in its latch. -/
def gatedS : State := { evt [] grp0 team0 with gated := true, latch := [⟨0, 1, 0xFF, 5⟩] }

theorem witness_RegistersAndLatch_wake : ∃ (s u : State) (e : LatchE) (r : List LatchE), s.gated = true ∧ s.wakeAt = none ∧ s.latch = e :: r ∧
    u.gated = false :=
  ⟨gatedS, evt [] grp0 team0, ⟨0, 1, 0xFF, 5⟩, [], rfl, rfl, rfl, rfl⟩

theorem witness_RegistersAndLatch_cqhead : ∃ (s : State) (q : Nat), q < 16 ∧ (s.queue q).waiting = [] ∧ s.alder.cmds = [] :=
  ⟨withQ [] [] [], 0, by decide, by decide +kernel, rfl⟩

/-- A queue whose full completion ring holds an entry back. -/
def hqFull : HQueue := { hq with cqtail := 16, waiting := [⟨4, 0, 9, 1, 1, 0⟩] }

theorem witness_RegistersAndLatch_waiting : ∃ (s : State) (q : Nat) (v : W32) (c : Completion), q < 16 ∧ (s.queue q).waiting = [c] ∧ s.alder.cmds = [] ∧
    ({ s.queue q with cqhead := v }).room = true ∧ (s.queue q).qctl.getLsbD 9 = false ∧ s.transmits 0 :=
  ⟨{ withQ [] [] [] with queues := (Vector.replicate 16 HQueue.reset).setIfInBounds 0 hqFull }, 0, 1, ⟨4, 0, 9, 1, 1, 0⟩, by decide, by decide +kernel, rfl,
    by decide +kernel, by decide +kernel, transmits_of _ _ (by decide +kernel)⟩

theorem witness_RegistersAndLatch_gate : ∃ s : State, s.alder.gateen = true ∧ 16777216 ≤ s.alder.idle ∧ s.alder.ctxs = [] ∧
    (∀ q, q < 16 → (s.queue q).qtail = (s.queue q).qhead) ∧ s.wakeAt = none :=
  ⟨{ State.reset with alder := { State.reset.alder with gateen := true, idle := 16777216 } }, rfl, by decide, rfl, by decide +kernel, rfl⟩

theorem witness_RegistersAndLatch_fqhead : ∃ (s1 s2 : State) (d : Nat) (v : W32), d < 4 ∧ (s1.die d).fqtail.toNat < 2 ^ 31 ∧
    v.toNat ≤ (s1.die d).fqtail.toNat ∧ (s2.die d).fqtail.toNat < v.toNat ∧ v.toNat ≤ (s2.die d).fqtail.toNat + 2 ^ 31 :=
  ⟨{ evt [] grp0 team0 with dies := (Vector.replicate 4 Die.reset).setIfInBounds 0 { Die.reset with fqtail := 5 } }, evt [] grp0 team0, 0, 4, by decide,
    by decide +kernel⟩

theorem witness_RegistersAndLatch_dbgctl : ∃ (v : W64) (s : State), v.getLsbD 1 = false ∧ v.getLsbD 2 = false ∧ v.getLsbD 3 = false ∧ v.getLsbD 4 = false ∧
    s.phase = 5 :=
  ⟨1, { evt [] grp0 team0 with phase := 5 }, by decide, by decide, by decide, by decide, rfl⟩

/-- A sample of 110 degrees, one of 100 degrees, one of 50 degrees. -/
def w110 : W32 := 0x80000370
def w100 : W32 := 0x80000320
def w50 : W32 := 0x80000190

theorem cool_of (a b : W32) (p : W32 → Prop) (ha : p a) (hb : p b) : ∀ y, y ∈ [a, b] → p y := by
  intro y hy
  simp only [List.mem_cons, List.not_mem_nil, or_false] at hy
  rcases hy with rfl | rfl
  · exact ha
  · exact hb

theorem witness_Power_slower : ∃ (s : State) (xs : List W32) (x : W32), x ∈ xs ∧ warm (s.alder.pendTstep.getD s.alder.tstep) x ∧
    (∀ y, y ∈ xs → y.getLsbD 31 = true ∧ ¬ warm 880 y) ∧ s.alder.trips = [] ∧ s.alder.fastest.toNat ≤ s.step.toNat ∧ s.step.toNat < 3 :=
  ⟨{ evt [] grp0 team0 with step := 1, alder := { State.reset.alder with fastest := 0 } }, [w50, w100], w100, by simp,
    by unfold warm; decide +kernel, cool_of w50 w100 _ (by unfold warm; decide +kernel) (by unfold warm; decide +kernel), rfl, by decide, by decide⟩

theorem witness_Power_quiet (good : Nat) (f st : BitVec 2) : ∃ (s : State) (xs : List W32), s.cores = [] ∧ s.alder.trips = [] ∧
    (∀ y, y ∈ xs → y.getLsbD 31 = true ∧ ¬ warm 880 y ∧ ¬ warm (s.alder.pendTstep.getD s.alder.tstep) y) ∧ s.alder.good = good ∧
    s.alder.fastest = f ∧ s.step = st :=
  ⟨{ State.reset with step := st, alder := { State.reset.alder with fastest := f, good := good } }, [w50, w50], rfl, rfl,
    cool_of w50 w50 (fun y => y.getLsbD 31 = true ∧ ¬ warm 880 y ∧ ¬ warm 800 y) (by unfold warm; decide +kernel) (by unfold warm; decide +kernel), rfl, rfl, rfl⟩

theorem witness_Power_budget : ∃ s u : State, s.alder.pendEbud.getD s.alder.ebud < s.alder.e ∧ u.alder.e * 4 < u.alder.pendEbud.getD u.alder.ebud * 3 :=
  ⟨{ State.reset with alder := { State.reset.alder with e := 2 ^ 32 } }, State.reset, by decide, by decide⟩

theorem witness_Power_trip : ∃ (s : State) (xs : List W32), (∃ x, x ∈ xs ∧ warm 880 x) ∧
    (∃ k x, xs[k]? = some x ∧ x.getLsbD 31 = false ∧ kget s.alder.trips k = some 1) :=
  ⟨{ State.reset with alder := { State.reset.alder with trips := [(1, 1)] } }, [w110, 0], ⟨w110, by decide, by unfold warm; decide⟩, 1, 0, rfl, by decide,
    by decide⟩

theorem witness_Power_step : ∃ (s u : State) (a w n d m : Nat), s.reqAt = some a ∧ s.ptime % 24000 = 0 ∧ a + 48000 ≤ s.ptime ∧ s.reduced = false ∧
    u.reqAt = some a ∧ u.ptime % 24000 ≠ 0 ∧ u.ccount < u.stretchHold ∧ s.stretchHold ≤ s.ccount ∧ u.args = [w, n] ∧ s.args = [d, m] :=
  ⟨{ evt [0, 2] grp0 team0 with reqAt := some 0, ptime := 48000 }, { evt [1, 3] grp0 team0 with reqAt := some 0, ptime := 5, stretchHold := 9 }, 0, 1, 3, 0, 2,
    rfl, by decide, by decide, rfl, rfl, by decide, by decide, by decide, rfl, rfl⟩

theorem witness_Power_error : ∃ (s : State) (q core a : Nat) (m : Team), s.team? q = some m ∧ m.core = core ∧ m.spBase ≤ a ∧ a < m.spBase + m.spSize :=
  ⟨evt [] grp0 team0, 0, 0, 64, team0, by decide +kernel⟩

theorem witness_BootAndFreeze_refused : ∃ (s : State) (image : List Byte) (k : Nat), s.phase = 1 ∧ s.bootErr = 0 ∧ s.bootNext = k + 1 ∧ k < 4 ∧
    image.length < 2048 ∧ s.imageErr image ≠ 0 :=
  ⟨sBoot, [1], 1, rfl, rfl, rfl, by decide, by decide, by decide +kernel⟩

theorem witness_BootAndFreeze_good : ∃ (s : State) (image : List Byte) (k : Nat), s.phase = 1 ∧ s.bootErr = 0 ∧ s.bootNext = k + 1 ∧ k < 4 ∧
    s.imageErr image = 0 :=
  ⟨sBoot, bootImg, 1, rfl, rfl, rfl, by decide, test_boot_image_good⟩

theorem witness_BootAndFreeze_phase (p : BitVec 4) (e d : Nat) : ∃ s : State, s.args = [e, d] ∧ s.phase = p ∧ swf (w := 8) s.mem = true ∧ s.alder.ctxs = [] :=
  ⟨{ State.reset with phase := p, args := [e, d] }, rfl, rfl, by rfl, rfl⟩

theorem witness_BootAndFreeze_freeze : ∃ (s u v : State) (p : Peat), s.frozen = false ∧ u.frozen = true ∧ u.scanning = false ∧ u.peat = some p ∧
    v.frozen = true ∧ v.scanning = true :=
  ⟨evt [] grp0 team0, { evt [] grp0 team0 with frozen := true, peat := some ⟨0, 0, 3, none, 0, 0, [], Domain.reset⟩ },
    { evt [] grp0 team0 with frozen := true, scanning := true }, ⟨0, 0, 3, none, 0, 0, [], Domain.reset⟩, rfl, rfl, rfl, rfl, rfl, rfl⟩

/-- A die that traces, its ring of 16 blocks in host memory; TRSEL0 selects TRCTL value 0. -/
def trD : Die := { Die.reset with trctl := 0x104, trbase := 0x4000000010000, trsel := #v[0x8000000000000000, 0, 0] }
/-- A state with it and a trace buffer of core 0. -/
def withTrace (d : Die) (r : Option Group) (tr : Trace) : State :=
  { evt [0] grp0 team0 with
    groups := (r.map fun r => (0, r)).toList, dies := (Vector.replicate 4 Die.reset).setIfInBounds 0 d, cores := [(0, { core0 with trace := tr })] }

theorem witness_TraceUnit_off : ∃ (s : State) (core : Nat), s.args = [core] ∧ (s.trDie core).traceOn = false ∧ (s.core core).trace.dropping = false ∧
    (s.core core).trace.blockDue s.ccount = false :=
  ⟨withTrace Die.reset none Trace.empty, 0, rfl, by decide +kernel⟩

theorem witness_TraceUnit_select : ∃ (s : State) (core g : Nat) (r : Group), s.args = [core] ∧ (s.trDie core).traceOn = true ∧ s.groups = [(core * 32 + g, r)] ∧
    g < 32 ∧ s.selects (s.trDie core) r = true ∧ (s.core core).trace.dropping = false :=
  ⟨withTrace trD (some grp0) Trace.empty, 0, 0, grp0, rfl, by decide +kernel, rfl, by decide, by decide +kernel⟩

theorem witness_TraceUnit_dropping : ∃ (s : State) (core : Nat), s.args = [core] ∧ (s.trDie core).traceOn = true ∧ s.groups = [] ∧
    (s.core core).trace.dropping = true ∧ (s.core core).trace.buf.length + 64 ≤ 2048 ∧ (s.core core).trace.sel = none ∧
    s.grp? (core * 32 + (s.core core).trace.samples % 32) = none :=
  ⟨withTrace trD none { Trace.empty with dropping := true, dropP := 2, dropB := 9 }, 0, rfl, by decide +kernel, rfl, by decide +kernel⟩

theorem witness_TraceUnit_stall : ∃ (s u : State) (core : Nat) (r : Group) (p : Park),
    (s.args = [core] ∧ (s.trDie core).traceOn = true ∧ s.grp? (core * 32 + (s.core core).trace.samples % 32) = some r ∧ s.agenda = [] ∧
      r.parked = some p ∧ r.scalarParked = true) ∧
    (u.args = [core] ∧ (u.trDie core).traceOn = true ∧ u.grp? (core * 32 + (u.core core).trace.samples % 32) = some r ∧
      Item.scalar (core * 32) ∈ u.agenda ∧ Item.lane (core * 32) ∈ u.agenda) :=
  let r := { grp0 with parked := some .watch }
  ⟨withTrace trD (some r) Trace.empty, { withTrace trD (some r) Trace.empty with agenda := [.scalar 0, .lane 0] }, 0, r, .watch,
    by decide +kernel⟩

theorem witness_TraceUnit_block : ∃ (s : State) (core a : Nat), s.args = [core] ∧ (s.core core).trace.blockDue s.ccount = true ∧
    (s.trDie core).ringRoom = true ∧ dieOf core < 4 ∧ s.transmits 0 ∧
    a = ((s.trDie core).trbase.extractLsb' 8 44).toNat * 256 +
      (s.trDie core).trtail.toNat % (2 ^ ((s.trDie core).trctl.extractLsb' 0 5).toNat * 256) ∧ paClass a = 1 :=
  ⟨withTrace trD none { Trace.empty with buf := List.replicate 260 1 }, 0, 0x4000000010000, rfl, by decide +kernel, by decide +kernel, by decide,
    transmits_of _ _ (by decide +kernel), by decide +kernel⟩

/-- The state behind the fetch of n words from an address on. -/
def fetched (va : W64) : Nat → State → State
  | 0, s => s
  | n + 1, s => fetched (va + 4) n (s.checkVa 0 0 va .exec false).2

/-- Reset with an instruction placed, and its unit taken from the agenda. -/
def placed (nbits w : Nat) (c : Cur) : State := { State.reset.withFetchWord nbits w with agenda := [], args := [], cur := c, bpSkip := [] }

theorem codeAt_of (s : State) (core pa : Nat) (w : W32)
    (h : ((match kget (s.core core).icache (pa / 256) with
      | some l => l.valid.getLsbD (pa % 256 / 64) && decide (s.ptime < l.exp.getD (pa % 256 / 64) 0) && decide (bytesW 32 (sgetL l.data (pa % 256) 4) = w) &&
        (l.poisonIn pa 4).isNone
      | none => false) && (paClass pa != 0 || isRegBlock (paLow pa) == false)) = true) : s.codeAt core pa w := by
  revert h
  cases hk : kget (s.core core).icache (pa / 256) with
  | none => simp
  | some l =>
    intro h
    simp only [Bool.and_eq_true, decide_eq_true_eq, Option.isNone_iff_eq_none, Bool.or_eq_true, bne_iff_ne, beq_iff_eq] at h
    obtain ⟨⟨⟨⟨h1, h2⟩, h3⟩, h4⟩, h5⟩ := h
    refine ⟨l, hk, h1, h2, h3, h4, fun hc => ?_⟩
    rcases h5 with h5 | h5
    · exact h5 hc.1
    · rw [hc.2] at h5; exact absurd h5 (by decide)

theorem witness_StepRunsDecoded_scalar : ∃ (s s' t : State) (pc : W64) (w : W32) (i : Instr) (x : Item) (r : List Item),
    (∀ e, e ∈ s.timed → s.ccount < e.due) ∧ s.agenda = x :: r ∧ x = .scalar 0 ∧ s' = { s with agenda := r, args := [], cur := .scalar 0 } ∧
    s'.mayIssue s'.cur = true ∧ s'.unitPc = some (.scalar, 0, 0, 512, pc) ∧ canonical pc = true ∧ pc.toNat % 4 = 0 ∧
    s'.codeWords 0 0 pc [w] t ∧ wordsFrom .scalar w = 1 ∧ decodeIn .scalar [w] = .ok i ∧ t.bpSkip.contains t.cur = false ∧ t.breakAt i = none :=
  let s' := placed 32 0x0238A300 (.scalar 0)
  ⟨{ State.reset.withFetchWord 32 0x0238A300 with bpSkip := [] }, s', fetched 0x10000 1 s', 0x10000, 0x0238A300, .sadd 7 5 6, .scalar 0, [], fun e h => (nomatch (show e ∈ ([] : List Timed) from h)), rfl, rfl, rfl,
    by decide +kernel, by decide +kernel, by decide +kernel, by decide +kernel,
    ⟨fetchLeaf, 0x100000, _, fst_eq (by decide +kernel), codeAt_of _ _ _ _ (by decide +kernel), rfl⟩, by decide +kernel⟩

theorem witness_StepRunsDecoded_lane : ∃ (s s' t : State) (pc : W64) (w : W32) (ws : List W32) (i : Instr) (x : Item) (r : List Item),
    (∀ e, e ∈ s.timed → s.ccount < e.due) ∧ s.agenda = x :: r ∧ x = .lane 0 ∧ s' = { s with agenda := r, args := [], cur := .lane 0 } ∧
    s'.mayIssue s'.cur = true ∧ s'.unitPc = some (.lane, 0, 0, 512, pc) ∧ canonical pc = true ∧ pc.toNat % 4 = 0 ∧
    s'.codeWords 0 0 pc (w :: ws) t ∧ wordsFrom .lane w = ws.length + 1 ∧ decodeIn .lane (w :: ws) = .ok i ∧ t.bpSkip.contains t.cur = false ∧ t.breakAt i = none :=
  let s' := placed 96 0x0000000000100800A0A90000 (.lane 0)
  ⟨{ State.reset.withFetchWord 96 0x0000000000100800A0A90000 with bpSkip := [] }, s', fetched 0x10000 3 s', 0x10000, 0xA0A90000, [0x00100800, 0], .knot 1 2, .lane 0, [],
    fun e h => (nomatch (show e ∈ ([] : List Timed) from h)), rfl, rfl, rfl, by decide +kernel, by decide +kernel, by decide +kernel, by decide +kernel,
    ⟨fetchLeaf, 0x100000, _, fst_eq (by decide +kernel), codeAt_of _ _ _ _ (by decide +kernel),
      fetchLeaf, 0x100004, _, fst_eq (by decide +kernel), codeAt_of _ _ _ _ (by decide +kernel),
      fetchLeaf, 0x100008, _, fst_eq (by decide +kernel), codeAt_of _ _ _ _ (by decide +kernel), rfl⟩, by decide +kernel⟩

theorem witness_StepRunsDecoded_team : ∃ (s s' t : State) (pc : W64) (w : W32) (ws : List W32) (i : Instr) (x : Item) (r : List Item),
    (∀ e, e ∈ s.timed → s.ccount < e.due) ∧ s.agenda = x :: r ∧ x = .seq 0 ∧ s' = { s with agenda := r, args := [], cur := .seq 0 } ∧
    s'.mayIssue s'.cur = true ∧ s'.unitPc = some (.team, 0, 0, 512, pc) ∧ canonical pc = true ∧ pc.toNat % 8 = 0 ∧
    s'.codeWords 0 0 pc (w :: ws) t ∧ wordsFrom .team w = ws.length + 1 ∧ decodeIn .team (w :: ws) = .ok i ∧ t.bpSkip.contains t.cur = false ∧ t.breakAt i = none :=
  let s' := placed 64 0x20480000FFFFFFF0 (.seq 0)
  ⟨{ State.reset.withFetchWord 64 0x20480000FFFFFFF0 with bpSkip := [] }, s', fetched 0x10000 2 s', 0x10000, 0xFFFFFFF0, [0x20480000], .wli 9 0xFFFFFFF0, .seq 0, [],
    fun e h => (nomatch (show e ∈ ([] : List Timed) from h)), rfl, rfl, rfl, by decide +kernel, by decide +kernel, by decide +kernel, by decide +kernel,
    ⟨fetchLeaf, 0x100000, _, fst_eq (by decide +kernel), codeAt_of _ _ _ _ (by decide +kernel),
      fetchLeaf, 0x100004, _, fst_eq (by decide +kernel), codeAt_of _ _ _ _ (by decide +kernel), rfl⟩, by decide +kernel⟩

/-- At an SBRK, and at a SADD, whose breakpoint the stream has gone through. -/
theorem witness_StepRunsDecoded_resumed (w : W32) (i : Instr) (h : (w, i) = (0xC6000003, .sbrk 3) ∨ (w, i) = (0x0238A300, .sadd 7 5 6)) :
    ∃ (s s' t : State) (pc : W64) (x : Item) (r : List Item),
    (∀ e, e ∈ s.timed → s.ccount < e.due) ∧ s.agenda = x :: r ∧ x = .scalar 0 ∧ s' = { s with agenda := r, args := [], cur := .scalar 0 } ∧
    s'.mayIssue s'.cur = true ∧ s'.unitPc = some (.scalar, 0, 0, 512, pc) ∧ canonical pc = true ∧ pc.toNat % 4 = 0 ∧
    s'.codeWords 0 0 pc [w] t ∧ wordsFrom .scalar w = 1 ∧ decodeIn .scalar [w] = .ok i ∧ t.bpSkip.contains t.cur = true ∧
    isBreak i = (w == 0xC6000003) := by
  rcases h with h | h <;> cases h
  · let p : State := { placed 32 0xC6000003 (.scalar 0) with bpSkip := [.scalar 0] }
    exact ⟨{ p with agenda := [.scalar 0] }, p, fetched 0x10000 1 p, 0x10000, .scalar 0, [], fun e h => (nomatch (show e ∈ ([] : List Timed) from h)),
      rfl, rfl, rfl, by decide +kernel, by decide +kernel, by decide +kernel, by decide +kernel,
      ⟨fetchLeaf, 0x100000, _, fst_eq (by decide +kernel), codeAt_of _ _ _ _ (by decide +kernel), rfl⟩, by decide +kernel⟩
  · let p : State := { placed 32 0x0238A300 (.scalar 0) with bpSkip := [.scalar 0] }
    exact ⟨{ p with agenda := [.scalar 0] }, p, fetched 0x10000 1 p, 0x10000, .scalar 0, [], fun e h => (nomatch (show e ∈ ([] : List Timed) from h)),
      rfl, rfl, rfl, by decide +kernel, by decide +kernel, by decide +kernel, by decide +kernel,
      ⟨fetchLeaf, 0x100000, _, fst_eq (by decide +kernel), codeAt_of _ _ _ _ (by decide +kernel), rfl⟩, by decide +kernel⟩

theorem witness_StepRunsDecoded_event : ∃ (s u v : State) (e : Timed) (r : List Timed) (i : Instr) (args : List Nat) (l : List Item) (g : Nat) (x : TrapRec),
    (s.timed = e :: r ∧ e.due ≤ s.ccount ∧ s.gated = false ∧ (eventBound s.agenda).all (fun b => decide (e.rank < b)) = true) ∧
    ((∀ e, e ∈ u.timed → u.ccount < e.due) ∧ u.agenda = .run i args :: l) ∧ ((∀ e, e ∈ v.timed → v.ccount < e.due) ∧ v.agenda = .trap g x :: l) :=
  ⟨{ State.reset with timed := [⟨0, 0, .drain, [0], none⟩] }, { State.reset with agenda := [.run .placementPass []] },
    { State.reset with agenda := [.trap 0 ⟨6, 0, 0x10, false, false, false, false, none⟩] }, ⟨0, 0, .drain, [0], none⟩, [], .placementPass, [], [], 0,
    ⟨6, 0, 0x10, false, false, false, false, none⟩, by decide +kernel, ⟨fun e h => absurd h (by simp [State.reset, Domain.reset]), rfl⟩,
    fun e h => absurd h (by simp [State.reset, Domain.reset]), rfl⟩

theorem witness_ScalarRoundTrip : ∃ i : Instr, i.wf = true ∧ (encode i).length = 1 ∧ (∀ d a b, i ≠ .fcfgDelete d a b) ∧
    (∀ d a b, i ≠ .fcfgReadCounters d a b) := ⟨.sadd 7 5 6, by decide, by decide, fun _ _ _ h => (nomatch h), fun _ _ _ h => (nomatch h)⟩
theorem witness_LaneRoundTrip : ∃ i : Instr, i.wf = true ∧ 2 < (encode i).length :=
  ⟨.vfadd (lf2 .f32 (.reg 6) (some 3) true 2 none), by decide, by decide +kernel⟩
theorem witness_TeamRoundTrip : ∃ i : Instr, i.wf = true ∧ (encode i).length = 2 := ⟨.mma 2 4 6 8 1, by decide, by decide +kernel⟩
theorem witness_StepKeepsMemoryCanonical : ∃ s t : State, s.memOk ∧ step s = .next t :=
  ⟨State.reset, _, by unfold State.memOk; decide, rfl⟩

/-! ## Single steps from reset with an instruction placed -/

/-- R157: the step runs the placed SADDI: s7 = 0 + 0x1FF8 sign-extended. -/
theorem test_step_saddi : (match step (State.reset.withFetchWord 32 0x30381FF8) with
    | .next t => (t.grp? 0).map fun r => (r.sread 7, r.spc)
    | _ => none) = some (0xFFFFFFFFFFFFFFF8, 0x10004) := by decide +kernel

/-- R34, R250: the step runs the placed WLI. -/
theorem test_step_wli : (match step (State.reset.withFetchWord 64 0x20480000FFFFFFF0) with
    | .next t => (t.team? 0).map fun m => (m.wread 9, m.tpc)
    | _ => none) = some (0xFFFFFFFFFFFFFFF0, 0x10008) := by decide +kernel

/-- R194: the step runs the placed KNOT: k1 = complement of k2 in the active lanes. -/
theorem test_step_knot : (match step (State.reset.withFetchWord 96 0x0000000000100800A0A90000) with
    | .next t => (t.grp? 0).map fun r => (r.k.getD 1 0, r.lpc)
    | _ => none) = some (0xFFFFFFFFFFFFFFFFFFFFFFFF, 0x1000C) := by decide +kernel

/-- R95, R376, R386: opcode 0x7F is unassigned: ILLEGAL (6) with subcode 0x10, which escalates in a context without a trap table. -/
theorem test_step_unassigned : (match step (State.reset.withFetchWord 32 0xFFFFFFFF) with
    | .next t => (t.grp? 0).map fun r => (r.stop, r.trapcause, r.trapinfo, r.spc)
    | _ => none) = some (.escalated, 6, 0x10, 0x10000) := by decide +kernel

end Sys2Proof.Tests
end

section
/-! SUPPORT. Reads after writes of several bytes, byte strings and numbers (R11), and the named updates of the team records. -/
namespace Sys2Proof.Machine

/-! ## Bytes and numbers (R11) -/

@[simp] theorem length_natBytes (n : Nat) : ∀ x, (natBytes n x).length = n := by
  induction n with
  | zero => exact fun _ => rfl
  | succ n ih => exact fun x => by simp [natBytes, ih]

@[simp] theorem length_wBytes {w : Nat} (n : Nat) (x : BitVec w) : (wBytes n x).length = n := length_natBytes n x.toNat

theorem bytesNat_natBytes (n : Nat) : ∀ x, bytesNat (natBytes n x) = x % 256 ^ n := by
  induction n with
  | zero => exact fun x => by simp [natBytes, bytesNat, Nat.mod_one]
  | succ n ih =>
    intro x
    rw [natBytes, bytesNat, ih, BitVec.toNat_ofNat, pow_succ' 256 n, Nat.mod_mul (a := 256)]

/-- The 8 bytes of a 64-bit word spell it. -/
theorem bytesNat_wBytes (v : W64) : bytesNat (wBytes 8 v) = v.toNat := by
  rw [wBytes, bytesNat_natBytes]; exact Nat.mod_eq_of_lt v.isLt

theorem bytesNat_lt (l : List Byte) : bytesNat l < 256 ^ l.length := by
  induction l with
  | nil => simp [bytesNat]
  | cons b r ih =>
    have := b.isLt
    simp only [bytesNat, List.length_cons, pow_succ]
    omega

theorem fieldN_lt (bs : List Byte) (i n : Nat) : fieldN bs i n < 256 ^ n :=
  (bytesNat_lt _).trans_le (Nat.pow_le_pow_right (by decide) (List.length_take_le n _))

/-! ## Consecutive words of a sparse map -/

theorem foldl_sset_mapIdx {w : Nat} (l : List (BitVec w)) : ∀ (m : SMap w) (o : Nat),
    (l.mapIdx fun i b => (o + i, b)).foldl (fun m p => sset m p.1 p.2) m = ssetL m o l := by
  induction l with
  | nil => exact fun _ _ => rfl
  | cons b r ih =>
    intro m o
    rw [ssetL, ← ih, List.mapIdx_cons, List.foldl_cons]
    simp only [Nat.add_zero, Nat.add_assoc, Nat.add_comm 1]

theorem sget_ssetL_ne {w : Nat} (l : List (BitVec w)) {k : Nat} : ∀ {m : SMap w} {o : Nat}, swf m = true → k < o ∨ o + l.length ≤ k →
    sget (ssetL m o l) k = sget m k := by
  induction l with
  | nil => exact fun _ _ => rfl
  | cons b r ih =>
    intro m o hm hk
    rw [List.length_cons] at hk
    rw [ssetL, ih (swf_sset o b hm) (by omega), sget_sset_ne b hm (by omega)]

theorem sgetL_ssetL {w : Nat} (l : List (BitVec w)) : ∀ {m : SMap w} (o : Nat), swf m = true → sgetL (ssetL m o l) o l.length = l := by
  induction l with
  | nil => exact fun _ _ => rfl
  | cons b r ih =>
    intro m o hm
    have hm1 := swf_sset o b hm
    rw [ssetL, List.length_cons, sgetL, ih (o + 1) hm1, sget_ssetL_ne r hm1 (.inl (Nat.lt_succ_self o)), sget_sset_same o b hm]

/-- What every step of a fold leaves alone, the fold leaves alone. -/
theorem foldl_keeps {α β σ : Type} (p : σ → β) {f : σ → α → σ} (hf : ∀ s a, p (f s a) = p s) (l : List α) : ∀ s, p (l.foldl f s) = p s := by
  induction l with
  | nil => exact fun _ => rfl
  | cons a r ih => exact fun s => (ih (f s a)).trans (hf s a)

/-! ## Team records -/

@[simp] theorem team?_setTeam (s : State) (q : Nat) (m : Team) : (s.setTeam q m).team? q = some m := kget_kset_same s.teams q m

theorem team?_setTeam_ne (s : State) {q h : Nat} (m : Team) (hne : h ≠ q) : (s.setTeam q m).team? h = s.team? h := kget_kset_ne s.teams m hne

@[simp] theorem team?_modTeam (s : State) (q : Nat) (f : Team → Team) : (s.modTeam q f).team? q = (s.team? q).map f := kget_kmod_same s.teams q f

theorem team?_modTeam_ne (s : State) {q h : Nat} (f : Team → Team) (hne : h ≠ q) : (s.modTeam q f).team? h = s.team? h :=
  kget_kmod_ne s.teams f hne

@[simp] theorem team?_sched (s : State) (n : Nat) (i : Instr) (l : List Nat) (q : Nat) : (s.sched n i l).team? q = s.team? q := rfl
@[simp] theorem team?_issued (s : State) (q : Nat) : s.issued.team? q = s.team? q := rfl

/-! ## The issue of a team instruction (R245, R251) -/

@[simp] theorem seqIssued_mem (s : State) (q : Nat) (pc : W64) : (s.seqIssued q pc).mem = s.mem := rfl

theorem team?_seqIssued {s : State} {q : Nat} {m : Team} (pc : W64) (h : s.team? q = some m) :
    (s.seqIssued q pc).team? q = some (m.goesOn pc s.ccount) := by
  simp [State.seqIssued, h, Team.goesOn]

/-- An instruction that has changed nothing but its team's record goes on. -/
theorem onlyTeam_seqIssued (s : State) (q : Nat) (m : Team) (pc : W64) :
    onlyTeam s ((s.setTeam q m).seqIssued q pc) q (m.goesOn pc s.ccount) :=
  ⟨rfl, team?_seqIssued pc (team?_setTeam s q m),
    fun _ hne => by rw [State.seqIssued, team?_issued, team?_modTeam_ne _ _ hne, team?_setTeam_ne s m hne]⟩

/-- A team instruction that ends behind itself. -/
theorem seqOp_done {regs : List (BitVec 5)} {s s1 : State} {q : Nat} {m : Team} {k : Nat → Team → State → TRes} (h : seqTurn regs s q m)
    (hk : k q m s = .done s1) : seqOp regs s k = .next (s1.seqIssued q (m.tpc + 8)) := by
  rw [seqOp_go k h, hk]; rfl

/-- A team instruction that has issued and stays where it is. -/
theorem seqOp_part {regs : List (BitVec 5)} {s s1 : State} {q : Nat} {m : Team} {k : Nat → Team → State → TRes} (h : seqTurn regs s q m)
    (hk : k q m s = .part s1) : seqOp regs s k = .next s1.issued := by
  rw [seqOp_go k h, hk]; rfl

end Sys2Proof.Machine
end

section
/-! SUPPORT. The scratchpad and the barrier words (R41 to R46) under a plain store and under an update that completes no phase. -/
namespace Sys2Proof.Machine

/-! ## Plain stores away from the barrier words (R342) -/

/-- A store away from the barrier words updates none of them: of the teams it changes only the bytes and the poison of its own. -/
theorem spPut_plain {s : State} {q : Nat} {m : Team} {l : List (Nat × Byte)} (who : Option Nat) (hm : s.team? q = some m)
    (hl : ∀ p ∈ l, 256 ≤ p.1) :
    (s.spPut q l who).team? q = some { m with
      sp := l.foldl (fun sp p => sset sp p.1 p.2) m.sp
      poison := m.poison.filter fun p => !(List.range 8).all fun i => l.any (·.1 == p + i) } ∧
    (s.spPut q l who).mem = s.mem := by
  have hw : ((List.range 16).filter fun k => l.any fun p => p.1 / 16 == k) = [] := by
    rw [List.filter_eq_nil_iff]
    intro k hk hany
    obtain ⟨p, hp, hpk⟩ := List.any_eq_true.1 hany
    have h1 := hl p hp
    have h2 := List.mem_range.1 hk
    have h3 : p.1 / 16 = k := by simpa using hpk
    omega
  unfold State.spPut
  simp only [hw, hm, List.foldl_nil, Option.map_some, Option.getD_some, team?_modTeam, State.modTeam_mem]
  constructor
  · rw [foldl_keeps (fun s : State => s.team? q) (fun s g => by (repeat' split) <;> rfl), hm, Option.map_some]
  · exact foldl_keeps (fun s : State => s.mem) (fun s g => by (repeat' split) <;> rfl) m.members s

theorem spStore_plain {s : State} {q o : Nat} {m : Team} (bs : List Byte) (hm : s.team? q = some m) (ho : 256 ≤ o) :
    ∃ poison, (s.spStore q o bs).team? q = some { m with sp := ssetL m.sp o bs, poison := poison } ∧ (s.spStore q o bs).mem = s.mem := by
  have hl : ∀ p ∈ bs.mapIdx (fun i b => (o + i, b)), 256 ≤ p.1 := by
    intro p hp
    obtain ⟨i, _, rfl⟩ := List.mem_mapIdx.1 hp
    exact ho.trans (Nat.le_add_right o i)
  rw [← foldl_sset_mapIdx]
  exact ⟨_, spPut_plain none hm hl⟩

/-! ## Barrier words (R42) -/

/-- The fields of a barrier word stand within their bits (R42). -/
structure BarW.Fits (w : BarW) : Prop where
  pend : w.pend < 256 ^ 4
  btarg : w.btarg < 256 ^ 4
  arrived : w.arrived < 256
  expect : w.expect < 256
  scope : w.scope < 4
  errcode : w.errcode < 256
  phase : w.phase < 256 ^ 4

theorem barOf_fits (bs : List Byte) : (barOf bs).Fits where
  pend := fieldN_lt bs 0 4
  btarg := fieldN_lt bs 4 4
  arrived := fieldN_lt bs 8 1
  expect := fieldN_lt bs 9 1
  scope := Nat.mod_lt _ (by decide)
  errcode := fieldN_lt bs 11 1
  phase := fieldN_lt bs 12 4

theorem BarW.arrive_eq {w : BarW} (herr : w.err = false) (h : w.arrived < 255) : w.arrive = { w with arrived := w.arrived + 1 } := by
  rw [BarW.arrive, herr, if_neg Bool.false_ne_true, Nat.min_eq_right h, ← herr]

theorem BarW.Fits.arrive {w : BarW} (h : w.Fits) : w.arrive.Fits := by
  unfold BarW.arrive
  split
  · exact h
  · exact { h with arrived := Nat.lt_succ_of_le (Nat.min_le_left ..) }

/-- A field behind an earlier one. -/
theorem fieldN_natBytes_skip {n i : Nat} (x : Nat) (r : List Byte) (k : Nat) (h : n ≤ i) :
    fieldN (natBytes n x ++ r) i k = fieldN r (i - n) k := by
  rw [fieldN, List.drop_append, length_natBytes, List.drop_eq_nil_of_le (by rwa [length_natBytes]), List.nil_append, fieldN]

/-- The first field of a string of them. -/
theorem fieldN_natBytes_head (n x : Nat) (r : List Byte) : fieldN (natBytes n x ++ r) 0 n = x % 256 ^ n := by
  rw [fieldN, List.drop_zero, List.take_append, length_natBytes, Nat.sub_self, List.take_zero, List.append_nil,
    List.take_of_length_le (length_natBytes n x).le, bytesNat_natBytes]

theorem fieldN_natBytes (n x : Nat) : fieldN (natBytes n x) 0 n = x % 256 ^ n := by
  rw [← List.append_nil (natBytes n x), fieldN_natBytes_head]

/-- A word is read back from its bytes. -/
theorem barOf_bytes {w : BarW} (h : w.Fits) : barOf w.bytes = w := by
  obtain ⟨pend, btarg, arrived, expect, scope, err, armed, errcode, phase⟩ := w
  obtain ⟨hpend, hbtarg, harrived, hexpect, hscope, herrcode, hphase⟩ := h
  replace hscope : scope < 4 := hscope
  have hflags : scope + (if err then 4 else 0) + (if armed then 8 else 0) < 256 := by split <;> split <;> omega
  simp only [barOf, BarW.bytes, List.append_assoc, fieldN_natBytes_skip, fieldN_natBytes_head, fieldN_natBytes, Nat.reduceLeDiff,
    Nat.reduceSub, Nat.le_refl, Nat.sub_self, Nat.pow_one, Nat.mod_eq_of_lt, hflags, hpend, hbtarg, harrived, hexpect, herrcode, hphase]
  cases err <;> cases armed <;> simp <;> omega

theorem length_bar_bytes (w : BarW) : w.bytes.length = 16 := by simp [BarW.bytes]

theorem bar_setBar {m : Team} {n : BitVec 4} {w : BarW} (hw : w.Fits) (hm : swf m.sp = true) : (m.setBar n w).bar n = w := by
  have hr := sgetL_ssetL w.bytes (16 * n.toNat) hm
  rw [length_bar_bytes] at hr
  rw [Team.bar, Team.spGet, Team.setBar, Team.spSet, hr, barOf_bytes hw]

/-- An update after which the phase is not complete changes the word and nothing else (R44). -/
theorem barUpdate_counts {s : State} {q : Nat} {m : Team} {n : BitVec 4} {f : BarW → BarW} (hm : s.team? q = some m)
    (hc : (f (m.bar n)).completes = false) : s.barUpdate q n f = s.modTeam q fun x => x.setBar n (f (m.bar n)) := by
  simp only [State.barUpdate, hm, hc, Bool.false_eq_true, if_false]

/-- The record of a sequencer's arrival at a phase (R248). -/
def Team.notes (m : Team) (n : BitVec 4) (phase : Nat) : Team := { m with arr := kset m.arr n.toNat (BitVec.ofNat 32 phase) }

/-- The arrival of a sequencer at its own armed word, where it completes no phase: the record of the phase, and one more arrival. -/
theorem seqArrive_counts {s : State} {q : Nat} {m : Team} {n : BitVec 4} (hm : s.team? q = some m) (harm : (m.bar n).armed = true)
    (hf : m.forwards q n = false) (hc : (m.bar n).arrive.completes = false) :
    ∃ s1, s.seqArrive q n = some s1 ∧ s1.team? q = some ((m.notes n (m.bar n).phase).setBar n (m.bar n).arrive) ∧
      s1.mem = s.mem ∧ s1.groups = s.groups := by
  have hm1 : (s.modTeam q fun x => x.notes n (m.bar n).phase).team? q = some (m.notes n (m.bar n).phase) := by
    rw [team?_modTeam, hm, Option.map_some]
  have hu : (s.modTeam q fun x => x.notes n (m.bar n).phase).barUpdate q n (·.arrive) =
      (s.modTeam q fun x => x.notes n (m.bar n).phase).modTeam q fun x => x.setBar n (m.bar n).arrive :=
    barUpdate_counts (m := m.notes n (m.bar n).phase) hm1 hc
  refine ⟨(s.modTeam q fun x => x.notes n (m.bar n).phase).modTeam q fun x => x.setBar n (m.bar n).arrive, ?_, ?_, rfl, rfl⟩
  · simp only [State.seqArrive, hm, harm, hf, Bool.not_true, Bool.false_eq_true, if_false]
    exact congrArg some hu
  · rw [team?_modTeam, hm1]; rfl

end Sys2Proof.Machine
end

section
/-! The result registers, scratchpad accesses, barriers and the end of a team stream: `Obligations.TeamResultsAndBarriers`. -/
namespace Sys2Proof.Machine

/-! ## The arms of the instructions -/

theorem exec_wmul (d a b : BitVec 5) (s : State) : exec (.wmul d a b) s = execWmul d a b s := rfl
theorem exec_wldsp (d a : BitVec 5) (imm : W32) (s : State) : exec (.wldsp d a imm) s = execWldsp d a imm s := rfl
theorem exec_wstsp (b a : BitVec 5) (imm : W32) (s : State) : exec (.wstsp b a imm) s = execWstsp b a imm s := rfl
theorem exec_wResultWrite (s : State) : exec .wResultWrite s = execWResultWrite s := rfl
theorem exec_tbara (n : BitVec 4) (sc : Scope) (s : State) : exec (.tbara n sc) s = execTbara n sc s := rfl
theorem exec_tbarw (n : BitVec 4) (sc : Scope) (s : State) : exec (.tbarw n sc) s = execTbarw n sc s := rfl
theorem exec_texit (s : State) : exec .texit s = execTexit s := rfl

/-! ## Late results (R245, R250) -/

/-- A result that is due 4 cycles later leaves its register pending. -/
theorem seqOp_late {regs : List (BitVec 5)} {s : State} {q : Nat} {m : Team} {d : BitVec 5} {v : W64} {k : Nat → Team → State → TRes}
    (h : seqTurn regs s q m) (hd : d ≠ 0) (hk : k q m s = .done (s.wLate q d v)) :
    ∃ t, seqOp regs s k = .next t ∧
      t.team? q = some ({ m with pendW := m.pendW ++ [(⟨d, v, s.nextId⟩ : PendW)] }.goesOn (m.tpc + 8) s.ccount) ∧
      t.timed = (s.sched 4 .wResultWrite [q, s.nextId]).timed ∧ t.mem = s.mem := by
  obtain ⟨_, hm, _⟩ := id h
  rw [State.wLate, if_neg hd] at hk
  refine ⟨_, seqOp_done h hk, team?_seqIssued _ ?_, rfl, rfl⟩
  rw [team?_sched, team?_modTeam]
  exact congrArg _ hm

/-- WMUL leaves the product pending. -/
theorem wmul_late {s : State} {q : Nat} {m : Team} {d a b : BitVec 5} (h : seqTurn [d, a, b] s q m) (hd : d ≠ 0) :
    ∃ t, exec (.wmul d a b) s = .next t ∧
      t.team? q = some ({ m with pendW := m.pendW ++ [(⟨d, m.wread a * m.wread b, s.nextId⟩ : PendW)] }.goesOn (m.tpc + 8) s.ccount) ∧
      t.timed = (s.sched 4 .wResultWrite [q, s.nextId]).timed ∧ t.mem = s.mem := by
  rw [exec_wmul]
  exact seqOp_late h hd rfl

/-- The checks of a sequencer's access pass at an aligned offset within the allocation, of a load away from poison too (R250, R342). -/
theorem wspCheck_none {m : Team} {off : W64} {load : Bool} (ha : off.toNat % 8 = 0) (hb : off.toNat + 8 ≤ m.spSize)
    (hp : load = true → m.poison.contains off.toNat = false) : wspCheck m off load = none := by
  unfold wspCheck
  rw [if_neg (not_not.2 ha), if_neg (by simpa [Team.spIn] using hb), if_neg]
  rw [Bool.and_eq_true]
  rintro ⟨hl, hc⟩
  rw [hp hl] at hc
  cases hc

/-- WLDSP leaves the 8 bytes pending. -/
theorem wldsp_late {s : State} {q : Nat} {m : Team} {d a : BitVec 5} {imm : W32} {o : Nat} (h : seqTurn [d, a] s q m) (hd : d ≠ 0)
    (ho : (m.wread a + imm.signExtend 64).toNat = o) (ha : o % 8 = 0) (hb : o + 8 ≤ m.spSize) (hp : m.poison.contains o = false) :
    ∃ t, exec (.wldsp d a imm) s = .next t ∧
      t.team? q = some ({ m with pendW := m.pendW ++ [(⟨d, BitVec.ofNat 64 (bytesNat (sgetL m.sp o 8)), s.nextId⟩ : PendW)] }.goesOn
        (m.tpc + 8) s.ccount) ∧
      t.timed = (s.sched 4 .wResultWrite [q, s.nextId]).timed ∧ t.mem = s.mem := by
  subst ho
  rw [exec_wldsp]
  refine seqOp_late h hd ?_
  simp only [wspCheck_none ha hb fun _ => hp]
  rfl

/-- WSTSP stores the bytes of its register, and no other. -/
theorem wstsp_stores {s : State} {q : Nat} {m : Team} {b a : BitVec 5} {imm : W32} {o : Nat} (h : seqTurn [a, b] s q m)
    (ho : (m.wread a + imm.signExtend 64).toNat = o) (ha : o % 8 = 0) (hw : 256 ≤ o) (hb : o + 8 ≤ m.spSize) (hsp : swf m.sp = true) :
    ∃ t m', exec (.wstsp b a imm) s = .next t ∧ t.team? q = some m' ∧ m'.tpc = m.tpc + 8 ∧ t.mem = s.mem ∧
      bytesNat (sgetL m'.sp o 8) = (m.wread b).toNat ∧ (∀ k, k < o ∨ o + 8 ≤ k → sget m'.sp k = sget m.sp k) ∧ m'.w = m.w := by
  subst ho
  obtain ⟨_, hm, _⟩ := id h
  obtain ⟨poison, hteam, hmem⟩ := spStore_plain (wBytes 8 (m.wread b)) hm hw
  rw [exec_wstsp, execWstsp]
  refine ⟨_, _, seqOp_done h ?_, team?_seqIssued _ hteam, rfl, (seqIssued_mem _ _ _).trans hmem, ?_, fun k hk => ?_, rfl⟩
  · simp only [wspCheck_none (load := false) ha hb nofun]
  · have hr := sgetL_ssetL (wBytes 8 (m.wread b)) (m.wread a + imm.signExtend 64).toNat hsp
    rw [length_wBytes] at hr
    exact (congrArg bytesNat hr).trans (bytesNat_wBytes _)
  · exact sget_ssetL_ne _ hsp (by rwa [length_wBytes])

/-- W_RESULT_WRITE of the only pending register. -/
theorem wResultWrite_takes {s : State} {q : Nat} {m : Team} {p : PendW} (ha : s.args = [q, p.id]) (hm : s.team? q = some m) (hp : m.pendW = [p]) :
    ∃ t, exec .wResultWrite s = .next t ∧ t = { s with teams := t.teams } ∧ t.team? q = some { m.takes p.reg p.val with pendW := [] } := by
  have h0 : s.a0 = q := by simp [State.a0, ha]
  have h1 : s.a1 = p.id := by simp [State.a1, ha]
  rw [exec_wResultWrite]
  refine ⟨_, rfl, rfl, ?_⟩
  rw [h0, team?_modTeam, hm, Option.map_some]
  simp only [h1, hp, List.find?_cons_of_pos, beq_self_eq_true, bne_self_eq_false, List.filter_cons_of_neg, List.filter_nil, Bool.false_eq_true,
    not_false_eq_true]
  rfl

/-! ## Barriers (R248, R249) -/

/-- TBARA counts at the team's own word, where the arrival completes no phase. -/
theorem tbara_counts {s : State} {q : Nat} {m : Team} {n : BitVec 4} (sc : Scope) (h : seqTurn [] s q m) (harm : (m.bar n).armed = true)
    (hf : m.forwards q n = false) (herr : (m.bar n).err = false) (hfa : m.fwdArr = false) (hx : (m.bar n).arrived + 1 < (m.bar n).expect)
    (hsp : swf m.sp = true) :
    ∃ t m', exec (.tbara n sc) s = .next t ∧ t.team? q = some m' ∧ m'.bar n = { m.bar n with arrived := (m.bar n).arrived + 1 } ∧
      kget m'.arr n.toNat = some (BitVec.ofNat 32 (m.bar n).phase) ∧ m'.tpc = m.tpc + 8 ∧ t.mem = s.mem ∧ t.groups = s.groups := by
  obtain ⟨_, hm, _⟩ := id h
  have hfit : (m.bar n).Fits := barOf_fits _
  have hmax := hfit.expect
  have hw := BarW.arrive_eq herr (w := m.bar n) (by omega)
  have hc : ((m.bar n).arrive).completes = false := by
    rw [hw, BarW.completes, decide_eq_false (Nat.not_le.2 hx), Bool.and_false, Bool.false_and]
  obtain ⟨s1, hs1, hteam, hmem, hgroups⟩ := seqArrive_counts hm harm hf hc
  have hfwd : ((s1.team? q).map (·.fwdArr)).getD false = false := by rw [hteam]; exact hfa
  rw [exec_tbara, execTbara]
  refine ⟨_, _, seqOp_done (s1 := s1) h ?_, team?_seqIssued _ hteam, ?_, kget_kset_same _ _ _, rfl, hmem, hgroups⟩
  · simp only [hs1, hfwd, Bool.false_eq_true, if_false]
  · rw [← hw]
    exact bar_setBar (m := m.notes n (m.bar n).phase) hfit.arrive hsp

/-- What TBARW finds in a word that is not in an error phase. -/
theorem seqCheck_plain {s : State} {q : Nat} {m : Team} {n : BitVec 4} {sc : Scope} {w : BarW} {target : BitVec 32} (herr : w.err = false) :
    seqCheck q m n sc (some w) target s =
      if target.toNat = w.phase then
        .part (s.setTeam q { m with seqSt := .barrierWait, barTarget := some target, arr := kset m.arr n.toNat target })
      else .done (s.setTeam q (Team.acquire { m with arr := kdel m.arr n.toNat, barTarget := none } sc s.ptime)) := by
  by_cases ht : target.toNat = w.phase
  · have hw : waitOver (some w) target = false := by simp [waitOver, herr, ht]
    simp only [seqCheck, hw, ht, Bool.false_eq_true, if_true, if_false]
  · have hw : waitOver (some w) target = true := by simp [waitOver, herr, Ne.symm ht]
    simp only [seqCheck, hw, ht, if_true, if_false, Option.filter, herr, Bool.false_eq_true]

/-- TBARW at the team's own armed word looks for the phase it waits for already, or the one its record holds, or the current one. -/
theorem tbarw_looks {s : State} {q : Nat} {m : Team} {n : BitVec 4} (sc : Scope) (h : seqTurn [] s q m) (harm : (m.bar n).armed = true)
    (hf : m.forwards q n = false) : exec (.tbarw n sc) s = .next (seqEnd q m.tpc (seqCheck q m n sc (some (m.bar n))
      ((m.barTarget.or (kget m.arr n.toNat)).getD (BitVec.ofNat 32 (m.bar n).phase)) s)) := by
  rw [exec_tbarw, execTbarw, seqOp_go _ h]
  simp only [harm, Bool.not_true, Bool.false_and, Bool.false_eq_true, if_false, State.waitWord, hf]
  cases m.barTarget <;> rfl

/-- An acquire of a scope of .cl or wider is noted, one of a narrower scope is not (R249). -/
theorem acquire_eq (m : Team) (sc : Scope) (now : Nat) :
    m.acquire sc now = { m with lastAcq := if sc = Scope.cl ∨ sc = Scope.dev ∨ sc = Scope.sys then now else m.lastAcq } := by
  cases sc <;> rfl

/-- TBARW waits while the phase lasts. -/
theorem tbarw_waits {s : State} {q : Nat} {m : Team} {n : BitVec 4} {target : BitVec 32} (sc : Scope) (h : seqTurn [] s q m)
    (harm : (m.bar n).armed = true) (hf : m.forwards q n = false) (herr : (m.bar n).err = false)
    (htg : (m.barTarget.or (kget m.arr n.toNat)).getD (BitVec.ofNat 32 (m.bar n).phase) = target) (ht : target.toNat = (m.bar n).phase) :
    ∃ t m', exec (.tbarw n sc) s = .next t ∧ t.team? q = some m' ∧ m'.seqSt = .barrierWait ∧ m'.tpc = m.tpc ∧ m'.barTarget = some target ∧
      t.mem = s.mem ∧ t.groups = s.groups := by
  rw [tbarw_looks sc h harm hf, htg, seqCheck_plain herr, if_pos ht]
  exact ⟨_, _, rfl, team?_setTeam _ _ _, rfl, rfl, rfl, rfl, rfl⟩

/-- TBARW goes on once the phase is over. -/
theorem tbarw_goesOn {s : State} {q : Nat} {m : Team} {n : BitVec 4} {target : BitVec 32} (sc : Scope) (h : seqTurn [] s q m)
    (harm : (m.bar n).armed = true) (hf : m.forwards q n = false) (herr : (m.bar n).err = false)
    (htg : (m.barTarget.or (kget m.arr n.toNat)).getD (BitVec.ofNat 32 (m.bar n).phase) = target) (ht : target.toNat ≠ (m.bar n).phase) :
    ∃ t, exec (.tbarw n sc) s = .next t ∧ onlyTeam s t q ({ m with
      arr := kdel m.arr n.toNat, barTarget := none
      lastAcq := if sc = Scope.cl ∨ sc = Scope.dev ∨ sc = Scope.sys then s.ptime else m.lastAcq }.goesOn (m.tpc + 8) s.ccount) := by
  rw [tbarw_looks sc h harm hf, htg, seqCheck_plain herr, if_neg ht, acquire_eq]
  exact ⟨_, rfl, onlyTeam_seqIssued ..⟩

/-! ## The end of the stream (R246) -/

/-- TEXIT of a team of which a group has not ended. -/
theorem texit_ends {s : State} {q : Nat} {m : Team} (h : seqTurn [] s q m) (hg : m.ended.length ≠ m.groups) :
    ∃ t, exec .texit s = .next t ∧ onlyTeam s t q { m with seqSt := .exited, lastIssue := s.ccount + 1 } := by
  have he : (s.setTeam q { m with seqSt := .exited, lastIssue := s.ccount + 1 }).endTeamIfDone q =
      s.setTeam q { m with seqSt := .exited, lastIssue := s.ccount + 1 } := by
    simp only [State.endTeamIfDone, team?_setTeam, hg, decide_false, Bool.false_and, Bool.false_eq_true, if_false]
  rw [exec_texit, execTexit]
  refine ⟨_, seqOp_part h (congrArg TRes.part he), rfl, team?_setTeam _ _ _, fun _ hne => team?_setTeam_ne s _ hne⟩

/-- Settles O28: each instruction by its own lemma above. -/
theorem teamResultsAndBarriers : Obligations.TeamResultsAndBarriers := by
  unfold Obligations.TeamResultsAndBarriers
  refine ⟨⟨?_, ?_, ?_, ?_⟩, ?_, ?_⟩
  · exact fun s q m d a b h hd => wmul_late h hd
  · exact fun s q m d a imm o h hd ho ha hb hp => wldsp_late h hd ho ha hb hp
  · exact fun s q m b a imm o h ho ha hw hb hsp => wstsp_stores h ho ha hw hb hsp
  · exact fun s q m p ha hm hp => wResultWrite_takes ha hm hp
  · intro s q m n sc h harm hf herr hfa
    refine ⟨fun hx hsp => tbara_counts sc h harm hf herr hfa hx hsp, ?_⟩
    intro target
    by_cases ht : target.toNat = (m.bar n).phase
    · rw [if_pos ht]; exact tbarw_waits sc h harm hf herr rfl ht
    · rw [if_neg ht]; exact tbarw_goesOn sc h harm hf herr rfl ht
  · exact fun s q m h hg => texit_ends h hg

end Sys2Proof.Machine
end

section
/-! SUPPORT. The agenda of events (R65), the vectors of registers, what leaves by a gate (R435, R437), completions (R406), the wake latch
(R408): one lemma for each named operation that the host's writes use. -/
namespace Sys2Proof.Machine

/-! ## The agenda -/

@[simp] theorem mem_insertTimed {y e : Timed} {l : List Timed} : y ∈ insertTimed e l ↔ y = e ∨ y ∈ l := by
  induction l with
  | nil => simp [insertTimed]
  | cons x r ih =>
    unfold insertTimed
    split
    · simp only [List.mem_cons, ih]; tauto
    · exact List.mem_cons

/-- An event that is scheduled stands in the agenda. -/
theorem waits_sched (s : State) (n : Nat) (i : Instr) (l : List Nat) : (s.sched n i l).waits n i l :=
  ⟨_, mem_insertTimed.2 (.inl rfl), rfl, rfl, rfl⟩

/-- An event that stands in the agenda is not put out of it by a further one. -/
theorem mem_timed_sched {s : State} {y : Timed} (n : Nat) (i : Instr) (l : List Nat) (h : y ∈ s.timed) : y ∈ (s.sched n i l).timed :=
  mem_insertTimed.2 (.inr h)

/-! ## Vectors of registers -/

theorem getD_setIfInBounds_same {α : Type} {n i : Nat} (v : Vector α n) (x d : α) (h : i < n) : (v.setIfInBounds i x).getD i d = x := by
  simp [Vector.getD, h]

theorem getD_setIfInBounds_ne {α : Type} {n i j : Nat} (v : Vector α n) (x d : α) (h : j ≠ i) : (v.setIfInBounds i x).getD j d = v.getD j d := by
  by_cases hj : j < n
  · simp [Vector.getD, hj, Ne.symm h]
  · simp [Vector.getD, hj]

theorem queue_modQueue {q : Nat} (s : State) (f : HQueue → HQueue) (h : q < 16) : (s.modQueue q f).queue q = f (s.queue q) :=
  getD_setIfInBounds_same s.queues _ _ h

theorem queue_modQueue_ne {q k : Nat} (s : State) (f : HQueue → HQueue) (h : k ≠ q) : (s.modQueue q f).queue k = s.queue k :=
  getD_setIfInBounds_ne s.queues _ _ h

@[simp] theorem queue_withAlder (s : State) (a : Alder) (q : Nat) : State.queue { s with alder := a } q = s.queue q := rfl

theorem die_modDie {d : Nat} (s : State) (f : Die → Die) (h : d < 4) : (s.modDie d f).die d = f (s.die d) :=
  getD_setIfInBounds_same s.dies _ _ h

theorem gateAt_modGate {g : Nat} (s : State) (f : Gate → Gate) (h : g < 18) : (s.modGate g f).gateAt g = f (s.gateAt g) :=
  getD_setIfInBounds_same s.gates _ _ h

/-! ## What leaves by a gate, and what a gate records -/

/-- Sending changes the counts of a gate and what has been sent. -/
theorem send_only (s : State) (x : Sent) : s.send x = { s with gates := (s.send x).gates, sent := (s.send x).sent } := by
  unfold State.send
  split <;> rfl

theorem postHost_only (s : State) (a : Nat) (bs : List Byte) : s.postHost a bs =
    { s with gates := (s.postHost a bs).gates, sent := (s.postHost a bs).sent, hostMem := (s.postHost a bs).hostMem } :=
  send_only { s with hostMem := ssetL s.hostMem a bs } _

/-- A gate that transmits lets out what is posted to the host. -/
theorem mem_sent_postHost {s : State} (a : Nat) (bs : List Byte) (h : s.transmits 0) : Sent.hostWrite a bs ∈ (s.postHost a bs).sent := by
  have hm : ((s.gates.getD 0 Gate.reset).mode == .replay) = false := by simpa [State.transmits] using h
  simp [State.postHost, State.send, Sent.link, hm]

/-- The record of an arrival changes its gate, host memory and what has been sent. -/
theorem logArrival_only (s : State) (g : Nat) (x : Arrival) : s.logArrival g x =
    { s with gates := (s.logArrival g x).gates, sent := (s.logArrival g x).sent, hostMem := (s.logArrival g x).hostMem } := by
  unfold State.logArrival
  dsimp only
  repeat' split
  all_goals rfl

/-! ## Completions (R406, R407) -/

/-- Without commands there is no fence to complete. -/
theorem sweepFences_noCmds {s : State} (h : s.alder.cmds = []) (n : Nat) : s.sweepFences n = s := by
  cases n with
  | zero => rfl
  | succ n => simp only [State.sweepFences, State.openFences, h, List.filter_nil]

/-- Writing completions adds no command. -/
theorem flushCompletions_noCmds (q : Nat) (l : List Completion) : ∀ {s : State}, s.alder.cmds = [] → (flushCompletions q l s).alder.cmds = [] := by
  induction l with
  | nil => exact fun h => h
  | cons c r ih =>
    intro s h
    unfold flushCompletions
    dsimp only
    split
    · refine ih ?_
      rw [postHost_only]
      split
      · rw [send_only]; exact congrArg (List.filter _) h
      · exact congrArg (List.filter _) h
    · exact h

/-- One completion that waits is written where the ring has room. -/
theorem flushCompletions_one {s : State} {q : Nat} {c : Completion} (hq : q < 16) (hroom : (s.queue q).room = true)
    (hie : (s.queue q).qctl.getLsbD 9 = false) (ht : s.transmits 0) :
    (flushCompletions q [c] s).queue q = { s.queue q with cqtail := (s.queue q).cqtail + 1, waiting := [] } ∧
    Sent.hostWrite (((s.queue q).cqbase.extractLsb' 12 40).toNat * 4096 + 32 * ((s.queue q).cqtail.toNat % 2 ^ (s.queue q).size))
      (c.bytes s.ptime) ∈ (flushCompletions q [c] s).sent := by
  simp only [flushCompletions, hroom, hie, if_true, Bool.false_eq_true, if_false]
  refine ⟨?_, mem_sent_postHost _ _ ht⟩
  rw [queue_modQueue _ _ hq, queue_withAlder, queue_modQueue _ _ hq, postHost_only]
  rfl

/-! ## The wake latch (R408, R409) -/

/-- A write of WAKE or of a QTAIL of a gated device enters the latch; a wake that has not begun begins. -/
theorem latchPut_wakes {s : State} {off : Nat} (data : W64) (ben : BitVec 8) (hg : s.gated = true)
    (ho : off = 0 ∨ (0x1000 ≤ off ∧ off < 0x1400 ∧ off % 0x40 = 0x10)) :
    (s.latchPut off data ben).latch = s.latch ++ [⟨off, data, ben, s.ptime⟩] ∧ (s.latchPut off data ben).queues = s.queues ∧
    (s.latchPut off data ben).groups = s.groups ∧ (s.latchPut off data ben).wakeAt.isSome = true ∧
    (s.wakeAt = none → (s.latchPut off data ben).wakeAt = some (s.ccount + 65536) ∧ (s.latchPut off data ben).waits 65536 .wakeComplete []) := by
  simp only [State.latchPut, hg, ho, and_true, true_and]
  cases hw : s.wakeAt with
  | none => exact ⟨rfl, rfl, rfl, rfl, fun _ => ⟨rfl, waits_sched ..⟩⟩
  | some t => exact ⟨rfl, rfl, rfl, rfl, nofun⟩

/-- The same of a write that gate 0 records. -/
theorem latchIn_wakes {s : State} {off : Nat} (data : W64) (ben : BitVec 8) (hg : s.gated = true)
    (ho : off = 0 ∨ (0x1000 ≤ off ∧ off < 0x1400 ∧ off % 0x40 = 0x10)) :
    (s.latchIn off data ben).latch = s.latch ++ [⟨off, data, ben, s.ptime⟩] ∧ (s.latchIn off data ben).queues = s.queues ∧
    (s.latchIn off data ben).groups = s.groups ∧ (s.latchIn off data ben).wakeAt.isSome = true ∧
    (s.wakeAt = none → (s.latchIn off data ben).wakeAt = some (s.ccount + 65536) ∧ (s.latchIn off data ben).waits 65536 .wakeComplete []) := by
  unfold State.latchIn
  rw [logArrival_only]
  exact latchPut_wakes data ben hg ho

end Sys2Proof.Machine
end

section
/-! What the host writes: the wake latch, doorbells and device registers, `Obligations.RegistersAndLatch`. -/
namespace Sys2Proof.Machine

/-! ## The arms of the instructions -/

theorem exec_wake (data : W64) (ben : BitVec 8) (s : State) : exec (.wake data ben) s = execWake data ben s := rfl
theorem exec_qtailDoorbell (q : Nat) (v : W32) (s : State) : exec (.qtailDoorbell q v) s = execQtailDoorbell q v s := rfl
theorem exec_cqheadWrite (q : Nat) (v : W32) (s : State) : exec (.cqheadWrite q v) s = execCqheadWrite q v s := rfl
theorem exec_wakeComplete (s : State) : exec .wakeComplete s = execWakeComplete s := rfl
theorem exec_latchedWriteApply (s : State) : exec .latchedWriteApply s = execLatchedWriteApply s := rfl
theorem exec_gateClose (s : State) : exec .gateClose s = execGateClose s := rfl
theorem exec_fqheadWrite (d : Nat) (v : W32) (s : State) : exec (.fqheadWrite d v) s = execFqheadWrite d v s := rfl
theorem exec_trrheadWrite (d : Nat) (v : W32) (s : State) : exec (.trrheadWrite d v) s = execTrrheadWrite d v s := rfl
theorem exec_gheadWrite (g : Nat) (v : W32) (s : State) : exec (.gheadWrite g v) s = execGheadWrite g v s := rfl
theorem exec_stepreqWrite (v : BitVec 2) (s : State) : exec (.stepreqWrite v) s = execStepreqWrite v s := rfl
theorem exec_stopatdWrite (v : W64) (s : State) : exec (.stopatdWrite v) s = execStopatdWrite v s := rfl
theorem exec_mboxinWrite (v : W64) (s : State) : exec (.mboxinWrite v) s = execMboxinWrite v s := rfl
theorem exec_registerWrite (off : Nat) (v : W64) (ben : BitVec 8) (s : State) :
    exec (.registerWrite off v ben) s = execRegisterWrite off v ben s := rfl

/-! ## WAKE, doorbells, the latch (R405, R408, R409, R461) -/

theorem wake_gated {s : State} (data : W64) (ben : BitVec 8) (hg : s.gated = true) (hw : s.wakeAt = none) :
    ∃ t, exec (.wake data ben) s = .next t ∧ t.latch = s.latch ++ [⟨0, data, ben, s.ptime⟩] ∧
      t.wakeAt = some (s.ccount + 65536) ∧ t.waits 65536 .wakeComplete [] ∧ t.groups = s.groups := by
  obtain ⟨hlatch, -, hgroups, -, hwake⟩ := latchIn_wakes data ben hg (.inl rfl)
  obtain ⟨hat, hwaits⟩ := hwake hw
  rw [exec_wake, execWake, if_pos hg]
  exact ⟨_, rfl, hlatch, hat, hwaits, hgroups⟩

theorem wake_awake {s : State} (data : W64) (ben : BitVec 8) (hg : s.gated = false) :
    ∃ t, exec (.wake data ben) s = .next t ∧ t = { s with alder := t.alder } ∧
      t.alder = { s.alder with idle := if 16777215 ≤ s.alder.idle then 0 else s.alder.idle } := by
  rw [exec_wake, execWake, if_neg (by simp [hg])]
  by_cases hi : 16777215 ≤ s.alder.idle
  · rw [if_pos hi, if_pos hi]; exact ⟨_, rfl, rfl, rfl⟩
  · rw [if_neg hi, if_neg hi]; exact ⟨_, rfl, rfl, rfl⟩

theorem qtailDoorbell_gated {s : State} {q : Nat} (v : W32) (hq : q < 16) (hg : s.gated = true) :
    ∃ t, exec (.qtailDoorbell q v) s = .next t ∧ t.latch = s.latch ++ [⟨0x1010 + 0x40 * q, v.setWidth 64, 0x0F, s.ptime⟩] ∧
      t.queues = s.queues ∧ t.wakeAt.isSome = true := by
  obtain ⟨hlatch, hqueues, -, hwake, -⟩ := latchIn_wakes (off := 0x1010 + 0x40 * q) (v.setWidth 64) 0x0F hg (by omega)
  rw [exec_qtailDoorbell, execQtailDoorbell, if_pos hg]
  exact ⟨_, rfl, hlatch, hqueues, hwake⟩

theorem qtailDoorbell_awake {s : State} {q : Nat} (v : W32) (hq : q < 16) (hg : s.gated = false) :
    ∃ t, exec (.qtailDoorbell q v) s = .next t ∧ t = { s with queues := t.queues } ∧ t.queue q = { s.queue q with qtail := v } ∧
      ∀ k, k ≠ q → t.queue k = s.queue k := by
  rw [exec_qtailDoorbell, execQtailDoorbell, if_neg (by simp [hg])]
  exact ⟨_, rfl, rfl, queue_modQueue s _ hq, fun _ hk => queue_modQueue_ne s _ hk⟩

theorem wakeComplete_ends (s : State) : ∃ t, exec .wakeComplete s = .next t ∧ t.gated = false ∧ t.wakeAt = none ∧
    t.waits 0 .latchedWriteApply [] ∧ t.latch = s.latch := by
  rw [exec_wakeComplete]
  exact ⟨_, rfl, rfl, rfl, waits_sched .., rfl⟩

theorem latchedWriteApply_oldest {s : State} {e : LatchE} {r : List LatchE} (h : s.latch = e :: r) :
    ∃ t, exec .latchedWriteApply s = .next t ∧ t.latch = r ∧
      (∃ y, y ∈ t.timed ∧ y.due = s.ccount ∧ y.i = regEvent s e.off e.data e.ben) ∧ t.waits 1 .latchedWriteApply [] := by
  obtain ⟨y, hy, hi, -, hdue⟩ := waits_sched { s with latch := r } 0 (regEvent s e.off e.data e.ben) []
  rw [exec_latchedWriteApply, execLatchedWriteApply, h]
  exact ⟨_, rfl, rfl, ⟨y, mem_timed_sched _ _ _ hy, hdue, hi⟩, waits_sched ..⟩

theorem gateClose_idle {s : State} (hen : s.alder.gateen = true) (hi : 16777216 ≤ s.alder.idle) (hc : s.alder.ctxs = [])
    (hq : ∀ q, q < 16 → (s.queue q).qtail = (s.queue q).qhead) (hw : s.wakeAt = none) :
    ∃ t, exec .gateClose s = .next t ∧ t = { s with gated := true } := by
  have hall : (s.queues.toList.all fun q => q.qtail == q.qhead) = true := by
    rw [List.all_eq_true]
    intro x hx
    obtain ⟨k, hk, rfl⟩ := Vector.getElem_of_mem (Vector.mem_toList_iff.1 hx)
    have := hq k hk
    simpa [State.queue, Vector.getD, hk] using this
  rw [exec_gateClose, execGateClose, if_pos (by simp only [hen, decide_eq_true hi, hc, hall, hw, List.isEmpty_nil, Option.isNone_none, Bool.and_true])]
  exact ⟨_, rfl, rfl⟩

/-! ## Queue, fault-queue, gate and trace heads (R351, R405, R406, R436, R482) -/

/-- The state with CQHEAD of a queue written. -/
def State.setCqhead (s : State) (q : Nat) (v : W32) : State := s.modQueue q fun x => { x with cqhead := v }

theorem queue_setCqhead {q : Nat} (s : State) (v : W32) (hq : q < 16) : (s.setCqhead q v).queue q = { s.queue q with cqhead := v } :=
  queue_modQueue s _ hq

/-- CQHEAD where no command is left: the completions that wait are written, and no fence completes. -/
theorem cqheadWrite_flushes {s : State} {q : Nat} (v : W32) (hq : q < 16) (hc : s.alder.cmds = []) :
    exec (.cqheadWrite q v) s = .next (flushCompletions q (s.queue q).waiting (s.setCqhead q v)) := by
  have hw : ((s.setCqhead q v).queue q).waiting = (s.queue q).waiting := by rw [queue_setCqhead s v hq]
  have hs := sweepFences_noCmds (flushCompletions_noCmds q ((s.setCqhead q v).queue q).waiting (s := s.setCqhead q v) hc) 16
  rw [← hw, exec_cqheadWrite]
  exact congrArg _ hs

theorem cqheadWrite_idle {s : State} {q : Nat} (v : W32) (hq : q < 16) (hw : (s.queue q).waiting = []) (hc : s.alder.cmds = []) :
    ∃ t, exec (.cqheadWrite q v) s = .next t ∧ t = { s with queues := t.queues } ∧ t.queue q = { s.queue q with cqhead := v } := by
  rw [cqheadWrite_flushes v hq hc, hw]
  refine ⟨_, rfl, rfl, ?_⟩
  rw [flushCompletions, queue_modQueue _ _ hq, queue_setCqhead s v hq, ← hw]

theorem cqheadWrite_writes {s : State} {q : Nat} {v : W32} {c : Completion} (hq : q < 16) (hw : (s.queue q).waiting = [c]) (hc : s.alder.cmds = [])
    (hroom : ({ s.queue q with cqhead := v }).room = true) (hie : (s.queue q).qctl.getLsbD 9 = false) (ht : s.transmits 0) :
    ∃ t, exec (.cqheadWrite q v) s = .next t ∧
      t.queue q = { s.queue q with cqhead := v, cqtail := (s.queue q).cqtail + 1, waiting := [] } ∧
      Sent.hostWrite (((s.queue q).cqbase.extractLsb' 12 40).toNat * 4096 + 32 * ((s.queue q).cqtail.toNat % 2 ^ (s.queue q).size))
        (c.bytes s.ptime) ∈ t.sent := by
  have hx := queue_setCqhead s v hq
  obtain ⟨hqueue, hsent⟩ := flushCompletions_one (c := c) hq (by rw [hx]; exact hroom) (by rw [hx]; exact hie) (s := s.setCqhead q v) ht
  rw [hx] at hqueue hsent
  rw [cqheadWrite_flushes v hq hc, hw]
  exact ⟨_, rfl, hqueue, hsent⟩

theorem fqheadWrite_head {s : State} {d : Nat} (v : W32) (hd : d < 4) :
    ∃ t, exec (.fqheadWrite d v) s = .next t ∧ t = { s with dies := t.dies } ∧
      ((s.die d).fqtail.toNat < 2 ^ 31 → v.toNat ≤ (s.die d).fqtail.toNat → (t.die d).fqhead = v) ∧
      ((s.die d).fqtail.toNat < v.toNat → v.toNat ≤ (s.die d).fqtail.toNat + 2 ^ 31 → (t.die d).fqhead = (s.die d).fqtail) := by
  rw [exec_fqheadWrite]
  refine ⟨_, rfl, rfl, fun h1 h2 => ?_, fun h1 h2 => ?_⟩ <;> rw [die_modDie s _ hd] <;> dsimp only
  · rw [if_neg]
    bv_omega
  · rw [if_pos]
    bv_omega

theorem trrheadWrite_head {s : State} {d : Nat} (v : W32) (hd : d < 4) :
    ∃ t, exec (.trrheadWrite d v) s = .next t ∧ t = { s with dies := t.dies } ∧ t.die d = { s.die d with trhead := v } := by
  rw [exec_trrheadWrite]
  exact ⟨_, rfl, rfl, die_modDie s _ hd⟩

theorem gheadWrite_head {s : State} {g : Nat} (v : W32) (hg : g < 18) :
    ∃ t, exec (.gheadWrite g v) s = .next t ∧ t = { s with gates := t.gates } ∧ (t.gateAt g).ghead = v ∧
      (t.gateAt g).gtail = (s.gateAt g).gtail := by
  rw [exec_gheadWrite]
  refine ⟨_, rfl, rfl, ?_, ?_⟩ <;> rw [gateAt_modGate s _ hg]

/-! ## STEPREQ, STOPAT, MBOXIN (R426, R439, R459, R464, R466) -/

theorem stepreqWrite_requests (s : State) (v : BitVec 2) : ∃ t, exec (.stepreqWrite v) s = .next t ∧
    t = { s with stepReq := v, reqAt := some s.ptime, alder := { s.alder with fastest := v } } := by
  rw [exec_stepreqWrite]; exact ⟨_, rfl, rfl⟩

theorem stopatdWrite_sets (s : State) (v : W64) : ∃ t, exec (.stopatdWrite v) s = .next t ∧ t.stopat = v.toNat ∧ t.stopHit = false ∧
    t.groups = s.groups ∧ t.mem = s.mem := by
  rw [exec_stopatdWrite]; exact ⟨_, rfl, rfl, rfl, rfl, rfl⟩

/-- MBOXIN: GATEEN, and in phase 5 THOT where the command names it within its limits. -/
theorem mboxinWrite_sets (s : State) (v : W64) : ∃ t, exec (.mboxinWrite v) s = .next t ∧ t.mboxin = v ∧ t.alder.gateen = v.getLsbD 0 ∧
    (s.phase = 5 → t.alder.pendThot = if (Config.mailbox v).1 = 1 ∧ 480 ≤ (Config.mailbox v).2 ∧ (Config.mailbox v).2 ≤ 840
      then some (Config.mailbox v).2 else s.alder.pendThot) ∧
    (s.phase ≠ 5 → t = { s with mboxin := v, alder := { s.alder with gateen := v.getLsbD 0 } }) := by
  rw [exec_mboxinWrite, execMboxinWrite]
  obtain ⟨k, x⟩ := Config.mailbox v
  refine ⟨_, rfl, rfl, ?_, fun h5 => ?_, fun h5 => ?_⟩
  · dsimp only
    repeat' split
    all_goals rfl
  · simp only [h5, true_and]
    by_cases hk : k = 1
    · subst hk
      simp only [mailboxOk, decide_eq_true_eq, true_and]
      split <;> rfl
    · rw [if_neg (c := k = 1 ∧ _) (fun h => hk h.1)]
      split
      · split
        · exact absurd rfl hk
        all_goals rfl
      · rfl
  · rw [if_neg (fun h => h5 h.1)]

/-! ## Registers with writable bits (R13) -/

/-- A write of all eight bytes. -/
theorem mergeBen_full (old v : W64) : mergeBen old v 0xFF = v := by
  have hm : (List.range 8).foldl (fun (a : W64) i => if (0xFF : BitVec 8).getLsbD i then a ||| ((0xFF : W64) <<< (8 * i)) else a) 0 =
      BitVec.allOnes 64 := by decide
  rw [mergeBen, hm, BitVec.not_allOnes, BitVec.and_zero, BitVec.zero_or, BitVec.and_allOnes]

theorem masked_full (old v mask : W64) : masked old v 0xFF mask = v &&& mask := by rw [masked, mergeBen_full]

theorem registerWrite_qbase {s : State} {n : Nat} (v : W64) (hn : n < 16) :
    ∃ t, exec (.registerWrite (0x1000 + 0x40 * n) v 0xFF) s = .next t ∧ t = { s with queues := t.queues } ∧
      t.queue n = { s.queue n with qbase := v &&& 0x000FFFFFFFFFF000 } := by
  rw [exec_registerWrite, execRegisterWrite, if_pos (by omega), show (0x1000 + 0x40 * n - 0x1000) / 0x40 = n by omega,
    show (0x1000 + 0x40 * n) % 0x40 = 0 by omega]
  refine ⟨_, rfl, rfl, ?_⟩
  rw [queue_modQueue s _ hn, writeQueue, masked_full]

theorem registerWrite_fqctl {s : State} {n : Nat} (v : W64) (hn : n < 4) :
    ∃ t, exec (.registerWrite (0x100008 + 0x10000 * n) v 0xFF) s = .next t ∧ t = { s with dies := t.dies } ∧
      t.die n = { s.die n with fqctl := v &&& 0x31F } := by
  rw [exec_registerWrite, execRegisterWrite, if_neg (by omega), if_pos (by omega),
    show (0x100008 + 0x10000 * n - 0x100000) / 0x10000 = n by omega, show (0x100008 + 0x10000 * n) % 0x10000 = 8 by omega]
  refine ⟨_, rfl, rfl, ?_⟩
  rw [die_modDie s _ hn, writeFq, masked_full]

theorem registerWrite_gctl {s : State} {n : Nat} (v : W64) (hn : n < 18) :
    ∃ t, exec (.registerWrite (0x200008 + 0x100 * n) v 0xFF) s = .next t ∧ t = { s with gates := t.gates } ∧
      t.gateAt n = { s.gateAt n with gctl := v &&& 0x17F } := by
  rw [exec_registerWrite, execRegisterWrite, if_neg (by omega), if_neg (by omega), if_pos (by omega),
    show (0x200008 + 0x100 * n - 0x200000) / 0x100 = n by omega, show (0x200008 + 0x100 * n) % 0x100 = 8 by omega]
  refine ⟨_, rfl, rfl, ?_⟩
  rw [gateAt_modGate s _ hn, writeGate, masked_full]

theorem registerWrite_trbase {s : State} {n : Nat} (v : W64) (hn : n < 4) :
    ∃ t, exec (.registerWrite (0x205000 + 0x100 * n) v 0xFF) s = .next t ∧ t = { s with dies := t.dies } ∧
      t.die n = { s.die n with trbase := v &&& 0x000FFFFFFFFFFF00 } := by
  rw [exec_registerWrite, execRegisterWrite, if_neg (by omega), if_neg (by omega), if_neg (by omega), if_neg (by omega), if_neg (by omega),
    if_pos (by omega), show (0x205000 + 0x100 * n - 0x205000) / 0x100 = n by omega, show (0x205000 + 0x100 * n) % 0x100 = 0 by omega]
  refine ⟨_, rfl, rfl, ?_⟩
  rw [die_modDie s _ hn, writeTrace, masked_full]

/-- DBGCTL with none of its requests. -/
theorem registerWrite_dbgctl {s : State} {v : W64} (h1 : v.getLsbD 1 = false) (h2 : v.getLsbD 2 = false) (h3 : v.getLsbD 3 = false)
    (h4 : v.getLsbD 4 = false) : ∃ t, exec (.registerWrite 0x204028 v 0xFF) s = .next t ∧ t = { s with attach := v.getLsbD 0 } := by
  have hw : s.writeDbgctl v 0xFF = { s with attach := v.getLsbD 0 } := by
    simp only [State.writeDbgctl, mergeBen_full, h1, h2, h3, h4, Bool.false_eq_true, if_false, List.nil_append]
    rfl
  exact ⟨_, congrArg Host.Outcome.next hw, rfl⟩

theorem registerWrite_nowhere (s : State) (v : W64) : ∃ t, exec (.registerWrite 0x400000 v 0xFF) s = .next t ∧ t = s := ⟨s, rfl, rfl⟩

/-- Settles O49: each write by its own lemma above. -/
theorem registersAndLatch : Obligations.RegistersAndLatch := by
  unfold Obligations.RegistersAndLatch
  refine ⟨fun s data ben => ⟨wake_gated data ben, wake_awake data ben⟩, fun s q v hq => ⟨qtailDoorbell_gated v hq, qtailDoorbell_awake v hq,
      cqheadWrite_idle v hq, fun c => cqheadWrite_writes hq⟩, wakeComplete_ends, fun s e r => latchedWriteApply_oldest, fun s => gateClose_idle,
    fun s d v hd => ⟨fqheadWrite_head v hd, trrheadWrite_head v hd⟩, fun s g v hg => gheadWrite_head v hg, stepreqWrite_requests, stopatdWrite_sets,
    mboxinWrite_sets, fun s v n => ⟨registerWrite_qbase v, registerWrite_fqctl v, registerWrite_gctl v, registerWrite_trbase v,
      registerWrite_dbgctl, registerWrite_nowhere s v⟩⟩

end Sys2Proof.Machine
end

section
/-! SUPPORT. The fields of an encoded word, read back (R67, R76, R79, R85 to R88): one lemma for each field of each format, and for each coded
field that its code decodes to it. -/
namespace Sys2Proof

open BitVec

/-! ## Coded fields -/

@[simp] theorem condOf_code (c : Cond) : condOf c.code = some c := by cases c <;> rfl
@[simp] theorem scondOf_code (c : SCond) : scondOf c.code = some c := by cases c <;> rfl
@[simp] theorem scopeOf_code (c : Scope) : scopeOf c.code = some c := by cases c <;> rfl
@[simp] theorem atomOf_code (c : AtomOp) : atomOf c.code = some c := by cases c <;> rfl
@[simp] theorem pathOf_code (c : WaitPath) : pathOf c.code = some c := by cases c <;> rfl
@[simp] theorem ltypeOf_code (c : LType) : ltypeOf c.code = some c := by cases c <;> rfl
@[simp] theorem vcondOf_code (c : VCond) : vcondOf c.code = some c := by cases c <;> rfl
@[simp] theorem fcondOf_code (c : FCond) : fcondOf c.code = some c := by cases c <;> rfl
@[simp] theorem redOf_code (c : RedOp) : redOf c.code = some c := by cases c <;> rfl
@[simp] theorem msizeOf_code (c : MSize) : msizeOf c.code = some c := by cases c <;> rfl
@[simp] theorem morderOf_code (c : MOrder) : morderOf c.code = c := by cases c <;> rfl
@[simp] theorem spanOf_code (c : Span) : spanOf c.code = some c := by cases c <;> rfl
@[simp] theorem unpkOf_code (c : UnpkSrc) : unpkOf c.code = some c := by cases c <;> rfl
@[simp] theorem ofmtOf_code (c : OFmt) : ofmtOf c.code = some c := by cases c <;> rfl

@[simp] theorem bit1_eq_zero (b : Bool) : bit1 b = 0#1 ↔ b = false := by cases b <;> decide
@[simp] theorem getElem_bit1 (b : Bool) : (bit1 b)[0] = b := by cases b <;> rfl

/-! ## What the decoder answers -/

@[simp] theorem rsv_eq_ok (ok : Bool) (i j : Instr) : rsv ok i = .ok j ↔ ok = true ∧ i = j := by
  cases ok <;> simp [rsv, ill]

@[simp] theorem coded_some {α : Type} (a : α) (f : α → Except DecErr Instr) : coded (some a) f = f a := rfl
@[simp] theorem lcode_some {α β : Type} (a : α) (f : α → Except DecErr β) : lcode (some a) f = f a := rfl

/-! ## Scalar words (R67) -/

section
variable (op : BitVec 7) (d a b : BitVec 6) (fn : BitVec 7)

@[simp] theorem wordSR_fn : (wordSR op d a b fn).extractLsb' 0 7 = fn := extractLsb'_append_eq_right (w' := 7)
@[simp] theorem wordSR_b : (wordSR op d a b fn).extractLsb' 7 6 = b := by
  simp [wordSR, extractLsb'_append_eq_of_le (w := 7), extractLsb'_append_eq_right (w' := 6)]
@[simp] theorem wordSR_a : (wordSR op d a b fn).extractLsb' 13 6 = a := by
  simp [wordSR, extractLsb'_append_eq_of_le (w := 7), extractLsb'_append_eq_of_le (w := 6), extractLsb'_append_eq_right (w' := 6)]
@[simp] theorem wordSR_d : (wordSR op d a b fn).extractLsb' 19 6 = d := by
  simp [wordSR, extractLsb'_append_eq_of_le (w := 7), extractLsb'_append_eq_of_le (w := 6), extractLsb'_append_eq_right (w' := 6)]
@[simp] theorem wordSR_op : (wordSR op d a b fn).extractLsb' 25 7 = op := by
  simp [wordSR, extractLsb'_append_eq_of_le (w := 7), extractLsb'_append_eq_of_le (w := 6)]

@[simp] theorem wordSR_ne_zero (h : op ≠ 0#7) : wordSR op d a b fn ≠ 0#32 :=
  fun h0 => h (by simpa using congrArg (extractLsb' 25 7) h0)
end

section
variable (op : BitVec 7) (d a : BitVec 6) (imm : BitVec 13)

@[simp] theorem wordSI_imm : (wordSI op d a imm).extractLsb' 0 13 = imm := extractLsb'_append_eq_right (w' := 13)
@[simp] theorem wordSI_a : (wordSI op d a imm).extractLsb' 13 6 = a := by
  simp [wordSI, extractLsb'_append_eq_of_le (w := 13), extractLsb'_append_eq_right (w' := 6)]
@[simp] theorem wordSI_d : (wordSI op d a imm).extractLsb' 19 6 = d := by
  simp [wordSI, extractLsb'_append_eq_of_le (w := 13), extractLsb'_append_eq_of_le (w := 6), extractLsb'_append_eq_right (w' := 6)]
@[simp] theorem wordSI_op : (wordSI op d a imm).extractLsb' 25 7 = op := by
  simp [wordSI, extractLsb'_append_eq_of_le (w := 13), extractLsb'_append_eq_of_le (w := 6)]

@[simp] theorem wordSI_ne_zero (h : op ≠ 0#7) : wordSI op d a imm ≠ 0#32 :=
  fun h0 => h (by simpa using congrArg (extractLsb' 25 7) h0)
end

section
variable (op : BitVec 7) (c : BitVec 4) (a : BitVec 6) (off : BitVec 15)

@[simp] theorem wordSB_off : (wordSB op c a off).extractLsb' 0 15 = off := extractLsb'_append_eq_right (w' := 15)
@[simp] theorem wordSB_a : (wordSB op c a off).extractLsb' 15 6 = a := by
  simp [wordSB, extractLsb'_append_eq_of_le (w := 15), extractLsb'_append_eq_right (w' := 6)]
@[simp] theorem wordSB_c : (wordSB op c a off).extractLsb' 21 4 = c := by
  simp [wordSB, extractLsb'_append_eq_of_le (w := 15), extractLsb'_append_eq_of_le (w := 6), extractLsb'_append_eq_right (w' := 4)]
@[simp] theorem wordSB_op : (wordSB op c a off).extractLsb' 25 7 = op := by
  simp [wordSB, extractLsb'_append_eq_of_le (w := 15), extractLsb'_append_eq_of_le (w := 6), extractLsb'_append_eq_of_le (w := 4)]

@[simp] theorem wordSB_ne_zero (h : op ≠ 0#7) : wordSB op c a off ≠ 0#32 :=
  fun h0 => h (by simpa using congrArg (extractLsb' 25 7) h0)
end

section
variable (op : BitVec 7) (d : BitVec 6) (imm : BitVec 19)

@[simp] theorem wordSL_imm : (wordSL op d imm).extractLsb' 0 19 = imm := extractLsb'_append_eq_right (w' := 19)
@[simp] theorem wordSL_d : (wordSL op d imm).extractLsb' 19 6 = d := by
  simp [wordSL, extractLsb'_append_eq_of_le (w := 19), extractLsb'_append_eq_right (w' := 6)]
@[simp] theorem wordSL_op : (wordSL op d imm).extractLsb' 25 7 = op := by
  simp [wordSL, extractLsb'_append_eq_of_le (w := 19), extractLsb'_append_eq_of_le (w := 6)]

@[simp] theorem wordSL_ne_zero (h : op ≠ 0#7) : wordSL op d imm ≠ 0#32 :=
  fun h0 => h (by simpa using congrArg (extractLsb' 25 7) h0)
end

/-- An XCMD word is an S-R word of opcode 0x7E (R74). -/
theorem wordSX_eq (d a b : BitVec 6) (func : BitVec 7) : wordSX d a b func = wordSR 0x7E#7 d a b func := rfl

/-! ## Team words (R88, R265) -/

section
variable (op : BitVec 8) (d a b c : BitVec 5) (n : BitVec 4) (imm : BitVec 32)

@[simp] theorem wordT_imm : (wordT op d a b c n imm).extractLsb' 0 32 = imm := extractLsb'_append_eq_right (w' := 32)
@[simp] theorem wordT_n : (wordT op d a b c n imm).extractLsb' 32 4 = n := by
  simp [wordT, extractLsb'_append_eq_of_le (w := 32), extractLsb'_append_eq_right (w' := 4)]
@[simp] theorem wordT_c : (wordT op d a b c n imm).extractLsb' 36 5 = c := by
  simp [wordT, extractLsb'_append_eq_of_le (w := 32), extractLsb'_append_eq_of_le (w := 4), extractLsb'_append_eq_right (w' := 5)]
@[simp] theorem wordT_b : (wordT op d a b c n imm).extractLsb' 41 5 = b := by
  simp [wordT, extractLsb'_append_eq_of_le (w := 32), extractLsb'_append_eq_of_le (w := 4), extractLsb'_append_eq_of_le (w := 5),
    extractLsb'_append_eq_right (w' := 5)]
@[simp] theorem wordT_a : (wordT op d a b c n imm).extractLsb' 46 5 = a := by
  simp [wordT, extractLsb'_append_eq_of_le (w := 32), extractLsb'_append_eq_of_le (w := 4), extractLsb'_append_eq_of_le (w := 5),
    extractLsb'_append_eq_right (w' := 5)]
@[simp] theorem wordT_d : (wordT op d a b c n imm).extractLsb' 51 5 = d := by
  simp [wordT, extractLsb'_append_eq_of_le (w := 32), extractLsb'_append_eq_of_le (w := 4), extractLsb'_append_eq_of_le (w := 5),
    extractLsb'_append_eq_right (w' := 5)]
@[simp] theorem wordT_op : (wordT op d a b c n imm).extractLsb' 56 8 = op := by
  simp [wordT, extractLsb'_append_eq_of_le (w := 32), extractLsb'_append_eq_of_le (w := 4), extractLsb'_append_eq_of_le (w := 5)]

@[simp] theorem wordT_ne_zero (h : op ≠ 0#8) : wordT op d a b c n imm ≠ 0#64 :=
  fun h0 => h (by simpa using congrArg (extractLsb' 56 8) h0)
end

section
variable (c : DrainCtl)

@[simp] theorem drainCtl_ofmt : c.code.extractLsb' 0 3 = c.ofmt.code := extractLsb'_append_eq_right (w' := 3)
@[simp] theorem drainCtl_spd : c.code[3] = c.spd := by
  simp [DrainCtl.code, getElem_append (m := 3), getElem_append (m := 1)]
@[simp] theorem drainCtl_zero : c.code[4] = c.zero := by
  simp [DrainCtl.code, getElem_append (m := 3), getElem_append (m := 1)]
@[simp] theorem drainCtl_sc : c.code.extractLsb' 5 3 = c.sc.code := by
  simp [DrainCtl.code, extractLsb'_append_eq_of_le (w := 3), extractLsb'_append_eq_of_le (w := 1), extractLsb'_append_eq_right (w' := 3)]
@[simp] theorem drainCtl_rnd : c.code.extractLsb' 8 2 = c.rnd := by
  simp [DrainCtl.code, extractLsb'_append_eq_of_le (w := 3), extractLsb'_append_eq_of_le (w := 1), extractLsb'_append_eq_right (w' := 2)]
@[simp] theorem drainCtl_sat : c.code[10] = c.sat := by
  simp [DrainCtl.code, getElem_append (m := 3), getElem_append (m := 1), getElem_append (m := 2)]
@[simp] theorem drainCtl_reserved : c.code.extractLsb' 11 21 = 0#21 := by
  simp [DrainCtl.code, extractLsb'_append_eq_of_le (w := 3), extractLsb'_append_eq_of_le (w := 1), extractLsb'_append_eq_of_le (w := 2)]

/-- The drain-control word of an admitted combination decodes to it (R265). -/
theorem decodeDrainCtl_code {add : Bool} (h : c.ok add = true) : decodeDrainCtl add c.code = .ok c := by
  simp [decodeDrainCtl, h]
end

end Sys2Proof
end

section
/-! SUPPORT. The words of a lane data instruction (R76 to R82): their fields read back, and the decoder on them up to the row of R84. -/
namespace Sys2Proof

open BitVec

/-! ## Word 0 and word 1 (R76) -/

/-- Word 0 of a lane instruction. -/
def laneW0 (op : BitVec 12) (ty : BitVec 4) (md : BitVec 12) : BitVec 32 := 0xA#4 ++ op ++ ty ++ md

/-- Word 1 of a lane instruction. -/
def laneW1 (bk : BitVec 2) (vd va vb : BitVec 10) : BitVec 32 := bk ++ vd ++ va ++ vb

section
variable (op : BitVec 12) (ty : BitVec 4) (md : BitVec 12)

@[simp] theorem laneW0_md : (laneW0 op ty md).extractLsb' 0 12 = md := extractLsb'_append_eq_right (w' := 12)
@[simp] theorem laneW0_ty : (laneW0 op ty md).extractLsb' 12 4 = ty := by
  simp [laneW0, extractLsb'_append_eq_of_le (w := 12), extractLsb'_append_eq_right (w' := 4)]
@[simp] theorem laneW0_op : (laneW0 op ty md).extractLsb' 16 12 = op := by
  simp [laneW0, extractLsb'_append_eq_of_le (w := 12), extractLsb'_append_eq_of_le (w := 4), extractLsb'_append_eq_right (w' := 12)]
@[simp] theorem laneW0_class : (laneW0 op ty md).extractLsb' 28 4 = 0xA#4 := by
  simp [laneW0, extractLsb'_append_eq_of_le (w := 12), extractLsb'_append_eq_of_le (w := 4)]

@[simp] theorem laneW0_ne_zero : laneW0 op ty md ≠ 0#32 :=
  fun h0 => absurd (congrArg (extractLsb' 28 4) h0) (by simp)
end

section
variable (bk : BitVec 2) (vd va vb : BitVec 10)

@[simp] theorem laneW1_vb : (laneW1 bk vd va vb).extractLsb' 0 10 = vb := extractLsb'_append_eq_right (w' := 10)
@[simp] theorem laneW1_va : (laneW1 bk vd va vb).extractLsb' 10 10 = va := by
  simp [laneW1, extractLsb'_append_eq_of_le (w := 10), extractLsb'_append_eq_right (w' := 10)]
@[simp] theorem laneW1_vd : (laneW1 bk vd va vb).extractLsb' 20 10 = vd := by
  simp [laneW1, extractLsb'_append_eq_of_le (w := 10), extractLsb'_append_eq_right (w' := 10)]
@[simp] theorem laneW1_bk : (laneW1 bk vd va vb).extractLsb' 30 2 = bk := by
  simp [laneW1, extractLsb'_append_eq_of_le (w := 10)]
end

/-! ## The word before word 0 (R79) -/

section
variable (f : LaneF)

@[simp] theorem pfxWord_reserved : f.pfxWord.extractLsb' 0 8 = 0#8 := extractLsb'_append_eq_right (w' := 8)
@[simp] theorem pfxWord_vc : f.pfxWord.extractLsb' 8 10 = f.vc.getD 0 := by
  simp [LaneF.pfxWord, extractLsb'_append_eq_of_le (w := 8), extractLsb'_append_eq_right (w' := 10)]
@[simp] theorem pfxWord_hasVc : f.pfxWord[18] = f.vc.isSome := by
  simp [LaneF.pfxWord, getElem_append (m := 8), getElem_append (m := 10), getElem_append (m := 1)]
@[simp] theorem pfxWord_rnd : f.pfxWord.extractLsb' 19 3 = f.rnd := by
  simp [LaneF.pfxWord, extractLsb'_append_eq_of_le (w := 8), extractLsb'_append_eq_of_le (w := 10), extractLsb'_append_eq_of_le (w := 1),
    extractLsb'_append_eq_right (w' := 3)]
@[simp] theorem pfxWord_zero : f.pfxWord[22] = f.zero := by
  simp [LaneF.pfxWord, getElem_append (m := 8), getElem_append (m := 10), getElem_append (m := 1), getElem_append (m := 3)]
@[simp] theorem pfxWord_hasMen : f.pfxWord[23] = f.men.isSome := by
  simp [LaneF.pfxWord, getElem_append (m := 8), getElem_append (m := 10), getElem_append (m := 1), getElem_append (m := 3)]
@[simp] theorem pfxWord_men : f.pfxWord.extractLsb' 24 4 = f.men.getD 0 := by
  simp [LaneF.pfxWord, extractLsb'_append_eq_of_le (w := 8), extractLsb'_append_eq_of_le (w := 10), extractLsb'_append_eq_of_le (w := 1),
    extractLsb'_append_eq_of_le (w := 3), extractLsb'_append_eq_right (w' := 4)]
@[simp] theorem pfxWord_class : f.pfxWord.extractLsb' 28 4 = 0xF#4 := by
  simp [LaneF.pfxWord, extractLsb'_append_eq_of_le (w := 8), extractLsb'_append_eq_of_le (w := 10), extractLsb'_append_eq_of_le (w := 1),
    extractLsb'_append_eq_of_le (w := 3), extractLsb'_append_eq_of_le (w := 4)]

@[simp] theorem pfxWord_ne_zero : f.pfxWord ≠ 0#32 :=
  fun h0 => absurd (congrArg (extractLsb' 28 4) h0) (by simp)
end

/-- Every word is word 1 of its fields. -/
theorem laneW1_fields (w : BitVec 32) :
    laneW1 (w.extractLsb' 30 2) (w.extractLsb' 20 10) (w.extractLsb' 10 10) (w.extractLsb' 0 10) = w := by
  have h20 : w.extractLsb' 30 2 ++ w.extractLsb' 20 10 = w.extractLsb' 20 12 := extractLsb'_append_extractLsb'_eq_extractLsb' rfl
  have h10 : w.extractLsb' 20 12 ++ w.extractLsb' 10 10 = w.extractLsb' 10 22 := extractLsb'_append_extractLsb'_eq_extractLsb' rfl
  rw [laneW1, h20, h10]
  exact (extractLsb'_append_extractLsb'_eq_extractLsb' rfl).trans extractLsb'_eq_self

/-! ## Operand b (R81) -/

/-- The code of operand b's kind. -/
def OpB.kind : OpB → BitVec 2
  | .reg _ | .none => 0
  | .imm _ => 1
  | .snap _ => 2

/-- The field vb that an operand b leaves. -/
def OpB.vb : OpB → BitVec 10
  | .reg r => r
  | .snap n => 0#6 ++ n
  | .imm _ | .none => 0

/-- Word 2: an immediate operand b, or the instruction's own immediate. -/
def OpB.word2 (own : BitVec 32) : OpB → BitVec 32
  | .imm w => w
  | _ => own

/-- The fields of the words of a lane data instruction. -/
def LaneF.raw (f : LaneF) (md : BitVec 12) (imm : BitVec 32) : LaneRaw :=
  ⟨f.ty.code, md, f.b.kind, f.vd, f.va, f.b.vb, f.b.word2 imm⟩

/-- The word before word 0 (R79), 0 where there is none. -/
def LaneF.prefixOr0 (f : LaneF) : BitVec 32 := if f.pfx then f.pfxWord else 0

/-- The fields that the decoder reads from words 0 to 2. -/
def rawOf (w0 w1 w2 : BitVec 32) : LaneRaw :=
  ⟨w0.extractLsb' 12 4, w0.extractLsb' 0 12, w1.extractLsb' 30 2, w1.extractLsb' 20 10, w1.extractLsb' 10 10, w1.extractLsb' 0 10, w2⟩

theorem wordsL_eq (op md : BitVec 12) (f : LaneF) (imm : BitVec 32) :
    wordsL op md f imm = (if f.pfx then [f.pfxWord] else []) ++
      [laneW0 op f.ty.code md, laneW1 f.b.kind f.vd f.va f.b.vb, f.b.word2 imm] := by
  unfold wordsL
  cases f.pfx <;> cases f.b <;> rfl

/-- The decoder on the words of a data instruction: the word before word 0, or 0, and words 0 to 2. -/
theorem decodeLane_wordsL (op md : BitVec 12) (f : LaneF) (imm : BitVec 32) :
    decodeLane (wordsL op md f imm) =
      decodeLaneBody f.pfx f.prefixOr0 (laneW0 op f.ty.code md) (laneW1 f.b.kind f.vd f.va f.b.vb) (f.b.word2 imm) := by
  rw [wordsL_eq, LaneF.prefixOr0]
  cases f.pfx <;> simp [decodeLane]

theorem decodeLane_wordsC (op md : BitVec 12) (w1 imm : BitVec 32) :
    decodeLane (wordsC op md w1 imm) = decodeLaneBody false 0 (laneW0 op LType.w32.code md) w1 imm := by
  have h : wordsC op md w1 imm = [laneW0 op LType.w32.code md, w1, imm] := rfl
  rw [h]
  simp [decodeLane]

/-! ## The rows (R84) -/

/-- What a row admits of the shared fields; VCVPK2 and VCVPK4 take vc where rnd is 5. -/
def LaneRow.adm (row : LaneRow) (f : LaneF) : Adm :=
  ⟨row.tys, row.reg, row.imm, row.snap, !row.useB, row.mask, row.rnd,
    match row.vc with | .no => false | .req => true | .rs => f.rnd == 5⟩

/-- The code of an integer type (R80). -/
def intCode (c : BitVec 4) : Bool := decide (1 ≤ c.toNat) && decide (c.toNat ≤ 8)

/-- Whether a VCVT is between integer types. -/
def cvtInts (op : BitVec 12) (ty : BitVec 4) (md : BitVec 12) : Bool :=
  op.toNat == 0x080 && intCode ty && intCode (md.extractLsb' 0 4)

/-- The shared fields that the decoder reads: those of words 1 and 2, and of the word before word 0. -/
def sharedOf (row : LaneRow) (ty : LType) (present : Bool) (p : BitVec 32) (r : LaneRaw) : LaneF :=
  ⟨ty, r.vd, r.va, opBOf row r, present, if p.getLsbD 23 then some (p.extractLsb' 24 4) else none, p.getLsbD 22, p.extractLsb' 19 3,
    if p.getLsbD 18 then some (p.extractLsb' 8 10) else none⟩

/-- The decoder on words whose fields pass the checks of their row: what the row builds. -/
theorem decodeLaneBody_ok {present : Bool} {p w1 w2 : BitVec 32} {op md : BitVec 12} {ty : LType} {row : LaneRow} {r : LaneRaw} {i : Instr}
    (hr : rawOf (laneW0 op ty.code md) w1 w2 = r) (hrow : laneRow op.toNat = some row)
    (hpfx : pfxOk row present p (cvtInts op ty.code md) = true) (hrnd : (p.extractLsb' 19 3).toNat < 6)
    (hty : row.tys.contains ty = true) (hmem : decodeLaneBody.memTypeBad op.toNat ty (md.extractLsb' 0 3) = false)
    (hbk : bkOk row r.bk = true) (hun : unusedOk row r = true) (hbuild : row.build (sharedOf row ty present p r) r = .ok (i, true)) :
    decodeLaneBody present p (laneW0 op ty.code md) w1 w2 = .ok i := by
  subst hr
  have hround : ¬ 6 ≤ (p.extractLsb' 19 3).toNat := Nat.not_le.2 hrnd
  simp only [cvtInts, intCode] at hpfx
  simp only [rawOf, sharedOf, laneW0_ty, laneW0_md] at hbk hbuild hun
  simp only [decodeLaneBody, laneW0_op, laneW0_ty, laneW0_md, hrow, hpfx, ltypeOf_code, hty, hmem, hbk, hround, hbuild, hun,
    Bool.not_true, Bool.false_eq_true, if_false, decide_false, Bool.and_true, rsv, if_true]

end Sys2Proof
end

section
/-! SUPPORT. What R84 admits of a lane data instruction passes the checks of its row, and the words decode to what the row builds. -/
namespace Sys2Proof

/-! ## The shared fields read back (R79, R81) -/

/-- The operand kinds that a row admits. -/
def Adm.takes (a : Adm) : OpB → Bool
  | .reg _ => a.reg
  | .imm _ => a.imm
  | .snap _ => a.snap
  | .none => a.bnone

/-- The parts of `LaneF.ok`, each under a name. -/
structure LaneF.Admitted (f : LaneF) (a : Adm) : Prop where
  type : a.tys.contains f.ty = true
  operand : a.takes f.b = true
  noPrefix : f.pfx = false → f.men = none ∧ f.zero = false ∧ f.rnd = 0#3 ∧ f.vc = none
  mask : f.men.isSome = true → a.mask = true
  zero : f.men.isSome = false → f.zero = false
  rnd : f.rnd.toNat ≤ a.rnd
  vc : f.vc.isSome = a.vcReq

theorem admitted_of_ok {f : LaneF} {a : Adm} (h : f.ok a = true) : f.Admitted a := by
  simp only [LaneF.ok, Bool.and_eq_true] at h
  obtain ⟨⟨⟨⟨⟨⟨htype, hoperand⟩, hpfx⟩, hmask⟩, hzero⟩, hrnd⟩, hvc⟩ := h
  refine ⟨htype, ?_, ?_, ?_, ?_, by simpa using hrnd, by simpa using hvc⟩
  · cases hb : f.b <;> simpa [hb, Adm.takes] using hoperand
  · intro hp
    simpa [hp, and_assoc] using hpfx
  · intro hm
    simpa [Option.isNone_eq_false_iff.2 hm] using hmask
  · intro hm
    simpa [hm] using hzero

/-- What every row of a data instruction has: it may follow a word of R79, its rounding codes are the defined ones, and either it uses vb and admits a
register there, or bkind 0 says that there is no operand b. -/
def LaneRow.forData (row : LaneRow) : Bool :=
  !row.noPfx && decide (row.rnd < 6) && (if row.useB then row.reg else !row.reg && (!(row.imm || row.snap) || row.useI))

/-- The fields of words 1 and 2 that a row does not use are clear (R78). -/
def LaneRow.clear (row : LaneRow) (f : LaneF) (imm : BitVec 32) : Bool :=
  (row.useD || f.vd == 0) && (row.useA || f.va == 0) && (row.useI || imm == 0)

/-! The fields of the word of R79, or of the 0 that stands for it. -/

section
variable {f : LaneF} {a : Adm} (h : f.Admitted a)
include h

theorem prefixOr0_hasMen : f.prefixOr0.getLsbD 23 = f.men.isSome := by
  cases hp : f.pfx <;> simp [LaneF.prefixOr0, hp, h.noPrefix]

theorem prefixOr0_men : f.prefixOr0.extractLsb' 24 4 = f.men.getD 0 := by
  cases hp : f.pfx <;> simp [LaneF.prefixOr0, hp, h.noPrefix]

theorem prefixOr0_zero : f.prefixOr0.getLsbD 22 = f.zero := by
  cases hp : f.pfx <;> simp [LaneF.prefixOr0, hp, h.noPrefix]

theorem prefixOr0_rnd : f.prefixOr0.extractLsb' 19 3 = f.rnd := by
  cases hp : f.pfx <;> simp [LaneF.prefixOr0, hp, h.noPrefix]

theorem prefixOr0_hasVc : f.prefixOr0.getLsbD 18 = f.vc.isSome := by
  cases hp : f.pfx <;> simp [LaneF.prefixOr0, hp, h.noPrefix]

theorem prefixOr0_vc : f.prefixOr0.extractLsb' 8 10 = f.vc.getD 0 := by
  cases hp : f.pfx <;> simp [LaneF.prefixOr0, hp, h.noPrefix]
end

theorem prefixOr0_reserved (f : LaneF) : f.prefixOr0.extractLsb' 0 8 = 0 := by
  cases hp : f.pfx <;> simp [LaneF.prefixOr0, hp]

/-- A flag and a value from an optional field give it back. -/
theorem ite_isSome_getD {α : Type} (x : Option α) (d : α) : (if x.isSome then some (x.getD d) else none) = x := by
  cases x <;> rfl

/-- The word of R79 before an admitted instruction passes the checks of its row. -/
theorem pfxOk_prefixOr0 {f : LaneF} {row : LaneRow} {ints : Bool} (h : f.Admitted (row.adm f)) (hdata : row.noPfx = false)
    (hints : ints = true → f.rnd = 0#3) : pfxOk row f.pfx f.prefixOr0 ints = true := by
  have hmask : (!f.men.isSome || row.mask) = true := by
    cases hm : f.men.isSome
    · rfl
    · exact h.mask hm
  have hmen : (f.men.isSome || (f.men.getD 0 == 0 && !f.zero)) = true := by
    cases hm : f.men with
    | none => simp [h.zero (by simp [hm])]
    | some _ => rfl
  have hrnd : decide (f.rnd.toNat ≤ row.rnd) = true := decide_eq_true h.rnd
  have hneed : (f.vc.isSome == match row.vc with | .no => false | .req => true | .rs => f.rnd.toNat == 5) = true := by
    rw [h.vc]
    cases hv : row.vc <;> simp [LaneRow.adm, hv, BitVec.toNat_eq]
  have hvc : (f.vc.isSome || f.vc.getD 0 == 0) = true := by cases f.vc <;> rfl
  have hi : (!(ints && f.rnd.toNat != 0)) = true := by
    cases ints
    · rfl
    · simp [hints rfl]
  simp only [pfxOk, prefixOr0_hasMen h, prefixOr0_men h, prefixOr0_zero h, prefixOr0_rnd h, prefixOr0_hasVc h, prefixOr0_vc h,
    prefixOr0_reserved, hdata, hmask, hmen, hrnd, hvc, hi, Bool.and_false, Bool.not_false, Bool.true_and, Bool.true_or, Bool.and_true,
    beq_self_eq_true]
  exact hneed

/-- A row of a data instruction may follow a word of R79 and has the defined rounding codes; it admits a register exactly where it uses vb. -/
theorem forData_parts {row : LaneRow} (h : row.forData = true) :
    row.noPfx = false ∧ row.rnd < 6 ∧ row.reg = row.useB ∧ (row.useB = false → (!(row.imm || row.snap) || row.useI) = true) := by
  simp only [LaneRow.forData, Bool.and_eq_true, Bool.not_eq_true', decide_eq_true_eq] at h
  obtain ⟨⟨hpfx, hrnd⟩, hb⟩ := h
  refine ⟨hpfx, hrnd, ?_, fun hu => ?_⟩
  · cases hu : row.useB <;> simp_all
  · simp only [hu, Bool.false_eq_true, if_false, Bool.and_eq_true] at hb
    exact hb.2

section
variable {f : LaneF} {row : LaneRow} (h : f.Admitted (row.adm f)) (hdata : row.forData = true)
include h hdata

/-- Operand b of an admitted instruction is read back. -/
theorem opBOf_raw (md : BitVec 12) (imm : BitVec 32) : opBOf row (f.raw md imm) = f.b := by
  have hoperand := h.operand
  obtain ⟨-, -, hreg, -⟩ := forData_parts hdata
  cases hb : f.b with
  | reg r =>
    have hu : row.useB = true := by simpa [hb, Adm.takes, LaneRow.adm, hreg] using hoperand
    simp [opBOf, LaneF.raw, hb, OpB.kind, OpB.vb, hu]
  | imm w => simp [opBOf, LaneF.raw, hb, OpB.kind, OpB.word2]
  | snap n => simp [opBOf, LaneF.raw, hb, OpB.kind, OpB.vb, BitVec.extractLsb'_append_eq_right (w' := 4)]
  | none =>
    have hu : row.useB = false := by simpa [hb, Adm.takes, LaneRow.adm] using hoperand
    simp [opBOf, LaneF.raw, hb, OpB.kind, hu]

/-- The shared fields of an admitted instruction are read back. -/
theorem sharedOf_raw (md : BitVec 12) (imm : BitVec 32) : sharedOf row f.ty f.pfx f.prefixOr0 (f.raw md imm) = f := by
  rw [sharedOf, opBOf_raw h hdata, prefixOr0_hasMen h, prefixOr0_men h, prefixOr0_zero h, prefixOr0_rnd h, prefixOr0_hasVc h, prefixOr0_vc h,
    ite_isSome_getD, ite_isSome_getD]
  rfl

/-- The kind of its operand b is one the row admits. -/
theorem bkOk_kind : bkOk row f.b.kind = true := by
  have hoperand := h.operand
  obtain ⟨-, -, hreg, hnone⟩ := forData_parts hdata
  cases hb : f.b with
  | none =>
    have hu : row.useB = false := by simpa [hb, Adm.takes, LaneRow.adm] using hoperand
    simpa [bkOk, OpB.kind, hreg, hu] using hnone hu
  | _ => simp_all [bkOk, OpB.kind, Adm.takes, LaneRow.adm]

/-- The fields that its row does not use are clear. -/
theorem unusedOk_raw {md : BitVec 12} {imm : BitVec 32} (hclear : row.clear f imm = true) : unusedOk row (f.raw md imm) = true := by
  have hoperand := h.operand
  simp only [LaneRow.clear, Bool.and_eq_true] at hclear
  obtain ⟨-, -, hreg, -⟩ := forData_parts hdata
  cases hb : f.b with
  | reg r =>
    have hu : row.useB = true := by simpa [hb, Adm.takes, LaneRow.adm, hreg] using hoperand
    simpa [unusedOk, LaneF.raw, hb, OpB.kind, OpB.word2, hu] using hclear
  | imm w => simpa [unusedOk, LaneF.raw, hb, OpB.kind, OpB.vb] using hclear.1
  | snap n =>
    simpa [unusedOk, LaneF.raw, hb, OpB.kind, OpB.vb, OpB.word2, BitVec.extractLsb'_append_eq_of_le (w := 4)] using hclear
  | none => simpa [unusedOk, LaneF.raw, hb, OpB.kind, OpB.vb, OpB.word2] using hclear
end

/-! ## Decoding what a row builds -/

/-- The words of an admitted data instruction decode to what its row builds. -/
theorem decodeLane_build {op md : BitVec 12} {f : LaneF} {imm : BitVec 32} {row : LaneRow} {i : Instr} (hrow : laneRow op.toNat = some row)
    (hok : f.ok (row.adm f) = true) (hdata : row.forData = true) (hclear : row.clear f imm = true)
    (hmem : decodeLaneBody.memTypeBad op.toNat f.ty (md.extractLsb' 0 3) = false) (hints : cvtInts op f.ty.code md = true → f.rnd = 0#3)
    (hbuild : row.build f (f.raw md imm) = .ok (i, true)) : decodeLane (wordsL op md f imm) = .ok i := by
  have h := admitted_of_ok hok
  obtain ⟨hpfx, hrnd, -, -⟩ := forData_parts hdata
  have hraw : rawOf (laneW0 op f.ty.code md) (laneW1 f.b.kind f.vd f.va f.b.vb) (f.b.word2 imm) = f.raw md imm := by
    simp [rawOf, LaneF.raw]
  rw [decodeLane_wordsL]
  refine decodeLaneBody_ok hraw hrow (pfxOk_prefixOr0 h hpfx hints) ?_ h.type hmem (bkOk_kind h hdata) (unusedOk_raw h hdata hclear) ?_
  · rw [prefixOr0_rnd h]
    exact Nat.lt_of_le_of_lt h.rnd hrnd
  · rw [sharedOf_raw h hdata]
    exact hbuild

end Sys2Proof
end

section
/-! The round trips of the three streams: `Obligations.ScalarRoundTrip`, `Obligations.TeamRoundTrip`, `Obligations.LaneRoundTrip`. The words of every
well-formed instruction spell it, by the instruction's format; each obligation is that statement for one number of words. -/
namespace Sys2Proof

open BitVec Machine

/-- The words decode to the instruction in the stream that their number names, and their number is what the first of them says. -/
def Spells (ws : List (BitVec 32)) (i : Instr) : Prop :=
  decodeIn (streamOfBits (32 * ws.length)) ws = .ok i ∧ wordsFrom (streamOfBits (32 * ws.length)) (ws.headD 0) = ws.length

theorem spells_scalar {w : BitVec 32} {i : Instr} (h : decodeScalar w = .ok i) : Spells [w] i := ⟨h, rfl⟩

theorem spells_team {w : BitVec 64} {i : Instr} (h : decodeTeam w = .ok i) : Spells (halves w) i := by
  have hw : w.extractLsb' 32 32 ++ w.extractLsb' 0 32 = w :=
    (BitVec.extractLsb'_append_extractLsb'_eq_extractLsb' rfl).trans BitVec.extractLsb'_eq_self
  exact ⟨(congrArg decodeTeam hw).trans h, rfl⟩

theorem spells_wordsL {op md : BitVec 12} {f : LaneF} {imm : BitVec 32} {i : Instr} (h : decodeLane (wordsL op md f imm) = .ok i) :
    Spells (wordsL op md f imm) i := by
  rw [wordsL_eq] at h ⊢
  cases hp : f.pfx <;> rw [hp] at h
  · exact ⟨h, by simp [streamOfBits, wordsFrom]⟩
  · exact ⟨h, by simp [streamOfBits, wordsFrom]⟩

theorem spells_wordsC {op md : BitVec 12} {w1 imm : BitVec 32} {i : Instr} (h : decodeLane (wordsC op md w1 imm) = .ok i) :
    Spells (wordsC op md w1 imm) i := by
  refine ⟨h, ?_⟩
  have hc : (0xA#4 ++ op ++ 0#4 ++ md).extractLsb' 28 4 = 0xA#4 := laneW0_class op 0#4 md
  simp [streamOfBits, wordsFrom, wordsC, hc]

/-! ## Lane data instructions (R83, R84) -/

/-- The opcodes whose type is not tied to another field: all but VLD, VATOM, VCAS and VCVT. -/
def freeType (op : BitVec 12) : Bool := !([0x080, 0x0C0, 0x0C4, 0x0C5] : List Nat).contains op.toNat

/-- Every row but VCVT's. -/
theorem spells_row {op md : BitVec 12} {f : LaneF} {imm : BitVec 32} {row : LaneRow} {i : Instr} (hrow : laneRow op.toNat = some row)
    (hok : f.ok (row.adm f) = true) (hdata : row.forData = true) (hcvt : (op.toNat == 0x080) = false) (hclear : row.clear f imm = true)
    (hmem : decodeLaneBody.memTypeBad op.toNat f.ty (md.extractLsb' 0 3) = false) (hbuild : row.build f (f.raw md imm) = .ok (i, true)) :
    Spells (wordsL op md f imm) i :=
  spells_wordsL (decodeLane_build hrow hok hdata hclear hmem (fun hc => by simp [cvtInts, hcvt] at hc) hbuild)

/-- The rows that use all their register fields and have no immediate of their own. -/
theorem spells_data {op md : BitVec 12} {f : LaneF} {row : LaneRow} {i : Instr} (hrow : laneRow op.toNat = some row) (hok : f.ok (row.adm f) = true)
    (hdata : (row.forData && row.useD && row.useA) = true) (hfree : freeType op = true) (hbuild : row.build f (f.raw md 0) = .ok (i, true)) :
    Spells (wordsL op md f 0) i := by
  simp only [Bool.and_eq_true] at hdata
  obtain ⟨⟨hdata, hD⟩, hA⟩ := hdata
  have hop : op.toNat ≠ 0x080 ∧ op.toNat ≠ 0x0C0 ∧ op.toNat ≠ 0x0C4 ∧ op.toNat ≠ 0x0C5 := by simpa [freeType] using hfree
  exact spells_row hrow hok hdata (by simp [hop]) (by simp [LaneRow.clear, hD, hA]) (by simp [decodeLaneBody.memTypeBad, hop]) hbuild

/-! ### What the rows of `laneRow` build -/

section
variable (f : LaneF) (imm : BitVec 32)

@[simp] theorem raw_md (md : BitVec 12) : (f.raw md imm).md = md := rfl
@[simp] theorem raw_bk (md : BitVec 12) : (f.raw md imm).bk = f.b.kind := rfl
@[simp] theorem raw_vb (md : BitVec 12) : (f.raw md imm).vb = f.b.vb := rfl
@[simp] theorem raw_imm (md : BitVec 12) : (f.raw md imm).imm = f.b.word2 imm := rfl

theorem mkPlain_raw (k : LaneF → Instr) : mkPlain k f (f.raw 0 imm) = .ok (k f, true) := rfl

theorem mkBit_raw (k : LaneF → Bool → Instr) (s : Bool) : mkBit k f (f.raw (0#11 ++ bit1 s) imm) = .ok (k f s, true) := by
  simp [mkBit, LaneF.raw, getElem_append (m := 1), extractLsb'_append_eq_of_le (w := 1)]

theorem mkMask_raw (k : LaneF → BitVec 4 → Instr) (m : BitVec 4) : mkMask k f (f.raw (0#8 ++ m) imm) = .ok (k f m, true) := by
  simp [mkMask, LaneF.raw, extractLsb'_append_eq_right (w' := 4), extractLsb'_append_eq_of_le (w := 4)]
end

section
variable (k : BitVec 4) (sz : MSize) (o : MOrder) (sc : Scope)

@[simp] theorem memMd_size : (memMd k sz o sc).extractLsb' 0 3 = sz.code := extractLsb'_append_eq_right (w' := 3)
@[simp] theorem memMd_scope : (memMd k sz o sc).extractLsb' 3 3 = sc.code := by
  simp [memMd, extractLsb'_append_eq_of_le (w := 3), extractLsb'_append_eq_right (w' := 3)]
@[simp] theorem memMd_order : (memMd k sz o sc).extractLsb' 6 2 = o.code := by
  simp [memMd, extractLsb'_append_eq_of_le (w := 3), extractLsb'_append_eq_right (w' := 2)]
@[simp] theorem memMd_op : (memMd k sz o sc).extractLsb' 8 4 = k := by
  simp [memMd, extractLsb'_append_eq_of_le (w := 3), extractLsb'_append_eq_of_le (w := 2)]
end

theorem mkMem_raw {relOk acqOk bothOk : Bool} (k : LaneF → MSize → MOrder → Scope → BitVec 32 → Instr) (f : LaneF) (sz : MSize)
    {o : MOrder} {sc : Scope} (imm : BitVec 32) (hb : f.b.word2 imm = imm) (ho : orderOk relOk acqOk bothOk o = true)
    (hsc : (bothOk || o != .relaxed || sc == .grp) = true) :
    mkMem relOk acqOk bothOk k f (f.raw (memMd 0 sz o sc) imm) = .ok (k f sz o sc imm, true) := by
  simp only [mkMem, LaneF.raw, memMd_size, memMd_scope, memMd_order, memMd_op, msizeOf_code, scopeOf_code, morderOf_code, lcode_some, ho, hsc, hb,
    Bool.not_true, Bool.false_eq_true, if_false]
  rfl

/-- An instruction whose row admits no immediate operand b keeps its own immediate in word 2. -/
theorem word2_of_ok {f : LaneF} {a : Adm} (hok : f.ok a = true) (ha : a.imm = false) (own : BitVec 32) : f.b.word2 own = own := by
  have hoperand := (admitted_of_ok hok).operand
  cases hb : f.b with
  | imm w => simp [hb, Adm.takes, ha] at hoperand
  | _ => rfl

/-- A mask-register destination leaves the high bits of vd clear (R84). -/
theorem kdOk_raw {f : LaneF} (h : f.vd.toNat < 16) (md : BitVec 12) (imm : BitVec 32) : kdOk (f.raw md imm) = true := by
  have hz : f.vd.extractLsb' 4 6 = 0#6 := by
    apply eq_of_toNat_eq
    rw [extractLsb'_toNat, Nat.shiftRight_eq_div_pow, toNat_ofNat]
    omega
  simp [kdOk, LaneF.raw, hz]

/-! ### Rows with checks of their own (R85, R86, R192, R222, R237, R239) -/

theorem spells_vcmp {f : LaneF} {c : VCond} {any : Bool} (h : (Instr.vcmp f c any).wf = true) :
    Spells (encode (.vcmp f c any)) (.vcmp f c any) := by
  obtain ⟨hf, hany⟩ := Bool.and_eq_true_iff.1 h
  obtain ⟨hok, hd⟩ := Bool.and_eq_true_iff.1 hf
  refine spells_data rfl hok rfl rfl ?_
  simpa [rowB, kdOk_raw (of_decide_eq_true hd), extractLsb'_append_eq_of_le (w := 3), extractLsb'_append_eq_of_le (w := 1),
    extractLsb'_append_eq_right (w' := 3), getElem_append (m := 3), getElem_append (m := 1)] using hany

theorem spells_vfcmp {f : LaneF} {c : FCond} {sig any : Bool} (h : (Instr.vfcmp f c sig any).wf = true) :
    Spells (encode (.vfcmp f c sig any)) (.vfcmp f c sig any) := by
  obtain ⟨hf, hany⟩ := Bool.and_eq_true_iff.1 h
  obtain ⟨hok, hd⟩ := Bool.and_eq_true_iff.1 hf
  refine spells_data rfl hok rfl rfl ?_
  simpa [rowB, kdOk_raw (of_decide_eq_true hd), extractLsb'_append_eq_of_le (w := 4), extractLsb'_append_eq_of_le (w := 1),
    extractLsb'_append_eq_right (w' := 4), getElem_append (m := 4), getElem_append (m := 1)] using hany

theorem spells_vballot {f : LaneF} (h : (Instr.vballot f).wf = true) : Spells (encode (.vballot f)) (.vballot f) := by
  obtain ⟨hok, hd⟩ := Bool.and_eq_true_iff.1 h
  refine spells_data rfl hok rfl rfl ?_
  simp [rowN, kdOk_raw (of_decide_eq_true hd)]

@[simp] theorem qdstOf_qcode {p : PackFmt} (h : p ≠ .own) : qdstOf p.qcode = some p := by
  cases p with
  | own => exact absurd rfl h
  | _ => rfl

theorem spells_vqscale {f : LaneF} {p : PackFmt} {m : Bool} (h : (Instr.vqscale f p m).wf = true) :
    Spells (encode (.vqscale f p m)) (.vqscale f p m) := by
  obtain ⟨hok, hp⟩ := Bool.and_eq_true_iff.1 h
  have hq := qdstOf_qcode (bne_iff_ne.1 hp)
  refine spells_data rfl hok rfl rfl ?_
  simp [rowN, hq, extractLsb'_append_eq_of_le (w := 2), extractLsb'_append_eq_of_le (w := 1), extractLsb'_append_eq_right (w' := 2),
    getElem_append (m := 2), getElem_append (m := 1)]

theorem spells_vamax {f : LaneF} {p : Span} (h : (Instr.vamax f p).wf = true) : Spells (encode (.vamax f p)) (.vamax f p) := by
  refine spells_data rfl h rfl rfl ?_
  simp [rowN, extractLsb'_append_eq_of_le (w := 2), extractLsb'_append_eq_right (w' := 2)]

theorem spells_vunpk {f : LaneF} {p : UnpkSrc} {s : Bool} (h : (Instr.vunpk f p s).wf = true) :
    Spells (encode (.vunpk f p s)) (.vunpk f p s) := by
  refine spells_data rfl h rfl rfl ?_
  simp [rowRS, extractLsb'_append_eq_of_le (w := 3), extractLsb'_append_eq_of_le (w := 1), extractLsb'_append_eq_right (w' := 3),
    getElem_append (m := 3), getElem_append (m := 1)]

/-- What a floating type does not take of the reductions (R192), as the decoder asks it. -/
theorem red_admitted {ty : LType} {o : RedOp} (h : (ty.isInt || o == .add || o == .min || o == .max) = true) :
    (!ty.isInt && o != .add && o != .min && o != .max) = false := by
  simp only [bne, ← Bool.not_or, h, Bool.not_true]

theorem spells_vred {f : LaneF} {o : RedOp} (h : (Instr.vred f o).wf = true) : Spells (encode (.vred f o)) (.vred f o) := by
  obtain ⟨hok, ho⟩ := Bool.and_eq_true_iff.1 h
  have hmd : (0#9 ++ o.code).extractLsb' 0 3 = o.code := extractLsb'_append_eq_right (w' := 3)
  refine spells_data rfl hok rfl rfl ?_
  simp only [rowN, raw_md, hmd, redOf_code, lcode_some, red_admitted ho, Bool.false_eq_true, if_false]
  simp [extractLsb'_append_eq_of_le (w := 3)]

theorem spells_vscan {f : LaneF} {o : RedOp} {x : Bool} (h : (Instr.vscan f o x).wf = true) :
    Spells (encode (.vscan f o x)) (.vscan f o x) := by
  obtain ⟨hok, ho⟩ := Bool.and_eq_true_iff.1 h
  have hmd : (0#8 ++ bit1 x ++ o.code).extractLsb' 0 3 = o.code := extractLsb'_append_eq_right (w' := 3)
  refine spells_data rfl hok rfl rfl ?_
  simp only [rowN, raw_md, hmd, redOf_code, lcode_some, red_admitted ho, Bool.false_eq_true, if_false]
  simp [extractLsb'_append_eq_of_le (w := 3), extractLsb'_append_eq_of_le (w := 1), getElem_append (m := 3), getElem_append (m := 1)]

/-- VLUT: a codebook in the snapshot begins at a multiple of four, and a pair at an even nibble. -/
theorem spells_vlut {f : LaneF} {j : BitVec 3} {pair : Bool} (h : (Instr.vlut f j pair).wf = true) :
    Spells (encode (.vlut f j pair)) (.vlut f j pair) := by
  obtain ⟨hf, hb⟩ := Bool.and_eq_true_iff.1 h
  obtain ⟨hok, hj⟩ := Bool.and_eq_true_iff.1 hf
  have hsnap : (f.b.kind == 2 && f.b.vb.extractLsb' 0 2 != 0) = false := by
    cases hk : f.b with
    | snap n =>
      have hn : n.toNat % 4 = 0 := by simpa [hk] using hb
      have hz : (0#6 ++ n).extractLsb' 0 2 = 0#2 := by
        rw [extractLsb'_append_eq_of_add_le (w := 4) (by decide)]
        exact eq_of_toNat_eq (by simpa using hn)
      simp [OpB.kind, OpB.vb, hz]
    | _ => rfl
  have hodd : (pair && j.getLsbD 0) = false := by
    cases pair
    · rfl
    · simpa using hj
  have hsub : (0#8 ++ bit1 pair ++ j).extractLsb' 0 3 = j := extractLsb'_append_eq_right (w' := 3)
  have hpair : (0#8 ++ bit1 pair ++ j).getLsbD 3 = pair := by simp [getElem_append (m := 3), getElem_append (m := 1)]
  have hlow : (0#8 ++ bit1 pair ++ j).getLsbD 0 = j.getLsbD 0 := by simp [getElem_append (m := 3)]
  refine spells_data rfl hok rfl rfl ?_
  simp only [rowRS, raw_md, raw_bk, raw_vb, hsnap, hsub, hpair, hlow, hodd, Bool.false_eq_true, if_false]
  simp [extractLsb'_append_eq_of_le (w := 3), extractLsb'_append_eq_of_le (w := 1)]

section
variable (sat hi : Bool) (fmt : BitVec 2)

@[simp] theorem packMd_fmt : (0#8 ++ bit1 sat ++ bit1 hi ++ fmt).extractLsb' 0 2 = fmt := extractLsb'_append_eq_right (w' := 2)
@[simp] theorem packMd_hi : (0#8 ++ bit1 sat ++ bit1 hi ++ fmt)[2] = hi := by
  simp [getElem_append (m := 2), getElem_append (m := 1)]
@[simp] theorem packMd_sat : (0#8 ++ bit1 sat ++ bit1 hi ++ fmt)[3] = sat := by
  simp [getElem_append (m := 2), getElem_append (m := 1)]
@[simp] theorem packMd_reserved : (0#8 ++ bit1 sat ++ bit1 hi ++ fmt).extractLsb' 4 8 = 0#8 := by
  simp [extractLsb'_append_eq_of_le (w := 2), extractLsb'_append_eq_of_le (w := 1)]
end

theorem packOf_code {p : PackFmt} (h : p ≠ .own) : packOf p.code = some p := by
  cases p with
  | own => exact absurd rfl h
  | _ => rfl

/-- VCVPK2: the destination's own format where the type is a 16-bit one, else a format of FP8 (R222, R239). -/
theorem spells_vcvpk2 {f : LaneF} {p : PackFmt} {hi sat : Bool} (h : (Instr.vcvpk2 f p hi sat).wf = true) :
    Spells (encode (.vcvpk2 f p hi sat)) (.vcvpk2 f p hi sat) := by
  obtain ⟨hok, hp⟩ := Bool.and_eq_true_iff.1 h
  refine spells_data rfl hok rfl rfl ?_
  cases p with
  | own =>
    obtain ⟨hty, rfl⟩ : f.ty ≠ .w32 ∧ hi = false := by simpa using hp
    have hown : PackFmt.own.code = 0 := rfl
    simp [rowN, mkPack, hty, hown]
  | e2m1 => cases hp
  | e4m3 | e5m2 =>
    have hty : f.ty = .w32 := by simpa using hp
    simp [rowN, mkPack, hty, packOf_code]

/-- VCVPK4: FP4 fills either half of the destination, FP8 all of it (R222, R239). -/
theorem spells_vcvpk4 {f : LaneF} {p : PackFmt} {hi sat : Bool} (h : (Instr.vcvpk4 f p hi sat).wf = true) :
    Spells (encode (.vcvpk4 f p hi sat)) (.vcvpk4 f p hi sat) := by
  obtain ⟨hok, hp⟩ := Bool.and_eq_true_iff.1 h
  refine spells_data rfl hok rfl rfl ?_
  cases p with
  | own => cases hp
  | e2m1 => simp [rowN, mkPack, packOf_code]
  | e4m3 | e5m2 =>
    obtain rfl : hi = false := by simpa using hp
    simp [rowN, mkPack, packOf_code]

@[simp] theorem intCode_code (t : LType) : intCode t.code = t.isInt := by cases t <;> rfl

/-- VCVT: a source type with elements of the destination's number, and a combination of R237. -/
theorem spells_vcvt {f : LaneF} {src : LType} {sat : Bool} (h : (Instr.vcvt f src sat).wf = true) :
    Spells (encode (.vcvt f src sat)) (.vcvt f src sat) := by
  obtain ⟨hf, hrnd⟩ := Bool.and_eq_true_iff.1 h
  obtain ⟨hok, hcvt⟩ := Bool.and_eq_true_iff.1 hf
  obtain ⟨⟨⟨hw, hne⟩, he⟩, -⟩ : ((src ≠ .w32 ∧ src ≠ f.ty) ∧ src.elems = f.ty.elems) ∧
      (!sat || (f.ty.isInt && src.isInt) || ((f.ty == .f16x2 || f.ty == .bf16x2) && src.isFp)) = true := by
    simpa only [vcvtOk, Bool.and_eq_true, bne_iff_ne, beq_iff_eq] using hcvt
  have hbuild : mkCvt f (f.raw (0#7 ++ bit1 sat ++ src.code) 0) = .ok (.vcvt f src sat, true) := by
    cases src with
    | w32 => exact absurd rfl hw
    | _ =>
      simp [mkCvt, extractLsb'_append_eq_of_le (w := 4), extractLsb'_append_eq_of_le (w := 1), extractLsb'_append_eq_right (w' := 4),
        getElem_append (m := 4), getElem_append (m := 1), hne, he, hcvt]
  refine spells_wordsL (decodeLane_build rfl hok rfl rfl rfl (fun hc => ?_) hbuild)
  have hints : f.ty.isInt = true ∧ src.isInt = true := by simpa [cvtInts, extractLsb'_append_eq_right (w' := 4)] using hc
  simpa [hints] using hrnd

/-! ### Memory instructions (R85) -/

theorem spells_vld {f : LaneF} {sz : MSize} {o : MOrder} {sc : Scope} {imm : BitVec 32} (h : (Instr.vld f sz o sc imm).wf = true) :
    Spells (encode (.vld f sz o sc imm)) (.vld f sz o sc imm) := by
  obtain ⟨hs, hty⟩ := Bool.and_eq_true_iff.1 h
  obtain ⟨hf, hsc⟩ := Bool.and_eq_true_iff.1 hs
  obtain ⟨hok, ho⟩ := Bool.and_eq_true_iff.1 hf
  have hmem : decodeLaneBody.memTypeBad (0xC0#12).toNat f.ty sz.code = false := by
    cases sz <;> simp_all [decodeLaneBody.memTypeBad, MSize.code]
  exact spells_row rfl hok rfl rfl rfl (by rw [memMd_size]; exact hmem) (mkMem_raw .vld f sz imm (word2_of_ok hok rfl imm) ho hsc)

theorem spells_vst {f : LaneF} {sz : MSize} {o : MOrder} {sc : Scope} {imm : BitVec 32} (h : (Instr.vst f sz o sc imm).wf = true) :
    Spells (encode (.vst f sz o sc imm)) (.vst f sz o sc imm) := by
  obtain ⟨hf, hsc⟩ := Bool.and_eq_true_iff.1 h
  obtain ⟨hok, ho⟩ := Bool.and_eq_true_iff.1 hf
  exact spells_row rfl hok rfl rfl rfl rfl (mkMem_raw .vst f sz imm (word2_of_ok hok rfl imm) ho hsc)

/-- The size that an atomic's type asks for passes the check of types against sizes. -/
theorem memTypeBad_atomic {op : Nat} (hop : op = 0x0C4 ∨ op = 0x0C5) {ty : LType} {sz : MSize}
    (h : (if ty.is64 then sz == .d else sz == .w) = true) : decodeLaneBody.memTypeBad op ty sz.code = false := by
  have hs : sz.code.toNat = if ty.is64 then 3 else 2 := by
    cases hty : ty.is64 <;> simp only [hty, if_true, Bool.false_eq_true, if_false, beq_iff_eq] at h <;> subst h <;> rfl
  obtain rfl | rfl := hop <;> simp [decodeLaneBody.memTypeBad, hs]

theorem spells_vatom {f : LaneF} {op : AtomOp} {sz : MSize} {o : MOrder} {sc : Scope} {imm : BitVec 32}
    (h : (Instr.vatom f op sz o sc imm).wf = true) : Spells (encode (.vatom f op sz o sc imm)) (.vatom f op sz o sc imm) := by
  obtain ⟨hok, hat⟩ := Bool.and_eq_true_iff.1 h
  refine spells_row rfl hok rfl rfl rfl ?_ ?_
  · rw [memMd_size]
    exact memTypeBad_atomic (.inl rfl) (Bool.and_eq_true_iff.1 hat).2
  · simp [rowM, hat, word2_of_ok hok rfl]

theorem spells_vcas {f : LaneF} {sz : MSize} {o : MOrder} {sc : Scope} {imm : BitVec 32} (h : (Instr.vcas f sz o sc imm).wf = true) :
    Spells (encode (.vcas f sz o sc imm)) (.vcas f sz o sc imm) := by
  obtain ⟨hok, hsz⟩ := Bool.and_eq_true_iff.1 h
  refine spells_row rfl hok rfl rfl rfl ?_ (mkMem_raw _ f sz imm (word2_of_ok hok rfl imm) ?_ rfl)
  · rw [memMd_size]
    exact memTypeBad_atomic (.inr rfl) hsz
  · cases o <;> rfl

theorem spells_vpref {f : LaneF} {imm : BitVec 32} (h : (Instr.vpref f imm).wf = true) :
    Spells (encode (.vpref f imm)) (.vpref f imm) := by
  obtain ⟨hok, hd⟩ := Bool.and_eq_true_iff.1 h
  refine spells_row rfl hok rfl rfl ?_ rfl ?_
  · simpa [LaneRow.clear, rowM] using hd
  · simp [rowM, word2_of_ok hok rfl, scopeOf]

/-! ### Fen instructions (R86) and VMOV -/

section
variable (k : Bool) (sc : Scope)

@[simp] theorem fenMd_blocking : (fenMd k sc)[0] = k := by simp [fenMd, getElem_append (m := 1)]
@[simp] theorem fenMd_scope : (fenMd k sc).extractLsb' 1 3 = sc.code := by
  simp [fenMd, extractLsb'_append_eq_of_le (w := 1), extractLsb'_append_eq_right (w' := 3)]
@[simp] theorem fenMd_reserved : (fenMd k sc).extractLsb' 4 8 = 0#8 := by
  simp [fenMd, extractLsb'_append_eq_of_le (w := 1), extractLsb'_append_eq_of_le (w := 3)]
end

theorem spells_fdep {f : LaneF} {k : Bool} {sc : Scope} (h : (Instr.fdep f k sc).wf = true) :
    Spells (encode (.fdep f k sc)) (.fdep f k sc) := by
  obtain ⟨hok, ha⟩ := Bool.and_eq_true_iff.1 h
  refine spells_row rfl hok rfl rfl ?_ rfl ?_
  · simpa [LaneRow.clear, rowRS] using ha
  · simp [rowRS, mkFen, word2_of_ok hok rfl]

/-- FCPY and FTAKE: a constructor with selectors none of which is the reserved code. -/
theorem mkFen_raw (ctor : LaneF → Bool → Scope → BitVec 14 → Instr) {f : LaneF} {k : Bool} {sc : Scope} {sel : BitVec 14}
    (hb : f.b.word2 (0#18 ++ sel) = 0#18 ++ sel) (hsel : selOk sel = true) :
    mkFen false ctor f (f.raw (fenMd k sc) (0#18 ++ sel)) = .ok (ctor f k sc sel, true) := by
  simp [mkFen, hb, hsel, extractLsb'_append_eq_right (w' := 14), extractLsb'_append_eq_of_le (w := 14)]

theorem spells_vmov {f : LaneF} (h : (Instr.vmov f).wf = true) : Spells (encode (.vmov f)) (.vmov f) := by
  obtain ⟨hok, ha⟩ := Bool.and_eq_true_iff.1 h
  refine spells_row rfl hok rfl rfl ?_ rfl (mkPlain_raw f 0 .vmov)
  simpa [LaneRow.clear, rowB] using ha

/-! ## Mask and control instructions (R87, R199) -/

/-- Words without one of R79 that decode to what their row builds; `hw` names the fields of word 1. -/
theorem spells_control {op md : BitVec 12} {w1 imm : BitVec 32} {bk : BitVec 2} {vd va vb : BitVec 10} {row : LaneRow} {i : Instr}
    (hw : w1 = laneW1 bk vd va vb) (hrow : laneRow op.toNat = some row) (hvc : row.vc = .no) (hty : row.tys = [.w32])
    (hmem : decodeLaneBody.memTypeBad op.toNat .w32 (md.extractLsb' 0 3) = false) (hbk : bkOk row bk = true)
    (hun : unusedOk row ⟨0, md, bk, vd, va, vb, imm⟩ = true) (hbuild : ∀ f, row.build f ⟨0, md, bk, vd, va, vb, imm⟩ = .ok (i, true)) :
    Spells (wordsC op md w1 imm) i := by
  subst hw
  have hraw : rawOf (laneW0 op LType.w32.code md) (laneW1 bk vd va vb) imm = ⟨0, md, bk, vd, va, vb, imm⟩ := by
    simp [rawOf, LType.code]
  refine spells_wordsC ((decodeLane_wordsC ..).trans (decodeLaneBody_ok hraw hrow ?_ (by simp) (by simp [hty]) hmem hbk hun (hbuild _)))
  simp [pfxOk, hvc]

/-- A mask instruction; KNOT and KMOV leave vb clear. -/
theorem spells_kmask {op : BitVec 12} {d a b : BitVec 4} {two : Bool} {k : LaneRaw → Instr} {i : Instr}
    (hrow : laneRow op.toNat = some (kRow two k)) (hmem : decodeLaneBody.memTypeBad op.toNat .w32 (0#3) = false)
    (hb : two = false → b = 0) (hk : k ⟨0, 0, 0, 0#6 ++ d, 0#6 ++ a, 0#6 ++ b, 0⟩ = i) :
    Spells (wordsC op 0 (kw1 d a b) 0) i := by
  refine spells_control (bk := 0) (vd := 0#6 ++ d) (va := 0#6 ++ a) (vb := 0#6 ++ b) rfl hrow rfl rfl hmem ?_ ?_ fun f => ?_
  · cases two <;> rfl
  · cases two
    · simp [unusedOk, kRow, hb]
    · simp [unusedOk, kRow]
  · subst hk
    simp [kRow, extractLsb'_append_eq_of_le (w := 4)]

theorem spells_vbr {k : BitVec 4} {inv : Bool} {off : BitVec 32} {j : BitVec 30} :
    Spells (encode (.vbr k inv off j)) (.vbr k inv off j) := by
  have hw : 0#2 ++ j = laneW1 0 (j.extractLsb' 20 10) (j.extractLsb' 10 10) (j.extractLsb' 0 10) := by
    rw [← laneW1_fields (0#2 ++ j)]
    simp [extractLsb'_append_eq_of_le (w := 30), extractLsb'_append_eq_of_add_le (w := 30)]
  have hj : j.extractLsb' 20 10 ++ j.extractLsb' 10 10 ++ j.extractLsb' 0 10 = j := by
    have h20 : j.extractLsb' 20 10 ++ j.extractLsb' 10 10 = j.extractLsb' 10 20 := extractLsb'_append_extractLsb'_eq_extractLsb' rfl
    rw [h20]
    exact (extractLsb'_append_extractLsb'_eq_extractLsb' rfl).trans extractLsb'_eq_self
  have hmd : (0#7 ++ bit1 inv ++ k).extractLsb' 0 4 = k := extractLsb'_append_eq_right (w' := 4)
  refine spells_control hw rfl rfl rfl rfl rfl rfl fun f => ?_
  simp [ctl, hj, hmd, extractLsb'_append_eq_of_le (w := 4), extractLsb'_append_eq_of_le (w := 1), getElem_append (m := 4), getElem_append (m := 1)]

/-- A control instruction without fields. -/
theorem spells_bare {op : BitVec 12} {i : Instr} (hrow : laneRow op.toNat = some (ctl false false fun r => .ok (i, r.md == 0)))
    (hmem : decodeLaneBody.memTypeBad op.toNat .w32 (0#3) = false) : Spells (wordsC op 0 0 0) i :=
  spells_control (bk := 0) (vd := 0) (va := 0) (vb := 0) (by decide) hrow rfl rfl hmem rfl rfl fun _ => rfl

/-- VJMP and VCALL: a displacement in word 2. -/
theorem spells_jump {op : BitVec 12} {off : BitVec 32} {k : BitVec 32 → Instr}
    (hrow : laneRow op.toNat = some (ctl false true fun r => .ok (k r.imm, r.md == 0)))
    (hmem : decodeLaneBody.memTypeBad op.toNat .w32 (0#3) = false) : Spells (wordsC op 0 0 off) (k off) :=
  spells_control (bk := 0) (vd := 0) (va := 0) (vb := 0) (by decide) hrow rfl rfl hmem rfl rfl fun _ => rfl

/-- VBRK and VTRAP: a code in the low bits of word 2. -/
theorem spells_code {op : BitVec 12} {c : BitVec 13} {k : BitVec 13 → Instr}
    (hrow : laneRow op.toNat = some (ctl false true fun r => .ok (k (r.imm.extractLsb' 0 13), r.md == 0 && r.imm.extractLsb' 13 19 == 0)))
    (hmem : decodeLaneBody.memTypeBad op.toNat .w32 (0#3) = false) : Spells (wordsC op 0 0 (0#19 ++ c)) (k c) := by
  refine spells_control (bk := 0) (vd := 0) (va := 0) (vb := 0) (by decide) hrow rfl rfl hmem rfl rfl fun _ => ?_
  simp [ctl, extractLsb'_append_eq_right (w' := 13), extractLsb'_append_eq_of_le (w := 13)]

theorem spells_vcallv {a : BitVec 10} : Spells (encode (.vcallv a)) (.vcallv a) :=
  spells_control (bk := 0) (vd := 0) (va := a) (vb := 0) rfl rfl rfl rfl rfl rfl rfl fun _ => rfl

theorem spells_regrp {a base : BitVec 10} {count : BitVec 7} (h : (Instr.regrp a base count).wf = true) :
    Spells (encode (.regrp a base count)) (.regrp a base count) := by
  obtain ⟨h1, h64⟩ := Bool.and_eq_true_iff.1 h
  have hn : ¬ (count.toNat = 0 ∨ 64 < count.toNat) := by
    have := of_decide_eq_true h1
    have := of_decide_eq_true h64
    omega
  refine spells_control (bk := 0) (vd := 0) (va := a) (vb := 0) rfl rfl rfl rfl rfl rfl rfl fun _ => ?_
  have hcount : (0#15 ++ count ++ base).extractLsb' 10 7 = count := by
    simp [extractLsb'_append_eq_of_le (w := 10), extractLsb'_append_eq_right (w' := 7)]
  simp only [ctl, hcount]
  rw [if_neg (by simpa using hn)]
  simp [extractLsb'_append_eq_right (w' := 10), extractLsb'_append_eq_of_le (w := 10), extractLsb'_append_eq_of_le (w := 7)]

theorem spells_vwaitc {l s c t : BitVec 3} : Spells (encode (.vwaitc l s c t)) (.vwaitc l s c t) := by
  refine spells_control (bk := 0) (vd := 0) (va := 0) (vb := 0) (by decide) rfl rfl rfl rfl rfl rfl fun _ => ?_
  simp [ctl, extractLsb'_append_eq_of_le (w := 3), extractLsb'_append_eq_right (w' := 3)]

theorem spells_vfence {sc : Scope} : Spells (encode (.vfence sc)) (.vfence sc) := by
  refine spells_control (bk := 0) (vd := 0) (va := 0) (vb := 0) (by decide) rfl rfl rfl rfl rfl rfl fun _ => ?_
  simp [ctl, extractLsb'_append_eq_of_le (w := 3), extractLsb'_append_eq_right (w' := 3)]

/-! ## Scalar instructions (R67 to R75) -/

theorem spells_xcmd {d a b : BitVec 6} {func : BitVec 7} {i : Instr} (h : decodeXcmd d a b func = .ok i) : Spells [wordSX d a b func] i := by
  refine spells_scalar ?_
  rw [wordSX_eq, decodeScalar, if_neg (by simp), wordSR_op]
  refine Eq.trans (b := decodeXcmd _ _ _ _) rfl ?_
  simpa using h

/-- A coded field is read back, and what follows it. -/
theorem coded_of {α : Type} {x : Option α} {f : α → Except DecErr Instr} {r : Except DecErr Instr} (a : α) (hx : x = some a) (h : f a = r) :
    coded x f = r := by
  rw [hx]
  exact h

theorem spells_scmp {c : SCond} {d a b : BitVec 6} : Spells (encode (.scmp c d a b)) (.scmp c d a b) := by
  refine spells_scalar ?_
  rw [decodeScalar, if_neg (by simp), wordSR_op]
  exact coded_of c (by simp) (congrArg Except.ok (by simp))

theorem spells_satom {o : AtomOp} {sc : Scope} {d a b : BitVec 6} : Spells (encode (.satom o sc d a b)) (.satom o sc d a b) := by
  refine spells_scalar ?_
  rw [decodeScalar, if_neg (by simp), wordSR_op]
  exact coded_of o (by simp [extractLsb'_append_eq_right (w' := 4)])
    (coded_of sc (by simp [extractLsb'_append_eq_of_le (w := 4)]) (congrArg Except.ok (by simp)))

theorem spells_scas {sc : Scope} {d a b : BitVec 6} : Spells (encode (.scas sc d a b)) (.scas sc d a b) := by
  refine spells_scalar ?_
  rw [decodeScalar, if_neg (by simp), wordSR_op]
  exact coded_of sc (by simp [extractLsb'_append_eq_of_le (w := 4)])
    ((rsv_eq_ok ..).2 ⟨by simp [extractLsb'_append_eq_right (w' := 4)], by simp⟩)

theorem spells_sbr {c : Cond} {a : BitVec 6} {off : BitVec 15} (h : (Instr.sbr c a off).wf = true) :
    Spells (encode (.sbr c a off)) (.sbr c a off) := by
  have hc : (c != .al || a == 0) = true := h
  refine spells_scalar ?_
  rw [decodeScalar, if_neg (by simp), wordSB_op]
  exact coded_of c (by simp) ((rsv_eq_ok ..).2 ⟨by simpa using hc, by simp⟩)

theorem spells_swaitp {p : WaitPath} {a : BitVec 6} : Spells (encode (.swaitp p a)) (.swaitp p a) := by
  refine spells_scalar ?_
  rw [decodeScalar, if_neg (by simp), wordSR_op]
  exact coded_of p (by simp) ((rsv_eq_ok ..).2 ⟨by simp, by simp⟩)

theorem spells_sfence {sc : Scope} : Spells (encode (.sfence sc)) (.sfence sc) := by
  refine spells_scalar ?_
  rw [decodeScalar, if_neg (by simp), wordSR_op]
  exact coded_of sc (by simp [extractLsb'_append_eq_right (w' := 3)])
    ((rsv_eq_ok ..).2 ⟨by simp [extractLsb'_append_eq_of_le (w := 3)], by simp⟩)

theorem spells_stime {d : BitVec 6} {wall : Bool} : Spells (encode (.stime d wall)) (.stime d wall) := by
  refine spells_scalar ?_
  rw [decodeScalar, if_neg (by simp), wordSR_op]
  refine coded_of wall ?_ ((rsv_eq_ok ..).2 ⟨by simp, by simp⟩)
  cases wall <;> simp [bit1]

/-! ## Every instruction -/

/-- The words of every well-formed instruction spell it; DELETE and READ_COUNTERS of FCFG share the word of the first row (log 8). -/
theorem spells_encode {i : Instr} (h : i.wf = true) (hdel : ∀ d a b, i ≠ .fcfgDelete d a b) (hrc : ∀ d a b, i ≠ .fcfgReadCounters d a b) :
    Spells (encode i) i := by
  cases i
  -- S-R words without a coded field
  case sadd | ssub | smul | smulh | sdiv | sdivu | srem | sand | sor | sxor | sshl | sshr | ssra | smin | smax | sminu | smaxu | spopc | sclz
      | sjmpr | scallr | sret | lenqr | lsync | stfence | sacq | srel | syield | sexit | snop | sal | spop =>
    refine spells_scalar ?_
    rw [decodeScalar, if_neg (by simp), wordSR_op]
    exact (rsv_eq_ok ..).2 ⟨by simp, by simp⟩
  case ssel =>
    refine spells_scalar ?_
    rw [decodeScalar, if_neg (by simp), wordSR_op]
    exact (rsv_eq_ok ..).2 ⟨by simp [getElem_append (m := 6)], by simp [extractLsb'_append_eq_right (w' := 6)]⟩
  case barinit =>
    refine spells_scalar ?_
    rw [decodeScalar, if_neg (by simp), wordSR_op]
    exact (rsv_eq_ok ..).2 ⟨by simp [extractLsb'_append_eq_of_le (w := 4)], by simp [extractLsb'_append_eq_right (w' := 4)]⟩
  -- S-I words: all of imm13, then a part of it
  case saddi | sandi | sori | sxori | smuli | sldb | sldh | sldw | sldd | sstb | ssth | sstw | sstd | sldsp | sstsp =>
    refine spells_scalar ?_
    rw [decodeScalar, if_neg (by simp), wordSI_op]
    exact congrArg Except.ok (by simp)
  case swaita | strap | sbrk =>
    refine spells_scalar ?_
    rw [decodeScalar, if_neg (by simp), wordSI_op]
    exact (rsv_eq_ok ..).2 ⟨by simp, by simp⟩
  case sshli | sshri | ssrai | svrd | srds | swrs | swaitc =>
    refine spells_scalar ?_
    rw [decodeScalar, if_neg (by simp), wordSI_op]
    exact (rsv_eq_ok ..).2 ⟨by simp [extractLsb'_append_eq_of_le (w := 3), extractLsb'_append_eq_of_le (w := 6),
        extractLsb'_append_eq_of_le (w := 7), extractLsb'_append_eq_of_le (w := 10)],
      by simp [extractLsb'_append_eq_of_le (w := 3), extractLsb'_append_eq_right (w' := 3), extractLsb'_append_eq_right (w' := 6),
        extractLsb'_append_eq_right (w' := 7), extractLsb'_append_eq_right (w' := 10)]⟩
  case bara n sc | barw n sc | baraw n sc =>
    refine spells_scalar ?_
    rw [decodeScalar, if_neg (by simp), wordSI_op]
    exact coded_of sc (by simp [extractLsb'_append_eq_of_le (w := 4), extractLsb'_append_eq_right (w' := 3)])
      ((rsv_eq_ok ..).2 ⟨by simp [extractLsb'_append_eq_of_le (w := 4), extractLsb'_append_eq_of_le (w := 3)],
        by simp [extractLsb'_append_eq_right (w' := 4)]⟩)
  -- S-L and S-B words
  case sli | slui | slxi | scall =>
    refine spells_scalar ?_
    rw [decodeScalar, if_neg (by simp), wordSL_op]
    exact congrArg Except.ok (by simp)
  case sjmp | lenq =>
    refine spells_scalar ?_
    rw [decodeScalar, if_neg (by simp), wordSL_op]
    exact (rsv_eq_ok ..).2 ⟨by simp, by simp⟩
  case sbsal =>
    refine spells_scalar ?_
    rw [decodeScalar, if_neg (by simp), wordSB_op]
    exact congrArg Except.ok (by simp)
  -- scalar rows with a coded field, and XCMD
  case sbr => exact spells_sbr h
  case scmp => exact spells_scmp
  case satom => exact spells_satom
  case scas => exact spells_scas
  case swaitp => exact spells_swaitp
  case sfence => exact spells_sfence
  case stime => exact spells_stime
  case cpy1d | cpy2d | cpyt | cpyres | cseal | cwaitb | cstat | bxfer | btarg | fsdep | fstake | fscpy | fcfgCreate | xatom | trmark | wpset =>
    exact spells_xcmd rfl
  case fcfgDelete d a b => exact absurd rfl (hdel d a b)
  case fcfgReadCounters d a b => exact absurd rfl (hrc d a b)
  -- lane data instructions
  case vadd f s | vsub f s | vabs f s | vneg f s | vfmin f s | vfmax f s | vfrnd f s => exact spells_data rfl h rfl rfl (mkBit_raw f 0 _ s)
  case vsel f k | vaddc f k | vsubb f k => exact spells_data rfl h rfl rfl (mkMask_raw f 0 _ k)
  case vmul | vmulh | vmad | vand | vor | vxor | vnot | vshl | vshr | vsra | vmin | vmax | vpopc | vclz | vbfx | vbfi | vfadd | vfsub | vfmul
      | vfma | vfms | vfnma | vfabs | vfneg | vfclass | vfdiv | vfsqrt | vrcp | vrsq | vsin | vcos | vexp2 | vlog2 | vtanh | vperm | vbcast =>
    exact spells_data rfl h rfl rfl (mkPlain_raw _ 0 _)
  case vcmp => exact spells_vcmp h
  case vfcmp => exact spells_vfcmp h
  case vcvt => exact spells_vcvt h
  case vcvpk2 => exact spells_vcvpk2 h
  case vcvpk4 => exact spells_vcvpk4 h
  case vqscale => exact spells_vqscale h
  case vamax => exact spells_vamax h
  case vunpk => exact spells_vunpk h
  case vlut => exact spells_vlut h
  case vmov => exact spells_vmov h
  case vred => exact spells_vred h
  case vscan => exact spells_vscan h
  case vballot => exact spells_vballot h
  case vld => exact spells_vld h
  case vst => exact spells_vst h
  case vldsp f sz imm =>
    exact spells_row rfl h rfl rfl rfl rfl (mkMem_raw (fun f sz _ _ i => .vldsp f sz i) f sz imm (word2_of_ok h rfl imm) rfl rfl)
  case vstsp f sz imm =>
    exact spells_row rfl h rfl rfl rfl rfl (mkMem_raw (fun f sz _ _ i => .vstsp f sz i) f sz imm (word2_of_ok h rfl imm) rfl rfl)
  case vatom => exact spells_vatom h
  case vcas => exact spells_vcas h
  case vpref => exact spells_vpref h
  case fdep => exact spells_fdep h
  case fcpy | ftake =>
    obtain ⟨hok, hsel⟩ := Bool.and_eq_true_iff.1 h
    exact spells_row rfl hok rfl rfl rfl rfl (mkFen_raw _ (word2_of_ok hok rfl _) hsel)
  -- mask and control instructions
  case kand | kor | kxor => exact spells_kmask rfl rfl (fun hc => absurd hc (by decide)) (by simp [extractLsb'_append_eq_right (w' := 4)])
  case knot | kmov => exact spells_kmask rfl rfl (fun _ => rfl) (by simp [extractLsb'_append_eq_right (w' := 4)])
  case vbr => exact spells_vbr
  case vjoin | vret | vend | rjoin | vnop => exact spells_bare rfl rfl
  case vjmp | vcall => exact spells_jump rfl rfl
  case vcallv => exact spells_vcallv
  case vbrk | vtrap => exact spells_code rfl rfl
  case regrp => exact spells_regrp h
  case vwaitc => exact spells_vwaitc
  case vfence => exact spells_vfence
  -- team instructions
  case mma | mzero | mload | tbarw | tbara =>
    exact spells_team (by simp [decodeTeam, extractLsb'_append_eq_of_le (w := 3), extractLsb'_append_eq_right (w' := 3)])
  case wli | wadd | wsub | wmul | waddi | wldsp | wstsp | wshl | wjmp | wloop | texit => exact spells_team (by simp [decodeTeam])
  case wbr c a off =>
    have hc : (c != .al || a == 0) = true := h
    exact spells_team (by simpa [decodeTeam] using hc)
  case mdrain t a n c | mdraina t a n c =>
    exact spells_team
      (by simp [decodeTeam, decodeDrainCtl_code c h, extractLsb'_append_eq_of_le (w := 3), extractLsb'_append_eq_right (w' := 3)])
  -- a row of an event, of a host operation or of the unassigned encodings has no word
  all_goals cases h

/-- Settles O55: a word alone spells its instruction in the scalar stream. -/
theorem scalarRoundTrip : Obligations.ScalarRoundTrip := by
  unfold Obligations.ScalarRoundTrip
  intro i hwf hlen hdel hrc
  have h := (spells_encode hwf hdel hrc).1
  rwa [hlen] at h

/-- Settles O57: two words spell their instruction in the team stream. -/
theorem teamRoundTrip : Obligations.TeamRoundTrip := by
  unfold Obligations.TeamRoundTrip
  intro i hwf hlen
  have h := (spells_encode hwf (fun d a b hi => by subst hi; cases hlen) (fun d a b hi => by subst hi; cases hlen)).1
  rwa [hlen] at h

/-- Three words or more are those of a lane instruction. -/
theorem streamOfBits_lane {n : Nat} (h : 2 < n) : streamOfBits (32 * n) = .lane := by
  rw [streamOfBits, if_neg (by omega), if_neg (by omega)]

/-- A first word that announces three words or more says the length of R77 in bytes. -/
theorem four_mul_wordsFrom_lane {w : BitVec 32} (h : 2 < wordsFrom .lane w) : 4 * wordsFrom .lane w = Sys2Proof.laneLen w := by
  simp only [wordsFrom, Sys2Proof.laneLen, beq_iff_eq] at h ⊢
  split_ifs at h ⊢ with hF hA
  · rfl
  · rfl
  · omega

/-- Settles O56: three or four words spell their instruction in the lane stream. -/
theorem laneRoundTrip : Obligations.LaneRoundTrip := by
  unfold Obligations.LaneRoundTrip
  intro i hwf hlen
  have hone : ∀ w : BitVec 32, encode i ≠ [w] := fun w hw => by
    rw [hw] at hlen
    exact absurd hlen (show ¬ 2 < 1 by decide)
  obtain ⟨hdec, hnum⟩ := spells_encode hwf (fun d a b hi => hone _ (congrArg encode hi)) (fun d a b hi => hone _ (congrArg encode hi))
  rw [streamOfBits_lane hlen] at hdec hnum
  refine ⟨hdec, ?_, hnum⟩
  rw [← hnum]
  exact four_mul_wordsFrom_lane (hnum ▸ hlen)

end Sys2Proof
end

section
/-! Every instruction and every step answers a next state: `Obligations.EveryStepAnswers`. -/
namespace Sys2Proof.Machine

/-- The frames `scalarOp`, `laneOp` and `seqOp` make a next state of every end of an instruction, a wait and a trap too, and the meaning of an event
or of a host operation is a next state outright. VCVPK2 and VCVPK4 reach their frame once the format is known. -/
theorem exec_answers (i : Instr) (s : State) : ∃ t, exec i s = .next t := by
  cases i
  case vcvpk2 f p hi sat | vcvpk4 f p hi sat => cases p <;> exact ⟨_, rfl⟩
  all_goals exact ⟨_, rfl⟩

/-- Settles O58: a step executes what it plans, or has done it. -/
theorem everyStepAnswers : Obligations.EveryStepAnswers := by
  unfold Obligations.EveryStepAnswers
  refine ⟨exec_answers, fun s => ?_⟩
  unfold step
  cases s.plan with
  | run i t => exact exec_answers i t
  | done t => exact ⟨t, rfl⟩

end Sys2Proof.Machine
end

section
/-! Words that the spec writes out: `Obligations.SpecWordsDecode`. -/
namespace Sys2Proof

/-- Settles O54: the decoder run on each word. -/
theorem specWordsDecode : Obligations.SpecWordsDecode := by
  unfold Obligations.SpecWordsDecode
  exact ⟨rfl, rfl, rfl, rfl, rfl, rfl, rfl, rfl, rfl⟩

end Sys2Proof
end

section
/-! SUPPORT. Masks as sets of lanes (R27), and what a lane instruction that ends in its step leaves (R371, R450, R482). -/
namespace Sys2Proof.Machine

/-! ## Masks -/

theorem getLsbD_foldl_mask (f : Nat → Bool) {i : Nat} (hi : i < 96) (l : List Nat) : ∀ m : Mask,
    (l.foldl (fun m x => if f x then m ||| ((1 : Mask) <<< x) else m) m).getLsbD i = (m.getLsbD i || (decide (i ∈ l) && f i)) := by
  induction l with
  | nil => exact fun m => by simp
  | cons x r ih =>
    intro m
    have hx : ((1 : Mask) <<< x).getLsbD i = decide (x = i) := by
      rw [show (1 : Mask) <<< x = BitVec.twoPow 96 x from rfl, BitVec.getLsbD_twoPow]
      by_cases h : x = i <;> simp [h, hi]
    rw [List.foldl_cons, ih]
    have hm : (if f x then m ||| ((1 : Mask) <<< x) else m).getLsbD i = (m.getLsbD i || (decide (x = i) && f x)) := by
      cases f x
      · simp
      · rw [if_pos rfl, BitVec.getLsbD_or, hx, Bool.and_true]
    rw [hm]
    by_cases h : i = x
    · subst h
      cases f i <;> simp
    · simp [h, Ne.symm h]

theorem getLsbD_maskOf (f : Nat → Bool) {i : Nat} (hi : i < 96) : (maskOf f).getLsbD i = f i := by
  rw [maskOf, getLsbD_foldl_mask f hi]
  simp [hi]

/-- The lanes of a mask put together again. -/
theorem foldl_lanesOf (m : Mask) : (lanesOf m).foldl (fun a l => a ||| ((1 : Mask) <<< l)) 0 = m := by
  rw [lanesOf, List.foldl_filter]
  exact BitVec.eq_of_getLsbD_eq fun i hi => getLsbD_maskOf (fun l => m.getLsbD l) hi

theorem mem_lanesOf {m : Mask} {l : Nat} : l ∈ lanesOf m ↔ l < 96 ∧ m.getLsbD l = true := by simp [lanesOf]

/-- No lane of a mask is left behind its part under another where that part is the whole. -/
theorem and_not_eq_zero_iff (m k : Mask) : m &&& ~~~(m &&& k) = 0 ↔ m &&& k = m := by
  constructor
  · intro h
    ext i hi
    have hb : m[i] = true → m[i] = true ∧ k[i] = true := by simpa using congrArg (fun x : Mask => x[i]) h
    simpa using fun hm => (hb hm).2
  · intro h
    rw [h]
    exact BitVec.and_not_self m

/-! ## Records of cores and trace packets (R450) -/

@[simp] theorem core_modCore_same (s : State) (c : Nat) (f : Core → Core) : (s.modCore c f).core c = f (s.core c) := by
  simp [State.core, State.modCore, kgetD]

theorem core_modCore_ne (s : State) {c d : Nat} (f : Core → Core) (h : d ≠ c) : (s.modCore c f).core d = s.core d := by
  simp [State.core, State.modCore, kgetD, h]

/-- From s to u only the record of group g has changed, to r, and the trace packets of its core. -/
def onlyRecord (s u : State) (g : Nat) (r : Group) : Prop :=
  u = { s with groups := u.groups, cores := u.cores } ∧ u.grp? g = some r ∧ (∀ h, h ≠ g → u.grp? h = s.grp? h) ∧
  (∀ c, c ≠ g / 32 → u.core c = s.core c) ∧ u.core (g / 32) = { s.core (g / 32) with trace := (u.core (g / 32)).trace }

/-- Before an instruction of its turn nothing has changed. -/
theorem laneTurn.onlyRecord {n : LNeeds} {s : State} {g : Nat} {r : Group} (h : laneTurn n s g r) : onlyRecord s s g r := by
  obtain ⟨-, hg, -, -⟩ := h
  exact ⟨rfl, hg, fun _ _ => rfl, fun _ _ => rfl, rfl⟩

theorem onlyRecord.setGrp {s u : State} {g : Nat} {r : Group} (h : onlyRecord s u g r) (r1 : Group) : onlyRecord s (u.setGrp g r1) g r1 := by
  obtain ⟨hu, -, hne, hcs, hc⟩ := h
  exact ⟨congrArg (·.setGrp g r1) hu, grp?_setGrp u g r1, fun x hx => (grp?_setGrp_ne u r1 hx).trans (hne x hx), hcs, hc⟩

theorem onlyRecord.traceDetail {s u : State} {g : Nat} {r : Group} (h : onlyRecord s u g r) (kind : Nat) (payload : List Byte) :
    onlyRecord s (u.traceDetail g kind payload) g r := by
  unfold State.traceDetail State.tracePut
  split_ifs
  · obtain ⟨hu, hg, hne, hcs, hc⟩ := h
    obtain ⟨gs, cs, rfl⟩ : ∃ gs cs, u = { s with groups := gs, cores := cs } := ⟨_, _, hu⟩
    refine ⟨rfl, hg, hne, fun c hcc => (core_modCore_ne _ _ hcc).trans (hcs c hcc), ?_⟩
    rw [coreOfG, core_modCore_same, hc]
  · exact h
  · exact h

@[simp] theorem grp?_traceDetail (s : State) (g kind : Nat) (payload : List Byte) (x : Nat) : (s.traceDetail g kind payload).grp? x = s.grp? x := by
  unfold State.traceDetail State.tracePut
  split_ifs <;> rfl

@[simp] theorem traceDetail_mem (s : State) (g kind : Nat) (payload : List Byte) : (s.traceDetail g kind payload).mem = s.mem := by
  unfold State.traceDetail State.tracePut
  split_ifs <;> rfl

/-! ## The end of an instruction (R371, R482) -/

@[simp] theorem grp?_modCore (s : State) (c : Nat) (f : Core → Core) (x : Nat) : (s.modCore c f).grp? x = s.grp? x := rfl

theorem grp?_laneIssued_ne (s : State) {g x : Nat} (cyc beats : Nat) (h : x ≠ g) : (s.laneIssued g cyc beats).grp? x = s.grp? x := by
  rw [State.laneIssued, grp?_issued, grp?_modCore, grp?_modGrp_ne _ _ h]

theorem grp?_goesOn {s : State} {g : Nat} {r : Group} (pc : W64) (cyc beats : Nat) (h : s.grp? g = some r) :
    ((s.modGrp g fun x => { x with lpc := pc }).laneIssued g cyc beats).grp? g = some (r.laneGoesOn pc s.ccount beats) := by
  have hm : (((s.modGrp g fun x => { x with lpc := pc }).modGrp g fun x => { x with blk := x.blk.map fun b => { b with
      first := b.first.or (some s.ccount), instrs := b.instrs + 1, beats := b.beats + beats } })).grp? g =
      some (r.laneGoesOn pc s.ccount beats) := by
    rw [grp?_modGrp, grp?_modGrp, h]; rfl
  exact hm

theorem goesOn_mem (s : State) (g : Nat) (pc : W64) (cyc beats : Nat) :
    ((s.modGrp g fun x => { x with lpc := pc }).laneIssued g cyc beats).mem = s.mem := by
  rw [State.laneIssued, State.issued_mem, State.modCore_mem, State.modGrp_mem, State.modGrp_mem]

@[simp] theorem core_issued (s : State) (c : Nat) : s.issued.core c = s.core c := rfl
@[simp] theorem core_modGrp (s : State) (g : Nat) (f : Group → Group) (c : Nat) : (s.modGrp g f).core c = s.core c := rfl

theorem core_laneIssued_ne (s : State) {g c : Nat} (cyc beats : Nat) (h : c ≠ g / 32) : (s.laneIssued g cyc beats).core c = s.core c := by
  rw [State.laneIssued, core_issued, coreOfG, core_modCore_ne _ _ h, core_modGrp]

theorem core_laneIssued_same (s : State) (g cyc beats : Nat) : (s.laneIssued g cyc beats).core (g / 32) =
    { s.core (g / 32) with pipe := (s.core (g / 32)).pipe.setIfInBounds (slotOfG g) (s.ccount + max cyc 1) } := by
  rw [State.laneIssued, core_issued, coreOfG, core_modCore_same, core_modGrp]

/-- Of the state as a whole an issued lane instruction changes the records and cores, and no unit issues any more. -/
theorem laneIssued_frame (s : State) (g cyc beats : Nat) : s.laneIssued g cyc beats =
    { s with groups := (s.laneIssued g cyc beats).groups, cores := (s.laneIssued g cyc beats).cores, cur := .none } := rfl

theorem modGrp_frame (s : State) (g : Nat) (f : Group → Group) : s.modGrp g f = { s with groups := (s.modGrp g f).groups, cores := s.cores } := rfl

/-- Changes of records and cores, one after the other. -/
theorem frame_trans {s u t : State} (hu : u = { s with groups := u.groups, cores := u.cores })
    (ht : t = { u with groups := t.groups, cores := t.cores }) : t = { s with groups := t.groups, cores := t.cores } := by
  obtain ⟨gu, cu, rfl⟩ : ∃ gu cu, u = { s with groups := gu, cores := cu } := ⟨_, _, hu⟩
  exact ht

/-- An instruction that has changed no more than records and cores has issued. -/
theorem frame_issued {s u t : State} (hu : u = { s with groups := u.groups, cores := u.cores })
    (ht : t = { u with groups := t.groups, cores := t.cores, cur := .none }) :
    t = { s with groups := t.groups, cores := t.cores, timed := t.timed, nextId := t.nextId, cur := .none } := by
  obtain ⟨gu, cu, rfl⟩ : ∃ gu cu, u = { s with groups := gu, cores := cu } := ⟨_, _, hu⟩
  obtain ⟨gt, ct, rfl⟩ : ∃ gt ct, t = { s with groups := gt, cores := ct, cur := .none } := ⟨_, _, ht⟩
  rfl

/-- An instruction that has changed its group's record goes on at an address. -/
theorem onlyRecord.goesOn {s u : State} {g : Nat} {r : Group} (h : onlyRecord s u g r) (pc : W64) (cyc beats : Nat) :
    onlyLane s ((u.modGrp g fun x => { x with lpc := pc }).laneIssued g cyc beats) g (r.laneGoesOn pc s.ccount beats) := by
  obtain ⟨hu, hg, hne, hcs, hc⟩ := h
  have hnow : u.ccount = s.ccount := by rw [hu]
  have hpc := frame_trans hu (modGrp_frame u g fun x => { x with lpc := pc })
  refine ⟨frame_issued hpc (laneIssued_frame _ g cyc beats), ?_, fun x hx => ?_, fun c hcc => ?_, ?_⟩
  · rw [grp?_goesOn pc cyc beats hg, hnow]
  · rw [grp?_laneIssued_ne _ cyc beats hx, grp?_modGrp_ne _ _ hx, hne x hx]
  · rw [core_laneIssued_ne _ cyc beats hcc, core_modGrp, hcs c hcc]
  · rw [core_laneIssued_same, core_modGrp, hc]

/-- A lane instruction that may issue and ends behind itself. -/
theorem laneOp_done {len : Nat} {n : LNeeds} {s u : State} {g : Nat} {r r1 : Group} {k : Nat → Group → State → LRes} {cyc beats : Nat}
    (h : laneTurn n s g r) (hk : k g r s = .done u cyc beats) (hu : onlyRecord s u g r1) :
    ∃ t, laneOp len n s k = .next t ∧ onlyLane s t g (r1.laneGoesOn (r.lpc + w64 len) s.ccount beats) := by
  rw [laneOp_go k h, hk]
  exact ⟨_, rfl, hu.goesOn (r.lpc + w64 len) cyc beats⟩

/-- A lane instruction that may issue and goes to an address. -/
theorem laneOp_jump {len : Nat} {n : LNeeds} {s u : State} {g : Nat} {r r1 : Group} {k : Nat → Group → State → LRes} {pc : W64}
    (h : laneTurn n s g r) (hk : k g r s = .jump u pc) (hu : onlyRecord s u g r1) :
    ∃ t, laneOp len n s k = .next t ∧ onlyLane s t g (r1.laneGoesOn pc s.ccount 0) := by
  rw [laneOp_go k h, hk]
  exact ⟨_, rfl, hu.goesOn pc 1 0⟩

/-- A lane instruction that goes to an address behind a fetch, which may have changed more than its group. -/
theorem laneOp_jump_grp {len : Nat} {n : LNeeds} {s u : State} {g : Nat} {r r1 : Group} {k : Nat → Group → State → LRes} {pc : W64}
    {mem : SMap 8} (h : laneTurn n s g r) (hk : k g r s = .jump u pc) (hu : u.grp? g = some r1) (hm : u.mem = mem) :
    ∃ t now, laneOp len n s k = .next t ∧ t.grp? g = some (r1.laneGoesOn pc now 0) ∧ t.mem = mem := by
  rw [laneOp_go k h, hk]
  exact ⟨_, _, rfl, grp?_goesOn pc 1 0 hu, (goesOn_mem u g pc 1 0).trans hm⟩

end Sys2Proof.Machine
end

section
/-! Masks, jumps, divergence, calls and returns of the lane stream: `Obligations.LaneBranchesAndCalls`. -/
namespace Sys2Proof.Machine

/-! ## Mask instructions (R199) -/

/-- Lanes in EXEC take the bit of a mask instruction, the others keep theirs. -/
theorem maskOp_leaves {reads : List (BitVec 4)} {d : BitVec 4} (fn : Group → Mask) {s : State} {g : Nat} {r : Group}
    (h : laneTurn ⟨[], [], reads.map (·.toNat), [d.toNat], none, false⟩ s g r) :
    ∃ t, maskOp reads d fn s = .next t ∧
      onlyLane s t g ((r.kset' d.toNat ((r.exec &&& fn r) ||| (~~~r.exec &&& r.kreg d.toNat))).laneGoesOn (r.lpc + 12) s.ccount 0) :=
  laneOp_done h rfl (h.onlyRecord.setGrp _)

/-! ## Divergence, reconvergence and returns (R210, R211) -/

/-- The lanes that a VBR takes to its target. -/
def vbrTaken (r : Group) (k : BitVec 4) (inv : Bool) : Mask := r.exec &&& (if inv then ~~~(r.kreg k.toNat) else r.kreg k.toNat)

/-- No lane falls through a VBR that takes them all. -/
theorem fall_eq_zero_iff (r : Group) (k : BitVec 4) (inv : Bool) : r.exec &&& ~~~(vbrTaken r k inv) = 0 ↔ vbrTaken r k inv = r.exec :=
  and_not_eq_zero_iff r.exec _

/-- A record with one more entry on its reconvergence stack. -/
def Group.rsPush (r : Group) (e : RsEntry) : Group := { r with rs := r.rs ++ [e] }

/-- What a VBR leaves and where it goes, where its entry finds room (R211). -/
def vbrGoes (r : Group) (k : BitVec 4) (inv : Bool) (off : W32) (join : BitVec 30) : Group × W64 :=
  let j := r.lpc + 4 * join.signExtend 64
  if vbrTaken r k inv = r.exec then (r.rsPush (rsEntry .div j j 0), laneTarget r.lpc off)
  else if vbrTaken r k inv = 0 then (r.rsPush (rsEntry .div j j 0), r.lpc + 12)
  else ({ r.rsPush (rsEntry .div (laneTarget r.lpc off) j (vbrTaken r k inv)) with exec := r.exec &&& ~~~(vbrTaken r k inv) }, r.lpc + 12)

theorem laneControl_vbr (r : Group) (k : BitVec 4) (inv : Bool) (off : W32) (join : BitVec 30) : laneControl r (.vbr k inv off join) =
    if 31 ≤ r.rs.length then none else some ({ noNeeds with kr := [k.toNat] }, vbrGoes r k inv off join) := by
  have ht : (if inv then r.exec &&& ~~~(r.k.getD k.toNat 0) else r.exec &&& r.k.getD k.toNat 0) = vbrTaken r k inv := by cases inv <;> rfl
  unfold laneControl
  simp only [ht, vbrGoes]
  split_ifs <;> rfl

theorem vbr_goes {k : BitVec 4} {inv : Bool} {off : W32} {join : BitVec 30} {s : State} {g : Nat} {r r' : Group} {pc : W64}
    (h : laneTurn { noNeeds with kr := [k.toNat] } s g r) (hroom : rsRoom r 1 = true) (hgo : vbrGoes r k inv off join = (r', pc)) :
    ∃ t, execVbr k inv off join s = .next t ∧ onlyLane s t g (r'.laneGoesOn pc s.ccount 0) := by
  unfold execVbr
  refine laneOp_jump h ?_ ((h.onlyRecord.traceDetail 3 (wBytes 12 (vbrTaken r k inv))).setGrp r')
  -- the branches of the model, with the lanes that it takes named
  change (if _ then _ else if r.exec &&& ~~~(vbrTaken r k inv) = 0 then _ else if vbrTaken r k inv = 0 then _ else _) = _
  simp only [hroom, fall_eq_zero_iff, Bool.not_true, Bool.false_eq_true, if_false]
  unfold vbrGoes at hgo
  by_cases hall : vbrTaken r k inv = r.exec
  · rw [if_pos hall] at hgo ⊢
    cases hgo; rfl
  · rw [if_neg hall] at hgo ⊢
    by_cases hnone : vbrTaken r k inv = 0
    · rw [if_pos hnone] at hgo ⊢
      cases hgo; rfl
    · rw [if_neg hnone] at hgo ⊢
      cases hgo; rfl

/-- What a VJOIN leaves and where it goes behind an entry (R211). -/
def vjoinGoes (r : Group) (e : RsEntry) : Group × W64 :=
  if e.resume = e.reconv then ({ r with rs := r.rs.dropLast, exec := r.exec ||| e.mask }, r.lpc + 12)
  else ({ r with rs := r.rs.dropLast ++ [{ e with mask := r.exec, resume := e.reconv }], exec := e.mask }, e.resume)

theorem vjoin_goes {s : State} {g : Nat} {r r' : Group} {e : RsEntry} {pc : W64} (h : laneTurn noNeeds s g r)
    (he : r.rs.getLast? = some e) (hk : e.kind = .div) (hgo : vjoinGoes r e = (r', pc)) :
    ∃ t, execVjoin s = .next t ∧ onlyLane s t g (r'.laneGoesOn pc s.ccount 0) := by
  unfold execVjoin
  refine laneOp_jump h ?_ (h.onlyRecord.setGrp r')
  unfold vjoinGoes at hgo
  by_cases hj : e.resume = e.reconv
  · rw [if_pos hj] at hgo
    cases hgo
    simp [he, hk, hj]
  · rw [if_neg hj] at hgo
    cases hgo
    simp [he, hk, hj]

theorem vret_goes {s : State} {g : Nat} {r : Group} {e : RsEntry} (h : laneTurn noNeeds s g r) (he : r.rs.getLast? = some e)
    (hk : e.kind = .call) :
    ∃ t, execVret s = .next t ∧ onlyLane s t g (Group.laneGoesOn { r with rs := r.rs.dropLast, exec := e.mask } e.resume s.ccount 0) := by
  unfold execVret
  refine laneOp_jump h ?_ (h.onlyRecord.setGrp _)
  simp [he, hk]

theorem vnop_goes {s : State} {g : Nat} {r : Group} (h : laneTurn noNeeds s g r) :
    ∃ t, execVnop s = .next t ∧ onlyLane s t g (r.laneGoesOn (r.lpc + 12) s.ccount 0) := by
  unfold execVnop
  exact laneOp_done h rfl h.onlyRecord

theorem vjmp_goes {off : W32} {s : State} {g : Nat} {r : Group} (h : laneTurn noNeeds s g r) :
    ∃ t, execVjmp off s = .next t ∧ onlyLane s t g (r.laneGoesOn (laneTarget r.lpc off) s.ccount 0) := by
  unfold execVjmp
  exact laneOp_jump h rfl h.onlyRecord

theorem vwaitc_goes {l st c w : BitVec 3} {s : State} {g : Nat} {r : Group} (h : laneTurn noNeeds s g r)
    (hctr : r.ctr .ldc ≤ l.toNat ∧ r.ctr .stc ≤ st.toNat ∧ r.ctr .cpc ≤ c.toNat ∧ r.ctr .tlc ≤ w.toNat) :
    ∃ t, execVwaitc l st c w s = .next t ∧ onlyLane s t g (r.laneGoesOn (r.lpc + 12) s.ccount 0) := by
  unfold execVwaitc
  exact laneOp_done h (if_pos hctr) h.onlyRecord

theorem laneControl_vjoin {r : Group} {e : RsEntry} (he : r.rs.getLast? = some e) :
    laneControl r .vjoin = if e.kind ≠ .div then none else some (noNeeds, vjoinGoes r e) := by
  unfold laneControl vjoinGoes
  simp only [he]
  split_ifs <;> rfl

theorem laneControl_vret {r : Group} {e : RsEntry} (he : r.rs.getLast? = some e) : laneControl r .vret =
    if e.kind ≠ .call then none else some (noNeeds, { r with rs := r.rs.dropLast, exec := e.mask }, e.resume) := by
  unfold laneControl
  simp only [he]

/-- Behind an empty reconvergence stack a VJOIN and a VRET leave nothing. -/
theorem laneControl_empty {r : Group} (he : r.rs.getLast? = none) : laneControl r .vjoin = none ∧ laneControl r .vret = none := by
  unfold laneControl
  simp only [he, and_self]

theorem laneControl_vwaitc (r : Group) (l st c w : BitVec 3) : laneControl r (.vwaitc l st c w) =
    if r.ctr .ldc ≤ l.toNat ∧ r.ctr .stc ≤ st.toNat ∧ r.ctr .cpc ≤ c.toNat ∧ r.ctr .tlc ≤ w.toNat then some (noNeeds, r, r.lpc + 12) else none := rfl

/-- Each instruction of `laneControl` leaves what it says. -/
theorem laneControl_leaves {i : Instr} {s : State} {g : Nat} {r r' : Group} {nd : LNeeds} {pc : W64}
    (hc : laneControl r i = some (nd, r', pc)) (h : laneTurn nd s g r) :
    ∃ t, exec i s = .next t ∧ onlyLane s t g (r'.laneGoesOn pc s.ccount 0) := by
  cases i
  case kand | kor | kxor | knot | kmov =>
    cases hc
    exact maskOp_leaves _ h
  case vnop =>
    cases hc
    exact vnop_goes h
  case vjmp =>
    cases hc
    exact vjmp_goes h
  case vwaitc =>
    rw [laneControl_vwaitc] at hc
    split_ifs at hc with hctr
    cases hc
    exact vwaitc_goes h hctr
  case vbr =>
    rw [laneControl_vbr] at hc
    split_ifs at hc with hroom
    obtain ⟨rfl, hgo⟩ := Prod.mk.inj (Option.some.inj hc)
    exact vbr_goes h (decide_eq_true (by omega)) hgo
  case vjoin =>
    cases he : r.rs.getLast? with
    | none => rw [(laneControl_empty he).1] at hc; cases hc
    | some e =>
      rw [laneControl_vjoin he] at hc
      split_ifs at hc with hk
      obtain ⟨rfl, hgo⟩ := Prod.mk.inj (Option.some.inj hc)
      exact vjoin_goes h he (not_not.1 hk) hgo
  case vret =>
    cases he : r.rs.getLast? with
    | none => rw [(laneControl_empty he).2] at hc; cases hc
    | some e =>
      rw [laneControl_vret he] at hc
      split_ifs at hc with hk
      cases hc
      exact vret_goes h he (not_not.1 hk)
  all_goals cases hc

/-! ## Calls (R110, R111, R210, R212) -/

/-- The record of a call of the lanes in EXEC. -/
def Group.calls (r : Group) : Group := r.rsPush (rsEntry .call (r.lpc + 12) 0 r.exec)

theorem vcall_calls {s u : State} {g : Nat} {r : Group} {off : W32} (h : laneTurn noNeeds s g r) (hroom : rsRoom r 1 = true)
    (hcheck : s.callCheck g r (laneTarget r.lpc off) = (some none, u)) (hu : u.grp? g = some r) :
    ∃ t now, execVcall off s = .next t ∧ t.grp? g = some (r.calls.laneGoesOn (laneTarget r.lpc off) now 0) ∧ t.mem = u.mem := by
  have hg : (u.modGrp g (·.rsPush (rsEntry .call (r.lpc + 12) 0 r.exec))).grp? g = some r.calls := by
    rw [grp?_modGrp, hu]; rfl
  unfold execVcall
  refine laneOp_jump_grp h ?_ hg rfl
  simp only [hroom, hcheck, Bool.not_true, Bool.false_eq_true, if_false]
  rfl

theorem foldl_insTarget_same {pc : W64} {f : Nat → W64} (l : List Nat) : ∀ m : Mask, (∀ x ∈ l, f x = pc) →
    l.foldl (fun acc x => insTarget (f x) x acc) [(pc, m)] = [(pc, l.foldl (fun m x => m ||| ((1 : Mask) <<< x)) m)] := by
  induction l with
  | nil => exact fun _ _ => rfl
  | cons x xs ih =>
    intro m h
    obtain ⟨hx, hxs⟩ := List.forall_mem_cons.1 h
    rw [List.foldl_cons, hx, insTarget, if_pos rfl, ih _ hxs, List.foldl_cons]

theorem callTargets_noLane {r : Group} (a : BitVec 10) (h : r.exec = 0) : callTargets r a = [] := by
  have hl : lanesOf (0 : Mask) = [] := by simp [lanesOf]
  rw [callTargets, h, hl, List.foldl_nil]

/-- Lanes that all name one target make one call, of all of them. -/
theorem callTargets_one {r : Group} {a : BitVec 10} {pc : W64} (h0 : r.exec ≠ 0)
    (h : ∀ l, l < 96 → r.exec.getLsbD l = true → r.rd .i64 a l = pc) : callTargets r a = [(pc, r.exec)] := by
  have hall : ∀ l ∈ lanesOf r.exec, r.rd .i64 a l = pc := fun l hl => h l (mem_lanesOf.1 hl).1 (mem_lanesOf.1 hl).2
  have hm := foldl_lanesOf r.exec
  rw [callTargets]
  cases hl : lanesOf r.exec with
  | nil =>
    rw [hl] at hm
    exact absurd hm.symm h0
  | cons x xs =>
    rw [hl] at hm hall
    obtain ⟨hx, hxs⟩ := List.forall_mem_cons.1 hall
    rw [List.foldl_cons, show (0 : Mask) ||| ((1 : Mask) <<< x) = (1 : Mask) <<< x from BitVec.zero_or] at hm
    rw [List.foldl_cons, hx, insTarget, foldl_insTarget_same xs _ hxs, hm]

theorem vcallv_noLane {s : State} {g : Nat} {r : Group} {a : BitVec 10} (h : laneTurn { noNeeds with vr := [(a.toNat, 2, 2)] } s g r)
    (h0 : r.exec = 0) : ∃ t, execVcallv a s = .next t ∧ onlyLane s t g (r.laneGoesOn (r.lpc + 12) s.ccount 0) := by
  refine laneOp_jump h ?_ h.onlyRecord
  simp only [callTargets_noLane a h0]

theorem vcallv_calls {s u : State} {g : Nat} {r : Group} {a : BitVec 10} {pc : W64} (h : laneTurn { noNeeds with vr := [(a.toNat, 2, 2)] } s g r)
    (hroom : rsRoom r 1 = true) (h0 : r.exec ≠ 0) (hpc : ∀ l, l < 96 → r.exec.getLsbD l = true → r.rd .i64 a l = pc)
    (hcheck : s.callCheck g r pc = (some none, u)) (hu : u.grp? g = some r) :
    ∃ t now, execVcallv a s = .next t ∧ t.grp? g = some (r.calls.laneGoesOn pc now 0) ∧ t.mem = u.mem := by
  have hchecks : State.callChecks g r [(pc, r.exec)] s = (some none, u) := by simp only [State.callChecks, hcheck]
  have hg : ((u.traceDetail g 4 (1 :: [(pc, r.exec)].flatMap fun p => wBytes 8 p.1 ++ wBytes 12 p.2)).modGrp g
      fun x => { x with rs := x.rs ++ [rsEntry .call (r.lpc + 12) 0 r.exec], exec := r.exec }).grp? g = some r.calls := by
    rw [grp?_modGrp, grp?_traceDetail, hu]; rfl
  unfold execVcallv
  refine laneOp_jump_grp h ?_ hg (traceDetail_mem u g 4 _)
  simp only [callTargets_one h0 hpc, List.length_nil, Nat.zero_add, hroom, hchecks, Bool.not_true, Bool.false_eq_true, if_false]
  rfl

/-- Settles O19: the control instructions by `laneControl_leaves`, the calls by the lemmas of their targets. -/
theorem laneBranchesAndCalls : Obligations.LaneBranchesAndCalls := by
  unfold Obligations.LaneBranchesAndCalls
  refine ⟨fun i s g r r' nd pc => laneControl_leaves, fun s g r off u h hroom hcheck hu => ?_,
    fun s g r a pc u h hroom => ⟨vcallv_noLane h, fun h0 hpc hcheck hu => ?_⟩⟩
  · obtain ⟨t, now, ht, hg, hmem⟩ := vcall_calls h (decide_eq_true (by omega)) hcheck hu
    exact ⟨t, _, ht, hg, rfl, rfl, rfl, rfl, rfl, hmem⟩
  · obtain ⟨t, now, ht, hg, hmem⟩ := vcallv_calls h (decide_eq_true (by omega)) h0 hpc hcheck hu
    exact ⟨t, _, ht, hg, rfl, rfl, rfl, rfl, rfl, hmem⟩

end Sys2Proof.Machine
end

section
/-! SUPPORT. The values of the scalar arithmetic instructions (R157 to R159): the model's functions on registers are those of the rules. -/
namespace Sys2Proof.Machine

/-! ## Shifts, minima and comparisons (R157) -/

theorem toNat_lowSix (y : W64) : (y.extractLsb' 0 6).toNat = y.toNat % 64 := by simp

theorem shiftLeft_lowSix (x y : W64) : x <<< (y.toNat % 64) = x <<< y.extractLsb' 0 6 := by
  rw [BitVec.shiftLeft_eq', toNat_lowSix]

theorem shiftRight_lowSix (x y : W64) : x >>> (y.toNat % 64) = x >>> y.extractLsb' 0 6 := by
  rw [BitVec.ushiftRight_eq', toNat_lowSix]

theorem sshiftRight_lowSix (x y : W64) : x.sshiftRight (y.toNat % 64) = x.sshiftRight' (y.extractLsb' 0 6) :=
  congrArg x.sshiftRight (toNat_lowSix y).symm

theorem sltW_eq (x y : W64) : sltW x y = decide (x.toInt < y.toInt) := BitVec.slt_eq_decide

theorem sminW_eq (x y : W64) : (if sltW y x then y else x) = if x.toInt ≤ y.toInt then x else y := by
  simp only [sltW_eq, decide_eq_true_eq, ← Int.not_le, ite_not]

theorem smaxW_eq (x y : W64) : (if sltW x y then y else x) = if x.toInt ≤ y.toInt then y else x := by
  simp only [sltW_eq, decide_eq_true_eq]
  by_cases h : x.toInt < y.toInt
  · rw [if_pos h, if_pos h.le]
  · rw [if_neg h]
    by_cases he : x.toInt ≤ y.toInt
    · rw [if_pos he]; exact BitVec.eq_of_toInt_eq (by omega)
    · rw [if_neg he]

theorem sminuW_eq (x y : W64) : (if y.ult x then y else x) = if x.toNat ≤ y.toNat then x else y := by
  simp only [BitVec.ult, decide_eq_true_eq, ← Nat.not_le, ite_not]

theorem smaxuW_eq (x y : W64) : (if x.ult y then y else x) = if x.toNat ≤ y.toNat then y else x := by
  simp only [BitVec.ult, decide_eq_true_eq]
  by_cases h : x.toNat < y.toNat
  · rw [if_pos h, if_pos h.le]
  · rw [if_neg h]
    by_cases he : x.toNat ≤ y.toNat
    · rw [if_pos he]; exact BitVec.eq_of_toNat_eq (by omega)
    · rw [if_neg he]

theorem scmpHolds_eq (c : SCond) (x y : W64) : scmpHolds c x y = compares c x y := by
  cases c
  case eq => exact beq_eq_decide x y
  case ne => rw [scmpHolds, compares, bne, beq_eq_decide, decide_not]
  case lt => exact sltW_eq x y
  case gt => exact sltW_eq y x
  case ge | le => simp only [scmpHolds, compares, sltW_eq, ← decide_not, Int.not_lt]
  all_goals rfl

/-! ## Counts of bits (R157) -/

theorem popGo_eq (x : W64) (n : Nat) : popGo x.toNat n = (List.range n).countP fun k => x.getLsbD k := by
  induction n with
  | zero => rfl
  | succ n ih => rw [popGo, ih, List.range_succ, List.countP_append, List.countP_singleton, BitVec.getLsbD]

/-- The highest set bit stands at the logarithm, and none above it. -/
theorem clzW_eq (x : W64) : clzW 64 x.toNat = ((List.range 64).find? fun k => x.getMsbD k).getD 64 := by
  unfold clzW
  by_cases h0 : x.toNat = 0
  · have hx : x = 0 := BitVec.eq_of_toNat_eq h0
    subst hx
    decide
  · have hlog : Nat.log2 x.toNat < 64 := (Nat.log2_lt h0).2 x.isLt
    have hfind : ((List.range 64).find? fun k => x.getMsbD k) = some (63 - Nat.log2 x.toNat) := by
      rw [List.find?_range_eq_some]
      refine ⟨?_, List.mem_range.2 (by omega), fun j hj => ?_⟩
      · have hk : 64 - 1 - (63 - Nat.log2 x.toNat) = Nat.log2 x.toNat := by omega
        rw [BitVec.getMsbD, hk, BitVec.getLsbD, Nat.testBit_log2 h0, Bool.and_true, decide_eq_true (by omega)]
      · have hhigh : x.toNat < 2 ^ (64 - 1 - j) := (Nat.log2_lt h0).1 (by omega)
        rw [BitVec.getMsbD, BitVec.getLsbD, Nat.testBit_lt_two_pow hhigh, Bool.and_false, Bool.not_false]
    rw [if_neg h0, hfind]
    rfl

/-! ## Constants (R159) -/

theorem shiftLeft_thirteen (x : W64) : x <<< 13 = x * 0x2000 := by
  rw [BitVec.shiftLeft_eq_mul_twoPow]; rfl

theorem getLsbD_below51 (i : Nat) : (((0x7FFFFFFFFFFFF : Nat)) : W64).getLsbD i = decide (i < 51) := Nat.testBit_two_pow_sub_one 51 i

theorem getLsbD_from51 {i : Nat} (b : Bool) (hi : i < 64) : (if b then (0xFFF8000000000000 : W64) else 0).getLsbD i = (b && !decide (i < 51)) := by
  have hnot : (0xFFF8000000000000 : W64) = ~~~((0x7FFFFFFFFFFFF : Nat) : W64) := by decide
  cases b
  · simp
  · rw [if_pos rfl, hnot, BitVec.getLsbD_not, getLsbD_below51, decide_eq_true hi]

theorem getLsbD_signBits {i : Nat} (b : Bool) (hi : i < 13) : (if b then (0x1FFF : BitVec 13) else 0).getLsbD i = b := by
  have hall : (0x1FFF : BitVec 13) = BitVec.allOnes 13 := by decide
  cases b
  · simp
  · rw [if_pos rfl, hall, BitVec.getLsbD_allOnes, decide_eq_true hi]

/-- SLXI keeps bits 31:0, takes the constant into bits 50:32 over what stands there, and sign-extends it. -/
theorem slxiVal_eq (x : W64) (imm : BitVec 19) : slxiVal x imm =
    (x &&& 0x7FFFFFFFFFFFF) ||| (imm.setWidth 64 <<< 32) ||| (if imm.getLsbD 18 then 0xFFF8000000000000 else 0) := by
  refine BitVec.eq_of_getLsbD_eq fun i (hi : i < 64) => ?_
  rw [BitVec.getLsbD_or, BitVec.getLsbD_or, BitVec.getLsbD_and, getLsbD_below51, getLsbD_from51 _ hi, BitVec.getLsbD_shiftLeft,
    BitVec.getLsbD_setWidth, slxiVal, BitVec.getLsbD_append, BitVec.getLsbD_append, BitVec.getLsbD_or, BitVec.getLsbD_extractLsb',
    BitVec.getLsbD_extractLsb']
  by_cases h32 : i < 32
  · have h51 : i < 51 := by omega
    simp [h32, h51]
  · have hback : 32 + (i - 32) = i := by omega
    by_cases h51 : i < 51
    · have h19 : i - 32 < 19 := by omega
      have h64 : i - 32 < 64 := by omega
      simp [h32, h51, h19, h64, hi, hback]
    · have h19 : ¬i - 32 < 19 := by omega
      have himm : imm.getLsbD (i - 32) = false := BitVec.getLsbD_of_ge _ _ (by omega)
      rw [getLsbD_signBits _ (by omega)]
      simp [h32, h51, h19, himm]

/-! ## Products and quotients (R157, R158) -/

theorem smulhW_eq (x y : W64) : smulhW x y = (x.signExtend 128 * y.signExtend 128).extractLsb' 64 64 := by
  have hprod : x.signExtend 128 * y.signExtend 128 = BitVec.ofInt 128 (x.toInt * y.toInt) := by
    rw [BitVec.ofInt_mul]; rfl
  rw [hprod, smulhW]
  generalize x.toInt * y.toInt = p
  refine BitVec.eq_of_toNat_eq ?_
  rw [BitVec.extractLsb'_toNat, BitVec.toNat_ofInt, BitVec.toNat_ofInt, Nat.shiftRight_eq_div_pow]
  omega

theorem sdivW_eq (x y : W64) : sdivW x y = if y = 0 then 0xFFFFFFFFFFFFFFFF else x.sdiv y := by
  have h : BitVec.ofInt 64 (x.toInt.tdiv y.toInt) = x.sdiv y :=
    BitVec.eq_of_toInt_eq (by rw [BitVec.toInt_ofInt, BitVec.toInt_sdiv])
  rw [sdivW, h]
  rfl

theorem sdivuW_eq (x y : W64) : sdivuW x y = if y = 0 then 0xFFFFFFFFFFFFFFFF else x / y := by
  have h : w64 (x.toNat / y.toNat) = x / y := (BitVec.udiv_def).symm
  rw [sdivuW, h]
  rfl

theorem sremW_eq (x y : W64) : sremW x y = if y = 0 then x else x.srem y := by
  have h : BitVec.ofInt 64 (x.toInt.tmod y.toInt) = x.srem y := by
    rw [← BitVec.toInt_srem, BitVec.ofInt_toInt]
  rw [sremW, h]

end Sys2Proof.Machine
end

section
/-! The immediate arithmetic instructions: `Obligations.ImmediateArithmetic`. -/
namespace Sys2Proof.Machine

/-- An instruction over two registers puts the value of theirs into its destination. -/
theorem alu2_puts {i : Instr} {s : State} {g : Nat} {r : Group} {d a b : BitVec 6} {f : W64 → W64 → W64} {v : W64} (h : scalarTurn i s g r)
    (hv : f (r.sread a) (r.sread b) = v) :
    ∃ t, alu2 i d a b f s = .next t ∧ onlyGroup s t g (((begun i s r).takes i d v).goesOn (r.spc + 4)) :=
  scalarOp_put d _ v h rfl (by simpa only [begun_sread] using hv)

theorem alu1_puts {i : Instr} {s : State} {g : Nat} {r : Group} {d a : BitVec 6} {f : W64 → W64} {v : W64} (h : scalarTurn i s g r)
    (hv : f (r.sread a) = v) :
    ∃ t, alu1 i d a f s = .next t ∧ onlyGroup s t g (((begun i s r).takes i d v).goesOn (r.spc + 4)) :=
  scalarOp_put d _ v h rfl (by simpa only [begun_sread] using hv)

/-- Each instruction of `immediateValue` puts its value into its destination. -/
theorem immediate_puts {i : Instr} {s : State} {g : Nat} {r : Group} {d : BitVec 6} {v : W64} (h : scalarTurn i s g r)
    (hv : immediateValue r.sread i = some (d, v)) :
    ∃ t, exec i s = .next t ∧ onlyGroup s t g (((begun i s r).takes i d v).goesOn (r.spc + 4)) := by
  cases i <;> cases hv
  case sadd => exact (show ∃ t, execSadd _ _ _ s = .next t ∧ _ from alu2_puts h rfl)
  case ssub => exact (show ∃ t, execSsub _ _ _ s = .next t ∧ _ from alu2_puts h rfl)
  case sand => exact (show ∃ t, execSand _ _ _ s = .next t ∧ _ from alu2_puts h rfl)
  case sor => exact (show ∃ t, execSor _ _ _ s = .next t ∧ _ from alu2_puts h rfl)
  case sxor => exact (show ∃ t, execSxor _ _ _ s = .next t ∧ _ from alu2_puts h rfl)
  case sshl => exact (show ∃ t, execSshl _ _ _ s = .next t ∧ _ from alu2_puts h (shiftLeft_lowSix ..))
  case sshr => exact (show ∃ t, execSshr _ _ _ s = .next t ∧ _ from alu2_puts h (shiftRight_lowSix ..))
  case ssra => exact (show ∃ t, execSsra _ _ _ s = .next t ∧ _ from alu2_puts h (sshiftRight_lowSix ..))
  case smin => exact (show ∃ t, execSmin _ _ _ s = .next t ∧ _ from alu2_puts h (sminW_eq ..))
  case smax => exact (show ∃ t, execSmax _ _ _ s = .next t ∧ _ from alu2_puts h (smaxW_eq ..))
  case sminu => exact (show ∃ t, execSminu _ _ _ s = .next t ∧ _ from alu2_puts h (sminuW_eq ..))
  case smaxu => exact (show ∃ t, execSmaxu _ _ _ s = .next t ∧ _ from alu2_puts h (smaxuW_eq ..))
  case scmp => exact (show ∃ t, execScmp _ _ _ _ s = .next t ∧ _ from alu2_puts h (by rw [scmpHolds_eq]))
  case ssel => exact (show ∃ t, execSsel _ _ _ _ s = .next t ∧ _ from scalarOp_put _ _ _ h rfl (by simp only [begun_sread]))
  case spopc => exact (show ∃ t, execSpopc _ _ s = .next t ∧ _ from alu1_puts h (congrArg w64 (popGo_eq _ 64)))
  case sclz => exact (show ∃ t, execSclz _ _ s = .next t ∧ _ from alu1_puts h (congrArg w64 (clzW_eq _)))
  case saddi => exact (show ∃ t, execSaddi _ _ _ s = .next t ∧ _ from alu1_puts h rfl)
  case sandi => exact (show ∃ t, execSandi _ _ _ s = .next t ∧ _ from alu1_puts h rfl)
  case sori => exact (show ∃ t, execSori _ _ _ s = .next t ∧ _ from alu1_puts h rfl)
  case sxori => exact (show ∃ t, execSxori _ _ _ s = .next t ∧ _ from alu1_puts h rfl)
  case sshli => exact (show ∃ t, execSshli _ _ _ s = .next t ∧ _ from alu1_puts h rfl)
  case sshri => exact (show ∃ t, execSshri _ _ _ s = .next t ∧ _ from alu1_puts h rfl)
  case ssrai => exact (show ∃ t, execSsrai _ _ _ s = .next t ∧ _ from alu1_puts h rfl)
  case sli => exact (show ∃ t, execSli _ _ s = .next t ∧ _ from scalarOp_put _ _ _ h rfl rfl)
  case slui => exact (show ∃ t, execSlui _ _ s = .next t ∧ _ from scalarOp_put _ _ _ h rfl (shiftLeft_thirteen _))
  case slxi => exact (show ∃ t, execSlxi _ _ s = .next t ∧ _ from scalarOp_put _ _ _ h rfl (by rw [slxiVal_eq, begun_sread]))

/-- Settles O1: each instruction by its value above. -/
theorem immediateArithmetic : Obligations.ImmediateArithmetic := by
  unfold Obligations.ImmediateArithmetic
  exact fun i s g r d v h hv => immediate_puts h hv

end Sys2Proof.Machine
end

section
/-! SUPPORT. Scalar instructions that have to wait (R22, R148, R151), and the event an instruction schedules behind its record. -/
namespace Sys2Proof.Machine

/-- Every instruction that reads a scalar register has the frame of the scalar stream. -/
theorem exec_eq_scalarOp {i : Instr} (s : State) (h : (scalarNeeds i).reads ≠ []) : ∃ k, exec i s = scalarOp i s k := by
  cases i
  case sadd | ssub | sand | sor | sxor | sshl | sshr | ssra | smin | smax | sminu | smaxu | scmp | spopc | sclz | saddi | sandi | sori | sxori
      | sshli | sshri | ssrai =>
    simp only [exec, execSadd, execSsub, execSand, execSor, execSxor, execSshl, execSshr, execSsra, execSmin, execSmax, execSminu, execSmaxu,
      execScmp, execSpopc, execSclz, execSaddi, execSandi, execSori, execSxori, execSshli, execSshri, execSsrai, alu1, alu2]
    exact ⟨_, rfl⟩
  case smul | smulh | sdiv | sdivu | srem | smuli =>
    simp only [exec, execSmul, execSmulh, execSdiv, execSdivu, execSrem, execSmuli, aluLate]
    exact ⟨_, rfl⟩
  case ssel | slxi | sbr | sjmpr | sret | scallr | svrd | swaitp | swaita | spop | barinit | srds | swrs | sal | sbsal =>
    simp only [exec, execSsel, execSlxi, execSbr, execSjmpr, execSret, execScallr, execSvrd, execSwaitp, execSwaita, execSpop, execBarinit,
      execSrds, execSwrs, execSal, execSbsal]
    exact ⟨_, rfl⟩
  case sldb | sldh | sldw | sldd | sldsp | sstb | ssth | sstw | sstd | sstsp | satom | scas | lenq | lenqr =>
    simp only [exec, execSldb, execSldh, execSldw, execSldd, execSldsp, execSstb, execSsth, execSstw, execSstd, execSstsp, execSatom, execScas,
      execLenq, execLenqr, earlyLoad, heldStore, heldAtomic, enqueue]
    exact ⟨_, rfl⟩
  case cpy1d | cpy2d | cpyt | cpyres | cseal | cwaitb | cstat | bxfer | btarg | fcfgCreate | fcfgDelete | fcfgReadCounters | trmark | wpset =>
    simp only [exec, execCpy1d, execCpy2d, execCpyt, execCpyres, execCseal, execCwaitb, execCstat, execBxfer, execBtarg, execFcfgCreate,
      execFcfgDelete, execFcfgReadCounters, execTrmark, execWpset, xcmdOp]
    exact ⟨_, rfl⟩
  case fsdep | fstake | fscpy | xatom =>
    simp only [exec, execFsdep, execFstake, execFscpy, execXatom, fenScalar]
    exact ⟨_, rfl⟩
  all_goals exact absurd rfl h

@[simp] theorem grp?_sched (s : State) (n : Nat) (i : Instr) (l : List Nat) (g : Nat) : (s.sched n i l).grp? g = s.grp? g := rfl

/-- The end of an instruction that goes on behind itself. -/
theorem scalarOp_done_eq {i : Instr} {s s1 : State} {g : Nat} {r : Group} {k : Nat → Group → State → SRes} (h : scalarTurn i s g r)
    (hk : k g (begun i s r) (s.setGrp g (begun i s r)) = .done s1) :
    scalarOp i s k = .next (s1.modGrp g fun x => x.goesOn (r.spc + 4)).issued := by
  rw [scalarOp_go k h, hk, scalarEnd]

/-- An instruction that reads a pending register may not issue. -/
theorem gate_ne_go {i : Instr} {s : State} {g : Nat} {r : Group} {a : BitVec 6} (ha : a ∈ (scalarNeeds i).reads)
    (hp : (r.pend? a).isSome = true) : s.gate g r (scalarNeeds i) ≠ .go := by
  obtain ⟨p, hp⟩ := Option.isSome_iff_exists.1 hp
  have hmem : p ∈ ((scalarNeeds i).reads ++ (scalarNeeds i).dest.toList).filterMap r.pend? :=
    List.mem_filterMap.2 ⟨a, List.mem_append_left _ ha, hp⟩
  have hsome : (((scalarNeeds i).reads ++ (scalarNeeds i).dest.toList).filterMap r.pend?).isEmpty = false :=
    List.isEmpty_eq_false_iff.2 (List.ne_nil_of_mem hmem)
  unfold State.gate
  simp only [hsome, Bool.not_false, if_true]
  split_ifs <;> exact nofun

/-- A scalar instruction that may not issue stays, and asks at most for the drain. -/
theorem scalarOp_waits {i : Instr} {s : State} {g : Nat} {r : Group} (k : Nat → Group → State → SRes) (hc : s.cur = .scalar g)
    (hg : s.grp? g = some r) (hgate : s.gate g r (scalarNeeds i) ≠ .go) :
    ∃ t r', scalarOp i s k = .next t ∧ t = { s with groups := t.groups } ∧ t.grp? g = some r' ∧ r' = { r with drain := r'.drain } ∧
      ∀ h, h ≠ g → t.grp? h = s.grp? h := by
  cases hturn : s.gate g r (scalarNeeds i) with
  | go => exact absurd hturn hgate
  | stall =>
    have ht : scalarOp i s k = .next s := by unfold scalarOp; simp only [hc, hg, hturn]
    exact ⟨s, r, ht, rfl, hg, rfl, fun _ _ => rfl⟩
  | drain =>
    have ht : scalarOp i s k = .next (s.setGrp g { r with drain := true }) := by unfold scalarOp; simp only [hc, hg, hturn]
    exact ⟨_, { r with drain := true }, ht, rfl, grp?_setGrp _ _ _, rfl, fun _ hne => grp?_setGrp_ne _ _ hne⟩

end Sys2Proof.Machine
end

section
/-! Multiplies and divides, and the wait on their results: `Obligations.MultiplyDivide`. -/
namespace Sys2Proof.Machine

/-- An instruction with a latency leaves its destination pending and its result due behind the latency. -/
theorem aluLate_waits {i : Instr} {s : State} {g : Nat} {r : Group} {d : BitVec 6} {lat : Nat} {f : Group → W64} {v : W64}
    (h : scalarTurn i s g r) (hv : f (begun i s r) = v) :
    ∃ t, aluLate i d lat f s = .next t ∧
      t.grp? g = some (((begun i s r).waitsFor i d s.nextId .alu v).goesOn (r.spc + 4)) ∧ (∀ h, h ≠ g → t.grp? h = s.grp? h) ∧
      t = { s with groups := t.groups, timed := t.timed, nextId := s.nextId + 1, cur := .none } ∧
      t.timed = (s.sched lat .scalarResultWrite [g, s.nextId]).timed := by
  subst hv
  rw [← await_eq_waitsFor]
  refine ⟨_, scalarOp_done_eq h rfl, ?_, fun x hx => ?_, ?_, ?_⟩
  · rw [grp?_issued, grp?_modGrp, grp?_sched, grp?_setGrp]; rfl
  · rw [grp?_issued, grp?_modGrp_ne _ _ hx, grp?_sched, grp?_setGrp_ne _ _ hx]
    exact grp?_setGrp_ne _ _ hx
  · simp only [State.issued, State.modGrp, State.sched, State.schedR, State.setGrp]
  · rfl

/-- Each instruction of `latencyValue` leaves its value due after its latency. -/
theorem latency_waits {i : Instr} {s : State} {g : Nat} {r : Group} {d : BitVec 6} {lat : Nat} {v : W64} (h : scalarTurn i s g r)
    (hv : latencyValue r.sread i = some (d, lat, v)) :
    ∃ t, exec i s = .next t ∧
      t.grp? g = some (((begun i s r).waitsFor i d s.nextId .alu v).goesOn (r.spc + 4)) ∧ (∀ h, h ≠ g → t.grp? h = s.grp? h) ∧
      t = { s with groups := t.groups, timed := t.timed, nextId := s.nextId + 1, cur := .none } ∧
      t.timed = (s.sched lat .scalarResultWrite [g, s.nextId]).timed := by
  cases i <;> cases hv
  case smul => exact (show ∃ t, execSmul _ _ _ s = .next t ∧ _ from aluLate_waits h (by simp only [begun_sread]))
  case smuli => exact (show ∃ t, execSmuli _ _ _ s = .next t ∧ _ from aluLate_waits h (by simp only [begun_sread]))
  case smulh => exact (show ∃ t, execSmulh _ _ _ s = .next t ∧ _ from aluLate_waits h (by simp only [begun_sread, smulhW_eq]))
  case sdiv => exact (show ∃ t, execSdiv _ _ _ s = .next t ∧ _ from aluLate_waits h (by simp only [begun_sread, sdivW_eq]))
  case sdivu => exact (show ∃ t, execSdivu _ _ _ s = .next t ∧ _ from aluLate_waits h (by simp only [begun_sread, sdivuW_eq]))
  case srem => exact (show ∃ t, execSrem _ _ _ s = .next t ∧ _ from aluLate_waits h (by simp only [begun_sread, sremW_eq]))

/-- Settles O2: the values by `latency_waits`, the wait by the gate of the scalar frame. -/
theorem multiplyDivide : Obligations.MultiplyDivide := by
  unfold Obligations.MultiplyDivide
  refine ⟨fun i s g r d lat v h hv => latency_waits h hv, fun i s g r a hc hg ha hp => ?_⟩
  obtain ⟨k, hk⟩ := exec_eq_scalarOp s (List.ne_nil_of_mem ha)
  rw [hk]
  exact scalarOp_waits k hc hg (gate_ne_go ha hp)

end Sys2Proof.Machine
end

section
/-! Branches, jumps, calls and SBSAL: `Obligations.ControlTransfer`. -/
namespace Sys2Proof.Machine

theorem relTarget_eq {w : Nat} (pc : W64) (off : BitVec w) : relTarget pc off = pc + 4 * off.signExtend 64 := by
  rw [relTarget, BitVec.shiftLeft_eq_mul_twoPow, BitVec.mul_comm]; rfl

/-- A condition of SBR, on the sign bit and on zero (R70). -/
theorem condHolds_eq (c : Cond) (x : W64) : condHolds c x = branches c x := by
  have hsign : x.msb = decide (x.toInt < 0) := BitVec.msb_eq_toInt
  have hzero : (x == 0) = decide (x.toInt = 0) := by rw [beq_eq_decide]; exact decide_eq_decide.2 (BitVec.toInt_inj (y := 0)).symm
  have hlow : x.getLsbD 0 = decide (x.toNat % 2 = 1) := by rw [BitVec.getLsbD, Nat.testBit_zero]
  cases c
  case al => rfl
  case eqz => exact beq_eq_decide x 0
  case nez => rw [condHolds, branches, bne, beq_eq_decide, decide_not]
  case ltz => exact hsign
  case gez => rw [condHolds, branches, hsign]; grind
  case lez => rw [condHolds, branches, hsign, hzero]; grind
  case gtz => rw [condHolds, branches, bne, hsign, hzero]; grind
  case bs => exact hlow
  case bc => rw [condHolds, branches, hlow]; grind

/-- A call writes its link and goes to its target. -/
theorem scalarOp_call {i : Instr} {s : State} {g : Nat} {r : Group} {k : Nat → Group → State → SRes} {d : BitVec 6} {pc : W64}
    (h : scalarTurn i s g r) (hk : k g (begun i s r) (s.setGrp g (begun i s r)) =
      .jump ((s.setGrp g (begun i s r)).setGrp g ((begun i s r).put i d ((begun i s r).spc + 4))) pc) :
    ∃ t, scalarOp i s k = .next t ∧ onlyGroup s t g (((begun i s r).takes i d ((begun i s r).spc + 4)).goesOn pc) := by
  rw [← put_eq_takes]; exact scalarOp_jump _ pc h hk

/-- A branch goes to its target where its condition holds, and on behind itself where not. -/
theorem scalarOp_branch {i : Instr} {s : State} {g : Nat} {r : Group} {k : Nat → Group → State → SRes} {taken : Prop} [Decidable taken] {pc : W64}
    (h : scalarTurn i s g r) (hk : k g (begun i s r) (s.setGrp g (begun i s r)) =
      if taken then .jump (s.setGrp g (begun i s r)) pc else .done (s.setGrp g (begun i s r))) :
    ∃ t, scalarOp i s k = .next t ∧ onlyGroup s t g ((begun i s r).goesOn (if taken then pc else (begun i s r).spc + 4)) := by
  by_cases ht : taken
  · rw [if_pos ht] at hk ⊢
    exact scalarOp_jump_same pc h hk
  · rw [if_neg ht] at hk ⊢
    rw [begun_spc]
    exact scalarOp_same h hk

theorem sbsal_branches {e : BitVec 4} {a : BitVec 6} {off : BitVec 15} {s : State} {g : Nat} {r : Group} (h : scalarTurn (.sbsal e a off) s g r)
    (ha : (r.sread a).toNat < 256) : ∃ t, execSbsal e a off s = .next t ∧ onlyGroup s t g ((begun (.sbsal e a off) s r).goesOn
      (if 2 ^ e.toNat ≤ s.salRead (g / 32 / 80) (r.sread a).toNat then relTarget (begun (.sbsal e a off) s r).spc off
        else (begun (.sbsal e a off) s r).spc + 4)) := by
  refine scalarOp_branch h ?_
  simp only [begun_sread, if_neg (Nat.not_lt.2 (Nat.le_of_lt_succ ha))]
  rfl

/-- Each instruction of `controlTo` goes where it says. -/
theorem control_goes {i : Instr} {s : State} {g : Nat} {r r' : Group} {pc : W64} (h : scalarTurn i s g r)
    (hc : controlTo (fun m => s.salRead (g / 32 / 80) m.toNat) (begun i s r) r.sread i = some (pc, r')) :
    ∃ t, exec i s = .next t ∧ onlyGroup s t g (r'.goesOn pc) := by
  cases i <;> simp only [controlTo, ← relTarget_eq, ← condHolds_eq, reduceCtorEq] at hc
  case sbsal e a off =>
    by_cases ha : (r.sread a).toNat < 256
    · rw [if_pos ha] at hc
      cases hc
      exact (show ∃ t, execSbsal _ _ _ s = .next t ∧ _ from sbsal_branches h ha)
    · rw [if_neg ha] at hc
      cases hc
  all_goals cases hc
  case sbr => exact (show ∃ t, execSbr _ _ _ s = .next t ∧ _ from scalarOp_branch h (by rw [begun_sread]))
  case sjmp => exact (show ∃ t, execSjmp _ s = .next t ∧ _ from scalarOp_jump_same _ h rfl)
  case sjmpr => exact (show ∃ t, execSjmpr _ s = .next t ∧ _ from scalarOp_jump_same _ h (by rw [begun_sread]))
  case sret => exact (show ∃ t, execSret _ s = .next t ∧ _ from scalarOp_jump_same _ h (by rw [begun_sread]))
  case scall => exact (show ∃ t, execScall _ _ s = .next t ∧ _ from scalarOp_call h rfl)
  case scallr => exact (show ∃ t, execScallr _ _ s = .next t ∧ _ from scalarOp_call h (by rw [begun_sread]))

/-- Settles O3: each instruction by the lemma of its frame. -/
theorem controlTransfer : Obligations.ControlTransfer := by
  unfold Obligations.ControlTransfer
  exact fun i s g r r' pc h hc => control_goes h hc

end Sys2Proof.Machine
end

section
/-! The lane queue, waits and fences of the scalar stream: `Obligations.WaitsAndLaneQueue`. -/
namespace Sys2Proof.Machine

/-! ## Fences (R171, R313) -/

/-- An operation of a group in flight, of the kind that a predicate says. -/
def State.inFlight (s : State) (g : Nat) (p : MemOp → Bool) : Bool := s.ops.any fun o => o.2.agent.group? == some g && p o.2

theorem inFlight_or (s : State) (g : Nat) (p q : MemOp → Bool) :
    s.inFlight g (fun m => p m || q m) = (s.inFlight g p || s.inFlight g q) := by
  rw [State.inFlight, State.inFlight, State.inFlight, Bool.eq_iff_iff, Bool.or_eq_true, List.any_eq_true, List.any_eq_true, List.any_eq_true,
    ← exists_or]
  refine exists_congr fun o => ?_
  rw [← and_or_left, ← Bool.or_eq_true, Bool.and_or_distrib_left]

/-- What a fence of .cl or wider waits for (R171, R313), as the statement lists it. -/
def State.returned (s : State) (g : Nat) (r : Group) : Bool :=
  r.outs.all (fun o => !(o.ctr == .stc && (o.lane || o.rel) && !o.done)) && !s.inFlight g (fun m => m.kind == .atomic || m.kind == .cas) &&
    r.seen.all (fun id => !s.masked (g / 32) id) && decide (r.gwctMax < s.ptime)

theorem fenceHolds_team (s : State) (g : Nat) (r : Group) : s.fenceHolds g r .team =
    !s.inFlight g fun m => (m.kind == .store && !m.performed) || m.kind == .atomic || m.kind == .cas := by
  have hor := inFlight_or s g (fun m => m.kind == .store && !m.performed) (fun m => m.kind == .atomic || m.kind == .cas)
  simp only [← Bool.or_assoc] at hor
  rw [hor, Bool.not_or]
  simp only [State.fenceHolds, State.inFlight, Bool.and_assoc]

theorem fenceHolds_cl (s : State) (g : Nat) (r : Group) : s.fenceHolds g r .cl = s.returned g r := by
  simp only [State.fenceHolds, State.returned, State.inFlight, List.not_any_eq_all_not, coreOfG]

theorem fenceHolds_sys (s : State) (g : Nat) (r : Group) :
    s.fenceHolds g r .sys = (s.returned g r && s.posted.all fun p => p.1 != g) := by
  rw [← fenceHolds_cl]
  simp only [State.fenceHolds, List.not_any_eq_all_not, bne]

theorem waitLeaves_team (s : State) (g : Nat) (r : Group) : waitLeaves s g r (.sfence .team) =
    if s.inFlight g fun m => (m.kind == .store && !m.performed) || m.kind == .atomic || m.kind == .cas then none else some r := rfl

/-- A fence goes on where the model's condition of its scope holds. -/
theorem waitLeaves_sfence (s : State) (g : Nat) (r : Group) (sc : Scope) :
    waitLeaves s g r (.sfence sc) = if s.fenceHolds g r sc then some r else none := by
  cases sc
  case grp => rfl
  case team =>
    rw [fenceHolds_team, waitLeaves_team]
    cases s.inFlight g _ <;> rfl
  case cl => rw [fenceHolds_cl]; rfl
  case dev => exact (show _ = if s.fenceHolds g r .cl then some r else none by rw [fenceHolds_cl]; rfl)
  case sys => rw [fenceHolds_sys]; rfl

theorem fence_goesOn {s : State} {g : Nat} {r : Group} {sc : Scope} (h : scalarTurn (.sfence sc) s g r)
    (hf : s.fenceHolds g (begun (.sfence sc) s r) sc = true) :
    ∃ t, execSfence sc s = .next t ∧ onlyGroup s t g ((begun (.sfence sc) s r).goesOn (r.spc + 4)) :=
  scalarOp_same h (if_pos hf)

/-! ## The lane queue (R166) -/

/-- The entry that LENQ and LENQR append, as the statement spells it. -/
def lqEntry (r : Group) (pc : W64) : LqEntry := ⟨pc, snapOf r.s, r.pos, r.checkpoint (r.spc + 4)⟩

theorem waitLeaves_lenq (s : State) (g : Nat) (r : Group) (off : BitVec 19) : waitLeaves s g r (.lenq off) =
    if r.lq.length < 8 then some { r with lq := r.lq ++ [lqEntry r (r.spc + 4 * off.signExtend 64)] } else none := rfl

theorem waitLeaves_lenqr (s : State) (g : Nat) (r : Group) (a : BitVec 6) : waitLeaves s g r (.lenqr a) =
    if r.lq.length < 8 then some { r with lq := r.lq ++ [lqEntry r (r.sread a)] } else none := rfl

theorem enqueue_goesOn {i : Instr} {s : State} {g : Nat} {r : Group} {entry : Group → W64} (h : scalarTurn i s g r)
    (hroom : (begun i s r).lq.length < 8) :
    ∃ t, enqueue i entry s = .next t ∧ onlyGroup s t g (Group.goesOn { begun i s r with
      lq := (begun i s r).lq ++ [lqEntry (begun i s r) (entry (begun i s r))] } (r.spc + 4)) :=
  scalarOp_done _ h (if_neg (Nat.not_le.2 hroom))

/-! ## Waits on counters and batches (R169, R170) -/

theorem waitLeaves_swaitc (s : State) (g : Nat) (r : Group) (l st c t : BitVec 3) : waitLeaves s g r (.swaitc l st c t) =
    if r.ctr .ldc ≤ l.toNat ∧ r.ctr .stc ≤ st.toNat ∧ r.ctr .cpc ≤ c.toNat ∧ r.ctr .tlc ≤ t.toNat then some r else none := rfl

/-- The counter that a SWAITP names, where it names none of the batches. -/
def waitCtr : WaitPath → Option Ctr
  | .ldc => some .ldc
  | .stc => some .stc
  | .cpc => some .cpc
  | .tlc => some .tlc
  | .cp => none

theorem waitLeaves_swaitp (s : State) (g : Nat) (r : Group) {p : WaitPath} {c : Ctr} (a : BitVec 6) (hp : waitCtr p = some c) :
    waitLeaves s g r (.swaitp p a) = if r.ctr c ≤ (r.sread a).toNat ∨ 63 ≤ (r.sread a).toNat then some r else none := by
  cases p <;> cases hp <;> rfl

theorem swaitp_counter {s : State} {g : Nat} {r : Group} {p : WaitPath} {c : Ctr} {a : BitVec 6} (h : scalarTurn (.swaitp p a) s g r)
    (hp : waitCtr p = some c)
    (hc : (begun (.swaitp p a) s r).ctr c ≤ ((begun (.swaitp p a) s r).sread a).toNat ∨ 63 ≤ ((begun (.swaitp p a) s r).sread a).toNat) :
    ∃ t, execSwaitp p a s = .next t ∧ onlyGroup s t g ((begun (.swaitp p a) s r).goesOn (r.spc + 4)) := by
  refine scalarOp_same h ?_
  cases p <;> cases hp <;> exact if_pos hc

/-- A batch of a group, and its state behind a wait on it (R278). -/
def Group.batch (r : Group) (n : Nat) : Batch := r.batches.getD n ⟨.idle, false, 0, 0, 0⟩

theorem waitLeaves_batch (s : State) (g : Nat) (r : Group) (a : BitVec 6) : waitLeaves s g r (.swaitp .cp a) =
    if 16 ≤ (r.sread a).toNat ∨ (r.sread a).toNat = r.openB then none
    else if (r.batch (r.sread a).toNat).st = .idle then some r
    else if (r.batch (r.sread a).toNat).st = .complete then some (r.retireBatch (r.sread a).toNat)
    else none := rfl

@[simp] theorem begun_openB (i : Instr) (s : State) (r : Group) : (begun i s r).openB = r.openB := by
  unfold begun; split <;> rfl

@[simp] theorem begun_batch (i : Instr) (s : State) (r : Group) (n : Nat) : (begun i s r).batch n = r.batch n := by
  unfold begun; split <;> rfl

theorem postedAfter_complete {s : State} {g : Nat} {r : Group} {a : BitVec 6} (hn : (r.sread a).toNat < 16)
    (hb : (r.batch (r.sread a).toNat).st = .complete) : postedAfter s g r (.swaitp .cp a) =
      s.posted.map fun p => if p.1 = (1 + (r.sread a).toNat) * 1048576 + g then (g, p.2) else p := if_pos ⟨hn, hb⟩

theorem postedAfter_idle {s : State} {g : Nat} {r : Group} {a : BitVec 6} (hb : (r.batch (r.sread a).toNat).st = .idle) :
    postedAfter s g r (.swaitp .cp a) = s.posted := by
  refine if_neg fun h => ?_
  have hst := hb.symm.trans h.2
  cases hst

theorem grp?_retire (s : State) (g n : Nat) : (s.retire g n).grp? g = (s.grp? g).map (·.retireBatch n) := grp?_modGrp s g (·.retireBatch n)

theorem grp?_retire_ne (s : State) {g h : Nat} (n : Nat) (hne : h ≠ g) : (s.retire g n).grp? h = s.grp? h := grp?_modGrp_ne s (·.retireBatch n) hne

theorem swaitp_batch_idle {s : State} {g : Nat} {r : Group} {a : BitVec 6} (h : scalarTurn (.swaitp .cp a) s g r)
    (hn : (r.sread a).toNat < 16) (ho : (r.sread a).toNat ≠ r.openB) (hb : (r.batch (r.sread a).toNat).st = .idle) :
    ∃ t, execSwaitp .cp a s = .next t ∧ onlyGroup s t g ((begun (.swaitp .cp a) s r).goesOn (r.spc + 4)) := by
  rw [← begun_batch (.swaitp .cp a) s r, Group.batch] at hb
  refine scalarOp_same h ?_
  simp only [begun_sread, begun_openB, hb]
  exact if_neg (not_or.2 ⟨Nat.not_le.2 hn, ho⟩)

/-- A wait on a complete batch makes it idle and takes its posted writes for the group's own. -/
theorem swaitp_batch_complete {s : State} {g : Nat} {r : Group} {a : BitVec 6} (h : scalarTurn (.swaitp .cp a) s g r)
    (hn : (r.sread a).toNat < 16) (ho : (r.sread a).toNat ≠ r.openB) (hb : (r.batch (r.sread a).toNat).st = .complete) :
    ∃ t, execSwaitp .cp a s = .next t ∧ onlyGroup { s with posted := postedAfter s g r (.swaitp .cp a) } t g
      (((begun (.swaitp .cp a) s r).retireBatch (r.sread a).toNat).goesOn (r.spc + 4)) := by
  rw [postedAfter_complete hn hb]
  rw [← begun_batch (.swaitp .cp a) s r, Group.batch] at hb
  have hbad : ¬(16 ≤ (r.sread a).toNat ∨ (r.sread a).toNat = r.openB) := not_or.2 ⟨Nat.not_le.2 hn, ho⟩
  refine ⟨_, scalarOp_done_eq (s1 := ((s.setGrp g (begun (.swaitp .cp a) s r)).setGrp g (begun (.swaitp .cp a) s r)).retire g (r.sread a).toNat)
    h ?_, ?_, ?_, fun x hx => ?_⟩
  · simp only [begun_sread, begun_openB, hb]
    exact if_neg hbad
  · simp only [State.issued, State.modGrp, State.retire, State.setGrp]
  · rw [grp?_issued, grp?_modGrp, grp?_retire, grp?_setGrp]; rfl
  · rw [grp?_issued, grp?_modGrp_ne _ _ hx, grp?_retire_ne _ _ hx, grp?_setGrp_ne _ _ hx, grp?_setGrp_ne _ _ hx]; rfl

/-! ## Each instruction -/

theorem waitLeaves_stfence (s : State) (g : Nat) (r : Group) :
    waitLeaves s g r .stfence = if r.flags &&& r.ftrapen = 0 then some r else none := rfl

/-- Each instruction of `waitLeaves` goes on with what it leaves. -/
theorem waits_goOn {i : Instr} {s : State} {g : Nat} {r r' : Group} (h : scalarTurn i s g r) (hw : waitLeaves s g (begun i s r) i = some r') :
    ∃ t, exec i s = .next t ∧ onlyGroup { s with posted := postedAfter s g r i } t g (r'.goesOn (r.spc + 4)) := by
  cases i
  case lenq off =>
    rw [waitLeaves_lenq, ← relTarget_eq] at hw
    split_ifs at hw with hroom
    cases hw
    exact (show ∃ t, execLenq _ s = .next t ∧ _ from enqueue_goesOn h hroom)
  case lenqr a =>
    rw [waitLeaves_lenqr] at hw
    split_ifs at hw with hroom
    cases hw
    exact (show ∃ t, execLenqr _ s = .next t ∧ _ from enqueue_goesOn h hroom)
  case swaitc =>
    rw [waitLeaves_swaitc] at hw
    split_ifs at hw with hc
    cases hw
    exact (show ∃ t, execSwaitc _ _ _ _ s = .next t ∧ _ from scalarOp_same h (if_pos hc))
  case swaitp p a =>
    cases hp : waitCtr p with
    | some c =>
      rw [waitLeaves_swaitp _ _ _ a hp] at hw
      split_ifs at hw with hc
      cases hw
      have hposted : postedAfter s g r (.swaitp p a) = s.posted := by
        cases p
        case cp => cases hp
        all_goals rfl
      rw [hposted]
      exact (show ∃ t, execSwaitp _ _ s = .next t ∧ _ from swaitp_counter h hp hc)
    | none =>
      cases p <;> cases hp
      rw [waitLeaves_batch, begun_sread, begun_openB, begun_batch] at hw
      split_ifs at hw with hbad hidle hdone
      · cases hw
        obtain ⟨hn, ho⟩ := not_or.1 hbad
        rw [postedAfter_idle hidle]
        exact (show ∃ t, execSwaitp _ _ s = .next t ∧ _ from swaitp_batch_idle h (Nat.not_le.1 hn) ho hidle)
      · cases hw
        obtain ⟨hn, ho⟩ := not_or.1 hbad
        exact (show ∃ t, execSwaitp _ _ s = .next t ∧ _ from swaitp_batch_complete h (Nat.not_le.1 hn) ho hdone)
  case sfence sc =>
    rw [waitLeaves_sfence] at hw
    split_ifs at hw with hf
    cases hw
    exact (show ∃ t, execSfence _ s = .next t ∧ _ from fence_goesOn h hf)
  case stfence =>
    rw [waitLeaves_stfence] at hw
    split_ifs at hw with hf
    cases hw
    exact (show ∃ t, execStfence s = .next t ∧ _ from scalarOp_same h (if_neg (not_not.2 hf)))
  all_goals cases hw
  case lsync => exact (show ∃ t, execLsync s = .next t ∧ _ from scalarOp_same h rfl)
  case snop => exact (show ∃ t, execSnop s = .next t ∧ _ from scalarOp_same h rfl)

/-- Settles O4: each instruction by the lemma of what it waits for. -/
theorem waitsAndLaneQueue : Obligations.WaitsAndLaneQueue := by
  unfold Obligations.WaitsAndLaneQueue
  exact fun i s g r r' h hw => waits_goOn h hw

end Sys2Proof.Machine
end

section
/-! Held barrier and allotment instructions, SYIELD and SEXIT: `Obligations.HeldYieldAndExit`. -/
namespace Sys2Proof.Machine

/-! ## Held instructions (R148, R175, R176, R179) -/

/-- An instruction that enters the commit queue with two values. -/
theorem scalarOp_holds {i : Instr} {s : State} {g : Nat} {r : Group} {k : Nat → Group → State → SRes} {x y : W64} (h : scalarTurn i s g r)
    (hk : k g (begun i s r) (s.setGrp g (begun i s r)) = .done ((s.setGrp g (begun i s r)).setGrp g ((begun i s r).push i 0 x y 0 none))) :
    ∃ t, scalarOp i s k = .next t ∧ onlyGroup s t g (((begun i s r).holds i 0 x y 0).goesOn (r.spc + 4)) :=
  scalarOp_done _ h hk

theorem heldLeaves_barinit (r : Group) (n : BitVec 4) (a b : BitVec 6) : heldLeaves r (.barinit n a b) =
    if (r.sread a).toNat < 0x400 ∧ (r.sread a).toNat / 256 < 2 ∧ (r.sread b).toNat < 2 ^ 32 then
      some (r.holds (.barinit n a b) 0 (r.sread a) (r.sread b) 0) else none := rfl

/-- Operands within their ranges pass the checks of BARINIT (R175). -/
theorem barinit_passes {x y : W64} (h : x.toNat < 0x400 ∧ x.toNat / 256 < 2 ∧ y.toNat < 2 ^ 32) :
    ¬(2 ≤ (x.extractLsb' 8 2).toNat ∨ x.toNat / 1024 ≠ 0 ∨ y.toNat / 4294967296 ≠ 0) := by
  have hbits : (x.extractLsb' 8 2).toNat = x.toNat / 256 % 4 := by rw [BitVec.extractLsb'_toNat, Nat.shiftRight_eq_div_pow]
  omega

/-- Each instruction of `heldLeaves` enters the commit queue. -/
theorem held_enters {i : Instr} {s : State} {g : Nat} {r r' : Group} (h : scalarTurn i s g r) (hl : heldLeaves (begun i s r) i = some r') :
    ∃ t, exec i s = .next t ∧ onlyGroup s t g (r'.goesOn (r.spc + 4)) := by
  cases i
  case barinit =>
    rw [heldLeaves_barinit] at hl
    split_ifs at hl with hok
    cases hl
    exact (show ∃ t, execBarinit _ _ _ s = .next t ∧ _ from scalarOp_holds h (if_neg (barinit_passes hok)))
  all_goals cases hl
  case bara => exact (show ∃ t, execBara _ _ s = .next t ∧ _ from scalarOp_holds h rfl)
  case sacq => exact (show ∃ t, execSacq s = .next t ∧ _ from scalarOp_holds h rfl)
  case srel => exact (show ∃ t, execSrel s = .next t ∧ _ from scalarOp_holds h rfl)

/-! ## SYIELD (R180) -/

theorem syield_holdsOff {s : State} {g : Nat} {r : Group} (h : scalarTurn .syield s g r) :
    ∃ t, execSyield s = .next t ∧ t.grp? g = some ({ begun .syield s r with holdUntil := s.ccount + 17 }.goesOn (r.spc + 4)) ∧
      t = { s with groups := t.groups, timed := t.timed, cur := .none } ∧ t.timed = (s.sched 17 .syieldExpiry [g]).timed := by
  refine ⟨_, scalarOp_done_eq h rfl, ?_, ?_, rfl⟩
  · rw [grp?_issued, grp?_modGrp, grp?_sched, grp?_setGrp]; rfl
  · simp only [State.issued, State.modGrp, State.sched, State.schedR, State.setGrp]

theorem syieldExpiry_ends {s : State} {g : Nat} {r : Group} (ha : s.args = [g]) (hg : s.grp? g = some r) (hdue : r.holdUntil ≤ s.ccount) :
    ∃ t, execSyieldExpiry s = .next t ∧ t = { s with groups := t.groups } ∧ t.grp? g = some { r with holdUntil := 0 } := by
  have h0 : s.a0 = g := by rw [State.a0, ha]; rfl
  refine ⟨_, rfl, rfl, ?_⟩
  rw [h0, grp?_modGrp, hg, Option.map_some, if_pos hdue]

/-! ## SEXIT (R181) -/

@[simp] theorem begun_rs (i : Instr) (s : State) (r : Group) : (begun i s r).rs = r.rs := by
  unfold begun; split <;> rfl

@[simp] theorem begun_outs (i : Instr) (s : State) (r : Group) : (begun i s r).outs = r.outs := by
  unfold begun; split <;> rfl

/-- A team with a group that has not ended stays. -/
theorem endTeamIfDone_keeps {s : State} {q : Nat} {m : Team} (hm : s.team? q = some m) (hn : m.ended.length ≠ m.groups) :
    s.endTeamIfDone q = s := by
  simp only [State.endTeamIfDone, hm, hn, decide_false, Bool.false_and, Bool.false_eq_true, if_false]

theorem kwf_setGrp {s : State} (g : Nat) (r : Group) (h : kwf s.groups = true) : kwf (s.setGrp g r).groups = true :=
  risesFrom_kset r h nofun

/-- The end of a group that is not its team's last one. -/
theorem endGroup_ends {s : State} {g : Nat} {r : Group} {m : Team} (hg : s.grp? g = some r) (hwf : kwf s.groups = true)
    (hm : s.team? r.team = some m) (hn : m.ended.length + 1 ≠ m.groups) :
    (s.endGroup g).grp? g = none ∧ (∀ h, h ≠ g → (s.endGroup g).grp? h = s.grp? h) ∧ (s.endGroup g).mem = s.mem ∧
      ∃ m', (s.endGroup g).team? r.team = some m' ∧ m'.ended = m.ended ++ [g] := by
  unfold State.endGroup
  simp only [hg]
  rw [endTeamIfDone_keeps (by rw [team?_modTeam]; exact congrArg _ hm) (by rwa [List.length_append])]
  exact ⟨kget_kdel_same g hwf, fun x hx => kget_kdel_ne hwf hx, rfl, _, (team?_modTeam _ _ _).trans (congrArg (Option.map _) hm), rfl⟩

theorem sexit_ends {s : State} {g : Nat} {r : Group} {m : Team} (h : scalarTurn .sexit s g r) (hout : r.outs = [])
    (hrs : (r.rs.any fun e => e.kind == .regroup) = false) (hwf : kwf s.groups = true) (hm : s.team? r.team = some m)
    (hn : m.ended.length + 1 ≠ m.groups) :
    ∃ t, execSexit s = .next t ∧ t.grp? g = none ∧ (∀ h, h ≠ g → t.grp? h = s.grp? h) ∧ t.mem = s.mem ∧
      ∃ m', t.team? r.team = some m' ∧ m'.ended = m.ended ++ [g] := by
  obtain ⟨hgone, hne, hmem, hteam⟩ := endGroup_ends (grp?_setGrp s g (begun .sexit s r)) (kwf_setGrp g _ hwf) (m := m) (by rwa [begun_team]) hn
  rw [begun_team] at hteam
  refine ⟨_, scalarOp_go _ h, ?_⟩
  simp only [begun_rs, begun_outs, hrs, hout, List.isEmpty_nil, Bool.false_eq_true, if_false, if_true, scalarEnd]
  exact ⟨hgone, fun x hx => (hne x hx).trans (grp?_setGrp_ne _ _ hx), hmem, hteam⟩

/-- Settles O6: each instruction by its own lemma above. -/
theorem heldYieldAndExit : Obligations.HeldYieldAndExit := by
  unfold Obligations.HeldYieldAndExit
  refine ⟨fun i s g r r' h hl => held_enters h hl, ⟨fun s g r h => ?_, fun s g r ha hg hdue => ?_⟩, fun s g r m h hout hrs hwf hm hn => ?_⟩
  · exact syield_holdsOff h
  · exact syieldExpiry_ends ha hg hdue
  · exact sexit_ends h hout hrs hwf hm hn

end Sys2Proof.Machine
end

section
/-! SUPPORT. What the checks of an access leave where they pass (R161, R201, R333): the use of a TLB entry is noted (R335), nothing else. -/
namespace Sys2Proof.Machine

theorem translate_hit {s u : State} {core ctx : Nat} {va : W64} {e : W64} {pa : Nat} (h : s.translate core ctx va = (.hit e pa, u)) :
    ∃ cs, u = { s with cores := cs } := by
  unfold State.translate at h
  dsimp only at h
  cases hf : tlbFind (s.core core).tlb (s.asnOf ctx) (vaLow va) with
  | some x =>
    simp only [hf] at h
    split_ifs at h <;> cases h
    exact ⟨_, rfl⟩
  | none =>
    simp only [hf] at h
    split at h
    · cases h
    · split_ifs at h <;> cases h

theorem checkVa_ok {s u : State} {core ctx : Nat} {va : W64} {need : Need} {fen : Bool} {e : W64} {pa : Nat}
    (h : s.checkVa core ctx va need fen = (.ok e pa, u)) : ∃ cs, u = { s with cores := cs } := by
  unfold State.checkVa at h
  dsimp only at h
  by_cases hcan : (!canonical va) = true
  · rw [if_pos hcan] at h
    cases h
  rw [if_neg hcan] at h
  cases ht : s.translate core ctx va with
  | mk x s1 =>
    rw [ht] at h
    cases x with
    | hit e pa =>
      dsimp only at h
      split_ifs at h <;> cases h
      exact translate_hit ht
    | miss => cases h
    | fault b => cases h

/-- The checks of a data access that pass change no more than the records of the cores. -/
theorem checkData_ok {s u : State} {core ctx : Nat} {va : W64} {size : Nat} {need : Need} {reads : Bool} {e : W64} {pa : Nat}
    (h : s.checkData core ctx va size need reads = (.ok e pa, u)) : ∃ cs, u = { s with cores := cs } := by
  unfold State.checkData at h
  by_cases ha : va.toNat % size ≠ 0
  · rw [if_pos ha] at h
    cases h
  rw [if_neg ha] at h
  cases hc : s.checkVa core ctx va need false with
  | mk x s1 =>
    rw [hc] at h
    cases x with
    | ok e pa =>
      dsimp only at h
      repeat' split at h
      all_goals cases h
      all_goals exact checkVa_ok hc
    | wait => cases h
    | bad b => cases h

end Sys2Proof.Machine
end

section
/-! SATOM and SCAS at issue: `Obligations.ScalarAtomics`. -/
namespace Sys2Proof.Machine

theorem boundPa_eq_keptPa (e : W64) (pa : Nat) : boundPa e pa = keptPa e pa := by
  unfold boundPa keptPa paClass
  by_cases h1 : pa / 1125899906842624 % 4 = 1 <;> cases isCoherentHost e <;> simp [h1]

/-- An address passes for a held atomic where it is no host address, or the link does this atomic. -/
theorem hostAtomicOk_of {u : State} {pa : Nat} {admitted : Bool} (h : pa / 2 ^ 50 % 4 = 1 → u.hostAtomics = true ∧ admitted = true) :
    u.hostAtomicOk pa admitted = true := by
  unfold State.hostAtomicOk paClass
  by_cases h1 : pa / 1125899906842624 % 4 = 1
  · obtain ⟨hu, ha⟩ := h h1
    rw [hu, ha]; simp
  · simp [h1]

@[simp] theorem waitsFor_spc (r : Group) (i : Instr) (d : BitVec 6) (id : Nat) (why : PendWhy) (v : W64) : (r.waitsFor i d id why v).spc = r.spc := by
  unfold Group.waitsFor
  split_ifs <;> rfl

@[simp] theorem holds_spc (r : Group) (i : Instr) (pa : Nat) (x y : W64) (id : Nat) : (r.holds i pa x y id).spc = r.spc := rfl

theorem addOut_eq_counts {r : Group} {pc : W64} (id : Nat) (c : Ctr) (h : r.spc = pc) :
    r.addOut ⟨id, c, false, false, false, pc, false⟩ = r.counts id c false := by subst h; rfl

/-- The record behind an atomic at issue (R154, R163): held, its reply awaited, its counter raised, a bar to later loads. -/
def Group.atomicHeld (r : Group) (i : Instr) (d : BitVec 6) (pa : Nat) (x y : W64) (id : Nat) (c : Ctr) : Group :=
  let r1 := ((r.waitsFor i d id .reply 0).holds i pa x y id).counts id c false
  { r1 with barrierIds := r1.barrierIds ++ [id] }

theorem heldAtomic_holds {i : Instr} {s u : State} {g : Nat} {r : Group} {d a b : BitVec 6} {c : Ctr} {admitted : Bool} {x : Group → W64}
    {leaf : W64} {pa : Nat} (h : scalarTurn i s g r)
    (hcheck : (s.setGrp g (begun i s r)).checkData (g / 32) r.ctx (r.sread a) 8 .write true = (.ok leaf pa, u))
    (hhost : pa / 2 ^ 50 % 4 = 1 → u.hostAtomics = true ∧ admitted = true) :
    ∃ t, heldAtomic i d a b c admitted x s = .next t ∧ t = { u with groups := t.groups, nextId := u.nextId + 1, cur := .none } ∧ t.mem = s.mem ∧
      t.grp? g = some (((begun i s r).atomicHeld i d (keptPa leaf pa) (x (begun i s r)) (r.sread b) u.nextId c).goesOn (r.spc + 4)) ∧
      ∀ h, h ≠ g → t.grp? h = s.grp? h := by
  obtain ⟨cs, hu⟩ := checkData_ok hcheck
  refine ⟨_, scalarOp_done_eq (s1 := u.fresh.2.setGrp g ((begun i s r).atomicHeld i d (keptPa leaf pa) (x (begun i s r)) (r.sread b) u.nextId c))
    h ?_, ?_, ?_, ?_, fun y hy => ?_⟩
  · simp only [coreOfG, begun_ctx, begun_sread, hcheck, hostAtomicOk_of hhost, Bool.not_true, Bool.false_eq_true, if_false, State.fresh,
      await_eq_waitsFor, push_eq_holds, boundPa_eq_keptPa, addOut_eq_counts, holds_spc, waitsFor_spc]
    rfl
  · simp only [State.issued, State.modGrp, State.setGrp, State.fresh]
  · have hmem : u.mem = s.mem := by rw [hu]; rfl
    exact hmem
  · rw [grp?_issued, grp?_modGrp, grp?_setGrp]; rfl
  · rw [grp?_issued, grp?_modGrp_ne _ _ hy, grp?_setGrp_ne _ _ hy, hu]
    exact grp?_setGrp_ne _ _ hy

/-- Settles O9: both instructions have the meaning of `heldAtomic`. -/
theorem scalarAtomics : Obligations.ScalarAtomics := by
  unfold Obligations.ScalarAtomics
  intro i s g r d a b x c admitted leaf pa u h hf hcheck hhost
  cases i <;> cases hf
  case satom =>
    have hheld := heldAtomic_holds (d := d) (c := if d = 0 then .stc else .ldc) (b := b) (x := fun r => r.sread a) h hcheck hhost
    simp only [begun_sread] at hheld
    exact (show ∃ t, execSatom _ _ _ _ _ s = .next t ∧ _ from hheld)
  case scas =>
    have hheld := heldAtomic_holds (d := d) (c := .ldc) (b := b) (x := fun r => r.sread d) h hcheck hhost
    simp only [begun_sread] at hheld
    exact (show ∃ t, execScas _ _ _ _ s = .next t ∧ _ from hheld)

end Sys2Proof.Machine
end

section
/-! The results that are written later: `Obligations.LateResults`. -/
namespace Sys2Proof.Machine

/-! ## Scalar registers (R21, R22, R157) -/

theorem sread_congr {r x : Group} {k : BitVec 6} (he : x.exec = r.exec) (hs : x.s.getD k.toNat 0 = r.s.getD k.toNat 0) :
    x.sread k = r.sread k := by
  unfold Group.sread
  rw [he]
  split
  · rfl
  · rfl
  · rfl
  · rfl
  · exact hs

/-- A general register reads its place in the record. -/
theorem sread_general (r : Group) {k : BitVec 6} (h0 : k ≠ 0) (hk : k.toNat < 61) : r.sread k = r.s.getD k.toNat 0 := by
  have hz : k.toNat ≠ 0 := fun h => h0 (BitVec.eq_of_toNat_eq h)
  unfold Group.sread
  split
  · omega
  · omega
  · omega
  · omega
  · rfl

theorem sread_swrite (r : Group) {n : BitVec 6} (v : W64) (hn : n.toNat < 61) (k : BitVec 6) :
    (r.swrite n v).sread k = if k = n ∧ k ≠ 0 then v else r.sread k := by
  by_cases h0 : n = 0
  · have hw : r.swrite n v = r := if_pos (.inl (by rw [h0]; rfl))
    rw [hw, if_neg]
    rintro ⟨hk, hk0⟩
    exact hk0 (hk.trans h0)
  · have hz : n.toNat ≠ 0 := fun h => h0 (BitVec.eq_of_toNat_eq h)
    have hw : r.swrite n v = { r with s := r.s.setIfInBounds n.toNat v } := if_neg (by omega)
    rw [hw]
    by_cases hk : k = n
    · subst hk
      rw [if_pos ⟨rfl, h0⟩, sread_general _ h0 hn]
      exact getD_setIfInBounds_same r.s v 0 (by omega)
    · rw [if_neg fun h => hk h.1]
      exact sread_congr rfl (getD_setIfInBounds_ne r.s v 0 fun h => hk (BitVec.eq_of_toNat_eq h))

/-- A value that returns to a general register lands there and in no other register. -/
theorem landS_lands {r : Group} {id : Nat} {p : PendS} (v : W64) (hp : r.pendS.find? (·.id == id) = some p) (hreg : p.reg.toNat < 61) :
    r.lands (r.landS id v) p v := by
  have hid : p.id = id := by simpa using List.find?_some hp
  unfold Group.lands Group.landS
  simp only [hp, hid]
  refine ⟨trivial, fun k => ?_⟩
  exact (sread_congr rfl rfl).trans (sread_swrite r v hreg k)

@[simp] theorem landS_v (r : Group) (id : Nat) (v : W64) : (r.landS id v).v = r.v := by
  unfold Group.landS Group.swrite
  dsimp only
  split
  · split_ifs <;> rfl
  · rfl

@[simp] theorem landS_outs (r : Group) (id : Nat) (v : W64) : (r.landS id v).outs = r.outs := by
  unfold Group.landS Group.swrite
  dsimp only
  split
  · split_ifs <;> rfl
  · rfl

theorem scalarResultWrite_lands {s : State} {g id : Nat} {r : Group} {p : PendS} (ha : s.args = [g, id]) (hg : s.grp? g = some r)
    (hp : r.pendS.find? (·.id == id) = some p) (hreg : p.reg.toNat < 61) :
    ∃ t r', execScalarResultWrite s = .next t ∧ t = { s with groups := t.groups } ∧ t.grp? g = some r' ∧
      r.lands r' p p.val ∧ r'.v = r.v ∧ r'.outs = r.outs ∧ ∀ h, h ≠ g → t.grp? h = s.grp? h := by
  have h0 : s.a0 = g := by rw [State.a0, ha]; rfl
  have h1 : s.a1 = id := by rw [State.a1, ha]; rfl
  refine ⟨_, r.landS id p.val, rfl, rfl, ?_, landS_lands p.val hp hreg, ?_, ?_, fun x hx => ?_⟩
  · rw [h0, h1, grp?_modGrp, hg, Option.map_some, hp]
  · exact landS_v r id p.val
  · exact landS_outs r id p.val
  · rw [h0, grp?_modGrp_ne _ _ hx]

/-! ## Lane registers and masks (R190, R191) -/

theorem find?_none_of_notMem {α : Type} {l : List (Nat × α)} {x : Nat} (h : x ∉ l.map (·.1)) : l.find? (·.1 == x) = none := by
  rw [List.find?_eq_none]
  exact fun p hp he => h (List.mem_map.2 ⟨p, hp, beq_iff_eq.1 he⟩)

/-- A word that is written once reads what is written there. -/
theorem sget_foldl_sset {w : Nat} (l : List (Nat × BitVec w)) : ∀ {m : SMap w}, swf m = true → (l.map (·.1)).Nodup → ∀ k,
    sget (l.foldl (fun m p => sset m p.1 p.2) m) k = ((l.find? (·.1 == k)).map (·.2)).getD (sget m k) := by
  induction l with
  | nil => exact fun _ _ _ => rfl
  | cons p l ih =>
    intro m hm hd k
    obtain ⟨hp, hl⟩ := List.nodup_cons.1 hd
    rw [List.foldl_cons, ih (swf_sset p.1 p.2 hm) hl, List.find?_cons]
    by_cases hk : p.1 = k
    · subst hk
      rw [find?_none_of_notMem hp, beq_self_eq_true]
      exact sget_sset_same p.1 p.2 hm
    · rw [beq_false_of_ne hk, sget_sset_ne p.2 hm (Ne.symm hk)]

theorem toList_getD {α : Type} {n : Nat} (v : Vector α n) (i : Nat) (d : α) : v.toList.getD i d = v.getD i d := by
  simp [Vector.getD, List.getD]

/-- The masks behind writes of bits: the number of a mask, the bits written, their values (R191). -/
def writeMasks (l : List (Nat × Mask × Mask)) (k : Vector Mask 16) : Vector Mask 16 :=
  l.foldl (fun k p => k.setIfInBounds p.1 ((k.toList.getD p.1 0 &&& ~~~p.2.1) ||| (p.2.2 &&& p.2.1))) k

/-- A mask that is written once has the written bits. -/
theorem getD_writeMasks (l : List (Nat × Mask × Mask)) : ∀ (k : Vector Mask 16), (l.map (·.1)).Nodup → ∀ n, n < 16 →
    (writeMasks l k).getD n 0 = match l.find? (·.1 == n) with
      | some p => (k.getD n 0 &&& ~~~p.2.1) ||| (p.2.2 &&& p.2.1)
      | none => k.getD n 0 := by
  induction l with
  | nil => exact fun _ _ _ _ => rfl
  | cons p l ih =>
    intro k hd n hn
    obtain ⟨hp, hl⟩ := List.nodup_cons.1 hd
    rw [writeMasks, List.foldl_cons, ← writeMasks, ih _ hl n hn, List.find?_cons]
    by_cases hk : p.1 = n
    · subst hk
      rw [find?_none_of_notMem hp, beq_self_eq_true]
      exact (getD_setIfInBounds_same k _ 0 hn).trans (by rw [toList_getD])
    · rw [beq_false_of_ne hk, getD_setIfInBounds_ne _ _ _ (Ne.symm hk)]

theorem results_eq (r : Group) (now : Nat) (vw : List (Nat × W32)) (kw : List (Nat × Mask × Mask)) (fl : BitVec 8)
    (hw : ∀ p, p ∈ vw → r.writable (p.1 / 96) = true) : r.results now vw kw fl =
      Group.setFlags { r with v := vw.foldl (fun v p => sset v p.1 p.2) r.v, k := writeMasks kw r.k } now fl := by
  have hv : vw.foldl (fun v p => if r.writable (p.1 / 96) then sset v p.1 p.2 else v) r.v = vw.foldl (fun v p => sset v p.1 p.2) r.v :=
    List.foldl_ext _ _ _ fun v p hp => if_pos (hw p hp)
  unfold Group.results
  rw [hv]
  rfl

theorem laneResult_lands {s : State} {g id : Nat} {r : Group} {x : LanePend} (ha : s.args = [g, id]) (hg : s.grp? g = some r)
    (hx : r.lres.find? (·.id == id) = some x) (hwf : swf r.v = true) (hw : ∀ p, p ∈ x.vw → r.writable (p.1 / 96) = true)
    (hv : (x.vw.map (·.1)).Nodup) (hk : (x.kw.map (·.1)).Nodup) :
    ∃ t r', execLaneResultWrite s = .next t ∧ t = { s with groups := t.groups } ∧ t.grp? g = some r' ∧
      r' = { r with v := r'.v, k := r'.k, flags := r.flags ||| x.flags, fset := r'.fset, lres := r.lres.filter (·.id != id), pendV := r.pendV.filter (·.id != id) } ∧
      (∀ k, sget r'.v k = ((x.vw.find? (·.1 == k)).map (·.2)).getD (sget r.v k)) ∧
      (∀ n, n < 16 → r'.kreg n = match x.kw.find? (·.1 == n) with
        | some p => (r.kreg n &&& ~~~p.2.1) ||| (p.2.2 &&& p.2.1)
        | none => r.kreg n) ∧ ∀ h, h ≠ g → t.grp? h = s.grp? h := by
  have h0 : s.a0 = g := by rw [State.a0, ha]; rfl
  have h1 : s.a1 = id := by rw [State.a1, ha]; rfl
  refine ⟨_, { r.results s.ccount x.vw x.kw x.flags with lres := r.lres.filter (·.id != id), pendV := r.pendV.filter (·.id != id) },
    rfl, rfl, ?_, ?_, fun k => ?_, fun n hn => ?_, fun y hy => ?_⟩
  · rw [h0, h1, grp?_modGrp, hg, Option.map_some, Group.landLane, hx]
  · rw [results_eq _ _ _ _ _ hw]; rfl
  · rw [results_eq _ _ _ _ _ hw]
    exact sget_foldl_sset x.vw hwf hv k
  · rw [results_eq _ _ _ _ _ hw]
    exact getD_writeMasks x.kw r.k hk n hn
  · rw [h0, grp?_modGrp_ne _ _ hy]

/-! ## Team registers (R245) -/

theorem wResultWrite_lands {s : State} {q id : Nat} {m : Team} {p : PendW} (ha : s.args = [q, id]) (hm : s.team? q = some m)
    (hp : m.pendW.find? (·.id == id) = some p) :
    ∃ t, execWResultWrite s = .next t ∧ t = { s with teams := t.teams } ∧
      t.team? q = some { m.takes p.reg p.val with pendW := m.pendW.filter (·.id != id) } ∧ ∀ h, h ≠ q → t.team? h = s.team? h := by
  have h0 : s.a0 = q := by rw [State.a0, ha]; rfl
  have h1 : s.a1 = id := by rw [State.a1, ha]; rfl
  refine ⟨_, rfl, rfl, ?_, fun x hx => ?_⟩
  · rw [h0, h1, team?_modTeam, hm, Option.map_some, hp]; rfl
  · rw [h0, team?_modTeam_ne _ _ hx]

/-- Settles O33: each result by its own lemma above; LANE_RESULT_WRITE and SFU_RESULT_WRITE write alike. -/
theorem lateResults : Obligations.LateResults := by
  unfold Obligations.LateResults
  refine ⟨fun s g id r p ha hg hp hreg => ?_, fun i s g id r x hi ha hg hx hwf hw hv hk => ?_, fun s q id m p ha hm hp => ?_⟩
  · exact scalarResultWrite_lands ha hg hp hreg
  · have hlands := laneResult_lands ha hg hx hwf hw hv hk
    rcases hi with rfl | rfl
    · exact hlands
    · exact (show ∃ t r', execSfuResultWrite s = .next t ∧ _ from hlands)
  · exact wResultWrite_lands ha hm hp

end Sys2Proof.Machine
end

section
/-! SUPPORT. The beats of a lane instruction (R27, R189), and the results it writes now or leaves for later (R190, R225). -/
namespace Sys2Proof.Machine

/-! ## Beats -/

/-- A mask shifted down to a beat is not empty exactly where one of the beat's lanes is active. -/
theorem beat_ne_zero_iff (m : Mask) (b : Nat) : ((m >>> (32 * b)) &&& (0xFFFFFFFF : Mask)) ≠ 0 ↔ ∃ k, k < 32 ∧ m.getLsbD (b * 32 + k) = true := by
  have hlow (i : Nat) : (0xFFFFFFFF : Mask).getLsbD i = decide (i < 32) := Nat.testBit_two_pow_sub_one 32 i
  constructor
  · intro h
    by_contra hno
    refine h (BitVec.eq_of_getLsbD_eq fun i hi => ?_)
    rw [BitVec.getLsbD_and, hlow, BitVec.getLsbD_ushiftRight, Nat.mul_comm]
    by_cases hi32 : i < 32
    · have hoff : m.getLsbD (b * 32 + i) = false := Bool.eq_false_iff.2 fun hm => hno ⟨i, hi32, hm⟩
      simp [hoff]
    · simp [hi32]
  · rintro ⟨k, hk, hm⟩ h0
    have hbit := congrArg (fun x : Mask => x.getLsbD k) h0
    rw [BitVec.getLsbD_and, hlow, BitVec.getLsbD_ushiftRight, Nat.mul_comm, hm, decide_eq_true hk] at hbit
    simp at hbit

/-- The beats that issue are those with an active lane. -/
theorem beatsOf_eq (m : Mask) : beatsOf m = (List.range 3).filter fun b => beatRuns m (32 * b) := by
  refine List.filter_congr fun b _ => ?_
  have hb : 32 * b / 32 = b := Nat.mul_div_cancel_left b (by decide)
  rw [Bool.eq_iff_iff, bne_iff_ne, beat_ne_zero_iff, beatRuns, hb, List.any_eq_true]
  simp only [List.mem_range]

theorem length_beatsOf (m : Mask) : (beatsOf m).length = (List.range 3).countP fun b => beatRuns m (32 * b) := by
  rw [beatsOf_eq, List.countP_eq_length_filter]

/-- A lane's beat issues where one of the 32 lanes around it is active. -/
theorem mem_beatsOf_lane {m : Mask} {l : Nat} (hl : l < 96) : l / 32 ∈ beatsOf m ↔ beatRuns m l = true := by
  have hb : 32 * (l / 32) / 32 = l / 32 := Nat.mul_div_cancel_left _ (by decide)
  have h3 : l / 32 < 3 := by omega
  rw [beatsOf_eq, List.mem_filter, List.mem_range, beatRuns, beatRuns, hb]
  exact and_iff_right h3

/-- The beat of an active lane issues. -/
theorem beatRuns_of_active {m : Mask} {l : Nat} (h : m.getLsbD l = true) : beatRuns m l = true := by
  rw [beatRuns, List.any_eq_true]
  exact ⟨l % 32, List.mem_range.2 (Nat.mod_lt _ (by decide)), by rwa [Nat.div_add_mod']⟩

/-! ## Words that are written, in any order -/

/-- A word that is only ever written with one value has it, where it is written or had it before. -/
theorem sget_foldl_sset_eq {w : Nat} {k : Nat} {v : BitVec w} (l : List (Nat × BitVec w)) : ∀ {m : SMap w}, swf m = true →
    (∀ p ∈ l, p.1 = k → p.2 = v) → (sget m k = v ∨ ∃ p ∈ l, p.1 = k) → sget (l.foldl (fun m p => sset m p.1 p.2) m) k = v := by
  induction l with
  | nil => exact fun _ _ h => h.resolve_right nofun
  | cons p l ih =>
    intro m hm hv h
    rw [List.foldl_cons]
    refine ih (swf_sset p.1 p.2 hm) (fun q hq => hv q (List.mem_cons_of_mem _ hq)) ?_
    by_cases hk : p.1 = k
    · left
      rw [← hk, sget_sset_same p.1 p.2 hm, hv p List.mem_cons_self hk]
    · rw [sget_sset_ne p.2 hm (Ne.symm hk)]
      rcases h with h | ⟨q, hq, hqk⟩
      · exact .inl h
      · rcases List.mem_cons.1 hq with rfl | hq
        · exact absurd hqk hk
        · exact .inr ⟨q, hq, hqk⟩

/-- Results of lane words alone, which neither write masks nor raise flags. -/
def wordsOnly (L : List LanePend) : Prop := ∀ p ∈ L, p.kw = [] ∧ p.flags = 0

/-- The words of pending results. -/
def pendWords (L : List LanePend) : List (Nat × W32) := L.flatMap (·.vw)

theorem results_words {r : Group} (now : Nat) {vw : List (Nat × W32)} (hw : ∀ p, p ∈ vw → r.writable (p.1 / 96) = true) :
    ∃ fs, r.results now vw [] 0 = { r with v := vw.foldl (fun v p => sset v p.1 p.2) r.v, fset := fs } := by
  have hflags : r.flags ||| 0 = r.flags := BitVec.or_zero
  rw [results_eq r now vw [] 0 hw, Group.setFlags, hflags]
  exact ⟨_, rfl⟩

/-- Pending results of words, once all are written. -/
theorem foldl_results_words (L : List LanePend) : ∀ {y : Group}, wordsOnly L → (∀ p, p ∈ pendWords L → y.writable (p.1 / 96) = true) →
    ∃ fs, L.foldl (fun x p => x.results 0 p.vw p.kw p.flags) y =
      { y with v := (pendWords L).foldl (fun v p => sset v p.1 p.2) y.v, fset := fs } := by
  induction L with
  | nil => exact fun _ _ => ⟨_, rfl⟩
  | cons p L ih =>
    intro y hL hw
    obtain ⟨⟨hk, hf⟩, hL⟩ := List.forall_mem_cons.1 hL
    have hsplit : pendWords (p :: L) = p.vw ++ pendWords L := List.flatMap_cons
    rw [hsplit] at hw ⊢
    obtain ⟨fs, hp⟩ := results_words (r := y) 0 (vw := p.vw) fun q hq => hw q (List.mem_append_left _ hq)
    rw [List.foldl_cons, hk, hf, hp]
    obtain ⟨fs', hrest⟩ := ih (y := { y with v := p.vw.foldl (fun v p => sset v p.1 p.2) y.v, fset := fs }) hL
      fun q hq => hw q (List.mem_append_right _ hq)
    exact ⟨fs', by rw [hrest, List.foldl_append]⟩

/-! ## Results now and later (R190, R225) -/

/-- A record with some words written and some results pending. -/
def Group.wrote (r : Group) (A : List (Nat × W32)) (L : List LanePend) (fset : Nat × BitVec 8) (pendV : List PendV) : Group :=
  { r with v := A.foldl (fun v p => sset v p.1 p.2) r.v, fset := fset, lres := r.lres ++ L, pendV := pendV }

/-- From s to u only the record of group g has changed, and results that are due later have been scheduled: of the words `T`, in any order,
those of `A` are in the record's registers and the others in its pending results `L`. -/
structure wordsLeft (s u : State) (g : Nat) (r : Group) (T A : List (Nat × W32)) (L : List LanePend) : Prop where
  frame : u = { s with groups := u.groups, timed := u.timed, nextId := u.nextId }
  others : ∀ h, h ≠ g → u.grp? h = s.grp? h
  grp : ∃ fs pv, u.grp? g = some (r.wrote A L fs pv)
  words : wordsOnly L
  all : ∀ p, p ∈ A ++ pendWords L ↔ p ∈ T

theorem wordsLeft_refl {s : State} {g : Nat} {r : Group} (hg : s.grp? g = some r) : wordsLeft s s g r [] [] [] :=
  ⟨rfl, fun _ _ => rfl, ⟨r.fset, r.pendV, by rw [hg, Group.wrote, List.append_nil]; rfl⟩, nofun, fun _ => Iff.rfl⟩

/-- Words that are written in the cycle itself. -/
theorem wordsLeft.now {s u : State} {g : Nat} {r : Group} {T A : List (Nat × W32)} {L : List LanePend} (h : wordsLeft s u g r T A L)
    (n : Nat) {W : List (Nat × W32)} (hw : ∀ p, p ∈ W → r.writable (p.1 / 96) = true) :
    wordsLeft s (u.modGrp g fun y => y.results n W [] 0) g r (T ++ W) (A ++ W) L := by
  obtain ⟨hframe, hothers, ⟨fs, pv, hgrp⟩, hL, hall⟩ := h
  obtain ⟨fs', hy⟩ := results_words (r := r.wrote A L fs pv) n hw
  refine ⟨?_, fun x hx => ?_, ⟨fs', pv, ?_⟩, hL, fun p => ?_⟩
  · rw [hframe]; rfl
  · rw [grp?_modGrp_ne _ _ hx, hothers x hx]
  · rw [grp?_modGrp, hgrp, Option.map_some, hy, Group.wrote, Group.wrote, List.foldl_append]
  · have hp := hall p
    simp only [List.mem_append] at hp ⊢
    tauto

/-- Words that are left for later. -/
theorem wordsLeft.later {s u : State} {g : Nat} {r : Group} {T A : List (Nat × W32)} {L : List LanePend} (h : wordsLeft s u g r T A L)
    (c vd n : Nat) (W : List (Nat × W32)) : ∃ L', wordsLeft s (u.later g false c vd n (W, [], 0)) g r (T ++ W) A L' := by
  obtain ⟨hframe, hothers, ⟨fs, pv, hgrp⟩, hL, hall⟩ := h
  refine ⟨L ++ [⟨u.nextId, false, W, [], 0, u.ccount + c, r.lpc⟩], ?_, fun x hx => ?_,
    ⟨fs, pv ++ ((if n = 0 then [] else [⟨u.nextId, false, vd, n, r.lpc⟩]) ++ []), ?_⟩, ?_, fun p => ?_⟩
  · rw [State.later, hgrp, hframe]; rfl
  · rw [State.later, hgrp]
    exact (grp?_sched _ _ _ _ _).trans ((grp?_setGrp_ne _ _ hx).trans (hothers x hx))
  · rw [State.later, hgrp]
    refine (grp?_sched _ _ _ _ _).trans ((grp?_setGrp _ _ _).trans ?_)
    simp only [Group.wrote, List.append_assoc]
    rfl
  · intro p hp
    rcases List.mem_append.1 hp with hp | hp
    · exact hL p hp
    · rw [List.mem_singleton.1 hp]
      exact ⟨rfl, rfl⟩
  · have hp := hall p
    simp only [pendWords, List.mem_append, List.flatMap_append, List.flatMap_cons, List.flatMap_nil, List.append_nil] at hp ⊢
    tauto

end Sys2Proof.Machine
end

section
/-! SUPPORT. Lane words that an instruction writes beat by beat, each beat in its cycle (R189 to R191): what they leave once all are written. -/
namespace Sys2Proof.Machine

/-! ## Beat by beat -/

/-- The results of some beats, without masks and flags: those of a beat without a delay now, the others later. -/
theorem wordsLeft.beats {s : State} {g : Nat} {r : Group} {res : Nat → LaneOut} (hres : ∀ j, (res j).2 = ([], 0))
    (hw : ∀ j p, p ∈ (res j).1 → r.writable (p.1 / 96) = true) (delay : Nat → Nat) (vd n : Nat) (js : List Nat) :
    ∀ {u : State} {T A : List (Nat × W32)} {L : List LanePend}, wordsLeft s u g r T A L →
      ∃ A' L', wordsLeft s (js.foldl (fun s j => if delay j = 0 then s.modGrp g fun y => y.results s.ccount (res j).1 (res j).2.1 (res j).2.2
        else s.later g false (delay j) vd n (res j)) u) g r (T ++ js.flatMap fun j => (res j).1) A' L' := by
  induction js with
  | nil => exact fun h => ⟨_, _, by rwa [List.flatMap_nil, List.append_nil]⟩
  | cons j js ih =>
    intro u T A L h
    have hj : res j = ((res j).1, [], 0) := Prod.ext rfl (hres j)
    rw [List.foldl_cons, List.flatMap_cons, ← List.append_assoc]
    by_cases hd : delay j = 0
    · rw [if_pos hd, hres j]
      exact ih (h.now u.ccount (hw j))
    · rw [if_neg hd, hj]
      obtain ⟨L', hl⟩ := h.later (delay j) vd n (res j).1
      exact ih hl

theorem mem_vWrites {vd l : Nat} {ws : List W32} {p : Nat × W32} :
    p ∈ vWrites vd l ws ↔ ∃ i, i < ws.length ∧ p = ((vd + i) * 96 + l, ws.getD i 0) := by
  rw [vWrites, List.mem_mapIdx]
  constructor
  · rintro ⟨i, hi, rfl⟩
    exact ⟨i, hi, by rw [List.getD_eq_getElem _ _ hi]⟩
  · rintro ⟨i, hi, rfl⟩
    exact ⟨i, hi, by rw [List.getD_eq_getElem _ _ hi]⟩

/-- The words of an instruction: those of its active lanes, and zeros in the lanes that the zero option clears. -/
def isLaneWord (r : Group) (f : LaneF) (eff : Mask) (vd n : Nat) (val : Nat → List W32) (p : Nat × W32) : Prop :=
  (∃ l, l ∈ lanesOf eff ∧ p ∈ vWrites vd l (val l)) ∨ ∃ l, l ∈ r.zeroLanes f eff ∧ p ∈ vWrites vd l (List.replicate n 0)

/-- The values of the active lanes, as words without masks and flags. -/
def wordVals (eff : Mask) (val : Nat → List W32) : List LVal := (lanesOf eff).map fun l => ⟨l, val l, [], 0⟩

theorem mem_resultOf {r : Group} {f : LaneF} {eff : Mask} {vd n b : Nat} {val : Nat → List W32} {p : Nat × W32} :
    p ∈ (r.resultOf f eff vd n [] (wordVals eff val) [b]).1 ↔
      (∃ l, (l ∈ lanesOf eff ∧ l / 32 = b) ∧ p ∈ vWrites vd l (val l)) ∨
      ∃ l, (l ∈ r.zeroLanes f eff ∧ l / 32 = b) ∧ p ∈ vWrites vd l (List.replicate n 0) := by
  simp only [Group.resultOf, List.mem_append, List.mem_flatMap, List.mem_filter, List.contains_cons, List.contains_nil, Bool.or_false, beq_iff_eq]
  refine or_congr_left ⟨?_, ?_⟩
  · rintro ⟨v, ⟨hv, hb⟩, hp⟩
    obtain ⟨l, hl, rfl⟩ := List.mem_map.1 hv
    exact ⟨l, ⟨hl, hb⟩, hp⟩
  · rintro ⟨l, ⟨hl, hb⟩, hp⟩
    exact ⟨_, ⟨List.mem_map.2 ⟨l, hl, rfl⟩, hb⟩, hp⟩

theorem resultOf_wordsOnly (r : Group) (f : LaneF) (eff : Mask) (vd n b : Nat) (val : Nat → List W32) :
    (r.resultOf f eff vd n [] (wordVals eff val) [b]).2 = ([], 0) := by
  refine Prod.ext rfl ?_
  have hfl : ∀ v, v ∈ (wordVals eff val).filter (fun v => [b].contains (v.lane / 32)) → v.fl = 0 := by
    intro v hv
    obtain ⟨l, -, rfl⟩ := List.mem_map.1 (List.mem_filter.1 hv).1
    rfl
  calc ((wordVals eff val).filter fun v => [b].contains (v.lane / 32)).foldl (fun a v => a ||| v.fl) 0
      = ((wordVals eff val).filter fun v => [b].contains (v.lane / 32)).foldl (fun a _ => a) (0 : BitVec 8) :=
        List.foldl_ext _ _ _ fun a v hv => by rw [hfl v hv]; exact BitVec.or_zero
    _ = 0 := List.foldl_fixed' (fun _ => rfl) _

/-! ## Once all beats are written -/

theorem map_getD_range (bs : List Nat) : (List.range bs.length).map (fun j => bs.getD j 0) = bs := by
  refine List.ext_getElem (by simp) fun i h1 h2 => ?_
  simp [h2]

/-- The lanes that the zero option clears are no active ones, and their beats issue. -/
theorem mem_zeroLanes {r : Group} {f : LaneF} {eff : Mask} {l : Nat} : l ∈ r.zeroLanes f eff ↔
    l < 96 ∧ eff.getLsbD l = false ∧ (f.zero && r.exec.getLsbD l && beatRuns eff l) = true := by
  unfold Group.zeroLanes
  by_cases hz : f.zero = true
  · rw [if_pos hz, List.mem_filter, mem_lanesOf, hz]
    simp only [Bool.and_eq_true, Bool.not_eq_true', List.contains_iff_mem, Bool.true_and]
    constructor
    · rintro ⟨⟨hl, he⟩, hn, hb⟩
      exact ⟨hl, hn, he, (mem_beatsOf_lane hl).1 hb⟩
    · rintro ⟨hl, hn, he, hb⟩
      exact ⟨⟨hl, he⟩, hn, (mem_beatsOf_lane hl).2 hb⟩
  · rw [if_neg hz, Bool.eq_false_iff.2 hz]
    simp

/-- The words of all beats are those of the instruction. -/
theorem mem_beatWords {r : Group} {f : LaneF} {eff : Mask} {vd n : Nat} {val : Nat → List W32} {p : Nat × W32} :
    (p ∈ (List.range (beatsOf eff).length).flatMap fun j => (r.resultOf f eff vd n [] (wordVals eff val) [(beatsOf eff).getD j 0]).1) ↔
      isLaneWord r f eff vd n val p := by
  have hmap : ((List.range (beatsOf eff).length).flatMap fun j => (r.resultOf f eff vd n [] (wordVals eff val) [(beatsOf eff).getD j 0]).1) =
      (beatsOf eff).flatMap fun b => (r.resultOf f eff vd n [] (wordVals eff val) [b]).1 := by
    conv_rhs => rw [← map_getD_range (beatsOf eff), List.flatMap_map]
  rw [hmap, List.mem_flatMap]
  simp only [mem_resultOf]
  constructor
  · rintro ⟨b, -, ⟨l, ⟨hl, -⟩, hp⟩ | ⟨l, ⟨hl, -⟩, hp⟩⟩
    · exact .inl ⟨l, hl, hp⟩
    · exact .inr ⟨l, hl, hp⟩
  · rintro (⟨l, hl, hp⟩ | ⟨l, hl, hp⟩)
    · obtain ⟨h96, he⟩ := mem_lanesOf.1 hl
      exact ⟨l / 32, (mem_beatsOf_lane h96).2 (beatRuns_of_active he), .inl ⟨l, ⟨hl, rfl⟩, hp⟩⟩
    · obtain ⟨h96, -, hz⟩ := mem_zeroLanes.1 hl
      exact ⟨l / 32, (mem_beatsOf_lane h96).2 (Bool.and_eq_true_iff.1 hz).2, .inr ⟨l, ⟨hl, rfl⟩, hp⟩⟩

theorem isLaneWord.place {r : Group} {f : LaneF} {eff : Mask} {vd n : Nat} {val : Nat → List W32} {p : Nat × W32}
    (h : isLaneWord r f eff vd n val p) (hlen : ∀ l, (val l).length = n) :
    ∃ i l, i < n ∧ l < 96 ∧ p.1 = (vd + i) * 96 + l := by
  rcases h with ⟨l, hl, hp⟩ | ⟨l, hl, hp⟩
  · obtain ⟨i, hi, rfl⟩ := mem_vWrites.1 hp
    rw [hlen] at hi
    exact ⟨i, l, hi, (mem_lanesOf.1 hl).1, rfl⟩
  · obtain ⟨i, hi, rfl⟩ := mem_vWrites.1 hp
    rw [List.length_replicate] at hi
    exact ⟨i, l, hi, (mem_zeroLanes.1 hl).1, rfl⟩

/-- The word that an instruction leaves in a register of a lane (R191). -/
def laneWordAt (r : Group) (f : LaneF) (eff : Mask) (vd n : Nat) (val : Nat → List W32) (reg l : Nat) : W32 :=
  if vd ≤ reg ∧ reg < vd + n then
    if eff.getLsbD l then (val l).getD (reg - vd) 0 else if f.zero && r.exec.getLsbD l && beatRuns eff l then 0 else r.vget reg l
  else r.vget reg l

/-- What an instruction writes at a register of a lane is the word that it leaves there. -/
theorem isLaneWord.value {r : Group} {f : LaneF} {eff : Mask} {vd n : Nat} {val : Nat → List W32} {p : Nat × W32} {reg l : Nat}
    (h : isLaneWord r f eff vd n val p) (hlen : ∀ l, (val l).length = n) (hl : l < 96) (hp : p.1 = reg * 96 + l) :
    p.2 = laneWordAt r f eff vd n val reg l := by
  unfold laneWordAt
  rcases h with ⟨l', hl', hmem⟩ | ⟨l', hl', hmem⟩
  · obtain ⟨i, hi, rfl⟩ := mem_vWrites.1 hmem
    obtain ⟨h96, he⟩ := mem_lanesOf.1 hl'
    rw [hlen] at hi
    dsimp only at hp
    obtain rfl : l' = l := by omega
    obtain rfl : reg = vd + i := by omega
    rw [if_pos (by omega), if_pos he, Nat.add_sub_cancel_left]
  · obtain ⟨i, hi, rfl⟩ := mem_vWrites.1 hmem
    obtain ⟨h96, hn, hz⟩ := mem_zeroLanes.1 hl'
    rw [List.length_replicate] at hi
    dsimp only at hp
    obtain rfl : l' = l := by omega
    obtain rfl : reg = vd + i := by omega
    rw [if_pos (by omega), hn, if_neg Bool.false_ne_true, if_pos hz, List.getD_replicate _ hi]

/-- Where an instruction writes nothing, it leaves the register's own word. -/
theorem exists_isLaneWord (r : Group) (f : LaneF) (eff : Mask) (vd n : Nat) (val : Nat → List W32) {reg l : Nat} (hlen : ∀ l, (val l).length = n)
    (hl : l < 96) : r.vget reg l = laneWordAt r f eff vd n val reg l ∨ ∃ p, isLaneWord r f eff vd n val p ∧ p.1 = reg * 96 + l := by
  unfold laneWordAt
  by_cases hreg : vd ≤ reg ∧ reg < vd + n
  · obtain ⟨hlo, hhi⟩ := hreg
    rw [if_pos ⟨hlo, hhi⟩]
    have hkey : (vd + (reg - vd)) * 96 + l = reg * 96 + l := by rw [Nat.add_sub_cancel' hlo]
    by_cases he : eff.getLsbD l = true
    · exact .inr ⟨_, .inl ⟨l, mem_lanesOf.2 ⟨hl, he⟩, mem_vWrites.2 ⟨reg - vd, by rw [hlen]; omega, rfl⟩⟩, hkey⟩
    · rw [if_neg he]
      by_cases hz : (f.zero && r.exec.getLsbD l && beatRuns eff l) = true
      · exact .inr ⟨_, .inr ⟨l, mem_zeroLanes.2 ⟨hl, Bool.eq_false_iff.2 he, hz⟩, mem_vWrites.2 ⟨reg - vd, by rw [List.length_replicate]; omega, rfl⟩⟩,
          hkey⟩
      · exact .inl (if_neg hz).symm
  · exact .inl (if_neg hreg).symm

/-- A record whose registers and pending results hold the words of an instruction lands as the statement says. -/
theorem laneLands_of_words {r r' : Group} {f : LaneF} {vd n : Nat} {val : Nat → List W32} {A : List (Nat × W32)} {L : List LanePend}
    (hwf : swf r.v = true) (hv : r'.v = A.foldl (fun v p => sset v p.1 p.2) r.v) (hk : r'.k = r.k) (hflags : r'.flags = r.flags)
    (hrg : r'.rg = r.rg) (hlres : r'.lres = r.lres ++ L) (hL : wordsOnly L) (hw : ∀ j, j < n → r.writable (vd + j) = true)
    (hlen : ∀ l, (val l).length = n) (hall : ∀ p, p ∈ A ++ pendWords L ↔ isLaneWord r f (r.eff f.men) vd n val p) :
    laneLands r (landed r r') f vd n val none (fun _ => 0) := by
  have hwr : ∀ p, p ∈ pendWords L → r'.writable (p.1 / 96) = true := by
    intro p hp
    obtain ⟨i, l, hi, hl, hkey⟩ := ((hall p).1 (List.mem_append_right _ hp)).place hlen
    have hreg : p.1 / 96 = vd + i := by omega
    rw [hreg, Group.writable, hrg]
    exact hw i hi
  obtain ⟨fs, hland⟩ := foldl_results_words L hL hwr
  have hdrop : r'.lres.drop r.lres.length = L := by rw [hlres, List.drop_left]
  rw [landed, hdrop, hland]
  refine ⟨fun l hl reg => ?_, fun m hm l hl => ?_, ?_⟩
  · change sget ((pendWords L).foldl (fun v p => sset v p.1 p.2) r'.v) (reg * 96 + l) = laneWordAt r f (r.eff f.men) vd n val reg l
    rw [hv, ← List.foldl_append]
    refine sget_foldl_sset_eq _ hwf (fun p hp hkey => ((hall p).1 hp).value hlen hl hkey) ?_
    exact (exists_isLaneWord r f (r.eff f.men) vd n val hlen hl).imp_right fun ⟨p, hp, hkey⟩ => ⟨p, (hall p).2 hp, hkey⟩
  · exact congrArg (fun k : Vector Mask 16 => (k.getD m 0).getLsbD l) hk
  · have hzero : ∀ l, (if (r.eff f.men).getLsbD l then r.flags ||| 0 else r.flags) = r.flags := fun l => by
      rw [show r.flags ||| 0 = r.flags from BitVec.or_zero, ite_self]
    exact hflags.trans (List.foldl_fixed' hzero _).symm

/-- An instruction that writes words of its active lanes at the end of their beats (R189 to R191). -/
theorem finish_words {s : State} {g : Nat} {r : Group} {f : LaneF} {vd n : Nat} {val : Nat → List W32} (pers : List Nat) (hg : s.grp? g = some r)
    (hw : ∀ j, j < n → r.writable (vd + j) = true) (hlen : ∀ l, (val l).length = n) :
    ∃ u cyc A L, finish f .now pers vd n [] g r (r.eff f.men) (wordVals (r.eff f.men) val) s = .done u cyc (beatsOf (r.eff f.men)).length ∧
      wordsLeft s u g r ((List.range (beatsOf (r.eff f.men)).length).flatMap fun j =>
        (r.resultOf f (r.eff f.men) vd n [] (wordVals (r.eff f.men) val) [(beatsOf (r.eff f.men)).getD j 0]).1) A L := by
  have hwr : ∀ j p, p ∈ (r.resultOf f (r.eff f.men) vd n [] (wordVals (r.eff f.men) val) [(beatsOf (r.eff f.men)).getD j 0]).1 →
      r.writable (p.1 / 96) = true := by
    intro j p hp
    have hword : isLaneWord r f (r.eff f.men) vd n val p :=
      (mem_resultOf.1 hp).imp (fun ⟨l, ⟨hl, _⟩, hm⟩ => ⟨l, hl, hm⟩) fun ⟨l, ⟨hl, _⟩, hm⟩ => ⟨l, hl, hm⟩
    obtain ⟨i, l, hi, hl, hkey⟩ := hword.place hlen
    have hreg : p.1 / 96 = vd + i := by omega
    rw [hreg]
    exact hw i hi
  obtain ⟨A, L, h⟩ := (wordsLeft_refl hg).beats (fun j => resultOf_wordsOnly r f _ vd n ((beatsOf (r.eff f.men)).getD j 0) val) hwr
    (fun j => (pers.take j).sum + pers.getD j 1 - 1) vd n (List.range (beatsOf (r.eff f.men)).length)
  exact ⟨_, _, A, L, rfl, h⟩

end Sys2Proof.Machine
end

section
/-! Scratchpad accesses and prefetches of the lane stream: `Obligations.LaneScratchpadAndPrefetch`. -/
namespace Sys2Proof.Machine

/-! ## The checks of the offsets (R208, R342) -/

/-- The offsets of the active lanes are aligned and within SPSIZE: no lane fails. -/
theorem spBad_none {m : Team} {eff : Mask} {off : Nat → Nat} {n kind : Nat} {write : Bool}
    (h : ∀ l, l < 96 → eff.getLsbD l = true → off l % n = 0 ∧ off l + n ≤ m.spSize) :
    spBad m n kind write ((lanesOf eff).map fun l => (l, off l)) = none := by
  rw [spBad, List.findSome?_eq_none_iff]
  intro p hp
  obtain ⟨l, hl, rfl⟩ := List.mem_map.1 hp
  obtain ⟨h96, he⟩ := mem_lanesOf.1 hl
  obtain ⟨halign, hin⟩ := h l h96 he
  have hspin : m.spIn (off l) n = true := decide_eq_true hin
  simp [halign, hspin]

/-- A scratchpad without poison poisons no read. -/
theorem spPoisoned_none {m : Team} (n : Nat) (offs : List (Nat × Nat)) (h : m.poison = []) : spPoisoned m n offs = none := by
  rw [spPoisoned, h]
  exact List.foldl_fixed' (fun _ => rfl) offs

theorem length_laneWords (size : MSize) (sext : Bool) (bs : List Byte) : (laneWords size sext bs).length = mwords size := by
  cases size <;> simp [laneWords, mwords]

/-! ## Loads -/

theorem laneTurn.record {n : LNeeds} {s : State} {g : Nat} {r : Group} (h : laneTurn n s g r) : s.grp? g = some r := by
  obtain ⟨-, hg, -, -⟩ := h
  exact hg

/-- An instruction whose words have been written or left for later goes on. -/
theorem wordsLeft.goesOn {s u : State} {g : Nat} {r : Group} {T A : List (Nat × W32)} {L : List LanePend} (h : wordsLeft s u g r T A L)
    (pc : W64) (cyc beats : Nat) : ∃ fs pv, onlyLane s ((u.modGrp g fun x => { x with lpc := pc }).laneIssued g cyc beats) g
      ((r.wrote A L fs pv).laneGoesOn pc s.ccount beats) := by
  obtain ⟨hframe, hothers, ⟨fs, pv, hgrp⟩, -, -⟩ := h
  obtain ⟨gs, ts, k, rfl⟩ : ∃ gs ts k, u = { s with groups := gs, timed := ts, nextId := k } := ⟨_, _, _, hframe⟩
  have honly : onlyRecord { s with timed := ts, nextId := k } { s with groups := gs, timed := ts, nextId := k } g (r.wrote A L fs pv) :=
    ⟨rfl, hgrp, hothers, fun _ _ => rfl, rfl⟩
  obtain ⟨ht, hg, hne, hcs, hc⟩ := honly.goesOn pc cyc beats
  refine ⟨fs, pv, ?_, hg, hne, hcs, hc⟩
  rw [ht]

/-- VLDSP (R208). -/
theorem execVldsp_lands {s : State} {g : Nat} {r : Group} {m : Team} {f : LaneF} {size : MSize} {imm : W32} (hm : s.teamOf r = some m)
    (hwf : swf r.v = true)
    (hin : ∀ l, l < 96 → (r.eff f.men).getLsbD l = true →
      r.laneOff f r.blkSnap imm l % mbytes size = 0 ∧ r.laneOff f r.blkSnap imm l + mbytes size ≤ m.spSize)
    (h : laneTurn ⟨addrRegs f false, [dataRegs f.vd size], kRegs f, [], none, false⟩ s g r) (hp : m.poison = [])
    (hw : ∀ j, j < mwords size → r.writable (f.vd.toNat + j) = true) :
    ∃ t r', execVldsp f size imm s = .next t ∧ onlyLane s t g r' ∧ r'.lpc = r.lpc + w64 (laneLen f) ∧
      laneLands r (landed r r') f f.vd.toNat (mwords size)
        (fun l => laneWords size (f.ty == .i32) (sgetL m.sp (r.laneOff f r.blkSnap imm l) (mbytes size))) none (fun _ => 0) := by
  have hlen : ∀ l, (laneWords size (f.ty == .i32) (sgetL m.sp (r.laneOff f r.blkSnap imm l) (mbytes size))).length = mwords size :=
    fun _ => length_laneWords _ _ _
  obtain ⟨u, cyc, A, L, hfin, hleft⟩ := finish_words (f := f) (vd := f.vd.toNat) (n := mwords size)
    (spBeats m (mbytes size) (r.eff f.men) ((lanesOf (r.eff f.men)).map fun l => (l, r.laneOff f r.blkSnap imm l))) h.record hw hlen
  obtain ⟨fs, pv, honly⟩ := hleft.goesOn (r.lpc + w64 (laneLen f)) cyc (beatsOf (r.eff f.men)).length
  refine ⟨_, _, ?_, honly, rfl, ?_⟩
  · rw [execVldsp, laneOp_go _ h]
    simp only [hm, spBad_none hin, spPoisoned_none _ _ hp, List.map_map]
    exact congrArg (fun x => Host.Outcome.next (laneEnd g (laneLen f) r.lpc x)) hfin
  · exact laneLands_of_words hwf rfl rfl rfl rfl rfl hleft.words hw hlen fun p => (hleft.all p).trans mem_beatWords

/-! ## Stores -/

/-- Every byte that is kept for the early loads is the one that stood there (R152). -/
def onlyOld (old : SMap 8) (hid : KMap Byte) : Prop := ∀ k b, kget hid k = some b → b = sget old k

/-- Every byte of a store behind the barrier words is kept for the early loads (R152). -/
def keptOld (old : SMap 8) (l : List (Nat × Byte)) (hid : KMap Byte) : Prop := ∀ p ∈ l, 256 ≤ p.1 → kget hid p.1 = some (sget old p.1)

/-- What a group keeps behind its own store of one byte (R152). -/
def hideByte (old : SMap 8) (h : KMap Byte) (p : Nat × Byte) : KMap Byte :=
  if p.1 < 256 then h else if (kget h p.1).isSome then h else kset h p.1 (sget old p.1)

theorem hideSp_own (old : SMap 8) (l : List (Nat × Byte)) (r : Group) : (r.hideSp true old l).hidSp = l.foldl (hideByte old) r.hidSp := by
  simp only [Group.hideSp, if_true]
  rfl

theorem kget_hideByte_of_some {old : SMap 8} {h : KMap Byte} {k : Nat} {b : Byte} (p : Nat × Byte) (hk : kget h k = some b) :
    kget (hideByte old h p) k = some b := by
  unfold hideByte
  split_ifs with _ hsome
  · exact hk
  · exact hk
  · have hne : k ≠ p.1 := fun heq => hsome (by rw [← heq, hk]; rfl)
    rw [kget_kset_ne _ _ hne, hk]

theorem onlyOld.hideByte {old : SMap 8} {h : KMap Byte} (ho : onlyOld old h) (p : Nat × Byte) : onlyOld old (hideByte old h p) := by
  unfold Machine.hideByte
  split_ifs
  · exact ho
  · exact ho
  · intro k b hk
    by_cases hkp : k = p.1
    · rw [hkp, kget_kset_same] at hk
      rw [hkp, Option.some.inj hk]
    · rw [kget_kset_ne _ _ hkp] at hk
      exact ho k b hk

theorem isSome_kget_hideByte (old : SMap 8) (h : KMap Byte) {p : Nat × Byte} (hp : 256 ≤ p.1) : (kget (hideByte old h p) p.1).isSome = true := by
  unfold Machine.hideByte
  rw [if_neg (Nat.not_lt.2 hp)]
  split_ifs with hs
  · exact hs
  · rw [kget_kset_same]; rfl

/-- A byte that is kept stays kept, as it is, when the group stores again. -/
theorem kget_hideBytes_of_some {old : SMap 8} {k : Nat} {b : Byte} (l : List (Nat × Byte)) : ∀ {h : KMap Byte}, kget h k = some b →
    kget (l.foldl (hideByte old) h) k = some b := by
  induction l with
  | nil => exact fun h => h
  | cons p l ih => exact fun h => ih (kget_hideByte_of_some p h)

theorem onlyOld.hideBytes {old : SMap 8} (l : List (Nat × Byte)) : ∀ {h : KMap Byte}, onlyOld old h → onlyOld old (l.foldl (Machine.hideByte old) h) := by
  induction l with
  | nil => exact fun h => h
  | cons p l ih => exact fun h => ih (h.hideByte p)

/-- Behind a store of the group every byte of it is kept. -/
theorem isSome_kget_hideBytes {old : SMap 8} (l : List (Nat × Byte)) : ∀ {h : KMap Byte}, ∀ p ∈ l, 256 ≤ p.1 →
    (kget (l.foldl (hideByte old) h) p.1).isSome = true := by
  induction l with
  | nil => nofun
  | cons q l ih =>
    intro h p hp hhi
    rcases List.mem_cons.1 hp with rfl | hp
    · obtain ⟨b, hb⟩ := Option.isSome_iff_exists.1 (isSome_kget_hideByte old h hhi)
      rw [List.foldl_cons, kget_hideBytes_of_some l hb]; rfl
    · exact ih p hp hhi

theorem onlyOld.hideSp {old : SMap 8} (l : List (Nat × Byte)) {r : Group} (h : onlyOld old r.hidSp) : onlyOld old (r.hideSp true old l).hidSp := by
  rw [hideSp_own]
  exact h.hideBytes l

theorem onlyOld.keptOld {old : SMap 8} {l : List (Nat × Byte)} {r : Group} (h : onlyOld old r.hidSp) :
    keptOld old l (r.hideSp true old l).hidSp := by
  rw [hideSp_own]
  intro p hp hhi
  obtain ⟨b, hb⟩ := Option.isSome_iff_exists.1 (isSome_kget_hideBytes (old := old) (h := r.hidSp) l p hp hhi)
  rw [hb, h.hideBytes l _ _ hb]

/-- What a store leaves for the early loads of the members of a team. -/
def State.hideOf (s : State) (who : Option Nat) (old : SMap 8) (l : List (Nat × Byte)) (gs : List Nat) : State :=
  gs.foldl (fun s g => match s.grp? g with
    | some r => if who = some g ∨ !r.hidSp.isEmpty then s.setGrp g (r.hideSp (who == some g) old l) else s
    | none => s) s

/-- Of the record of the group that stores nothing else changes; if it is a member, the old bytes are kept. -/
theorem grp?_hideOf {g : Nat} {r : Group} (old : SMap 8) (l : List (Nat × Byte)) (gs : List Nat) : ∀ {s : State} {hid : KMap Byte},
    s.grp? g = some { r with hidSp := hid } → ∃ hid', (s.hideOf (some g) old l gs).grp? g = some { r with hidSp := hid' } ∧
      (onlyOld old hid → g ∈ gs ∨ keptOld old l hid → keptOld old l hid') := by
  induction gs with
  | nil => exact fun {s hid} h => ⟨hid, h, fun _ hk => hk.resolve_left nofun⟩
  | cons x gs ih =>
    intro s hid h
    unfold State.hideOf
    rw [List.foldl_cons]
    by_cases hx : x = g
    · subst hx
      rw [h]
      dsimp only
      rw [if_pos (.inl rfl), beq_self_eq_true]
      obtain ⟨hid', hg, hkeep⟩ := ih (s := s.setGrp x (Group.hideSp { r with hidSp := hid } true old l))
        (hid := (Group.hideSp { r with hidSp := hid } true old l).hidSp) (grp?_setGrp _ _ _)
      exact ⟨hid', hg, fun ho _ => hkeep (onlyOld.hideSp (r := { r with hidSp := hid }) l ho)
        (.inr (onlyOld.keptOld (r := { r with hidSp := hid }) ho))⟩
    · have hstep (y : Group) : (s.setGrp x y).grp? g = some { r with hidSp := hid } := (grp?_setGrp_ne s y (Ne.symm hx)).trans h
      have hmem : g ∈ x :: gs ∨ keptOld old l hid → g ∈ gs ∨ keptOld old l hid :=
        Or.imp_left fun hg => (List.mem_cons.1 hg).resolve_left (Ne.symm hx)
      split
      · split_ifs
        · exact (ih (hstep _)).imp fun _ => .imp_right fun hk ho hg => hk ho (hmem hg)
        · exact (ih h).imp fun _ => .imp_right fun hk ho hg => hk ho (hmem hg)
      · exact (ih h).imp fun _ => .imp_right fun hk ho hg => hk ho (hmem hg)

/-- A store away from the barrier words leaves of the groups' records what its members keep for their early loads. -/
theorem spPut_frame {s : State} {q : Nat} {m : Team} {l : List (Nat × Byte)} (who : Option Nat) (hm : s.team? q = some m)
    (hl : ∀ p ∈ l, 256 ≤ p.1) (x : Nat) :
    (s.spPut q l who).grp? x = (s.hideOf who m.sp l m.members).grp? x ∧ (s.spPut q l who).ops = s.ops ∧
    (s.spPut q l who).ccount = s.ccount := by
  have hw : ((List.range 16).filter fun k => l.any fun p => p.1 / 16 == k) = [] := by
    rw [List.filter_eq_nil_iff]
    intro k hk hany
    obtain ⟨p, hp, hpk⟩ := List.any_eq_true.1 hany
    have h1 := hl p hp
    have h2 := List.mem_range.1 hk
    have h3 : p.1 / 16 = k := by simpa using hpk
    omega
  unfold State.spPut
  simp only [hw, hm, List.foldl_nil, Option.map_some, Option.getD_some]
  refine ⟨rfl, ?_, ?_⟩
  · exact foldl_keeps (fun s : State => s.ops) (fun s g => by (repeat' split) <;> rfl) m.members s
  · exact foldl_keeps (fun s : State => s.ccount) (fun s g => by (repeat' split) <;> rfl) m.members s

/-- The bytes that VSTSP stores, in ascending order of the lanes. -/
def laneBytesOf (r : Group) (f : LaneF) (size : MSize) (imm : W32) : List (Nat × Byte) :=
  (lanesOf (r.eff f.men)).flatMap fun l => (r.storeBytes f.vd.toNat size l).mapIdx fun j b => (r.laneOff f r.blkSnap imm l + j, b)

theorem length_storeBytes (r : Group) (vd : Nat) (size : MSize) (l : Nat) : (r.storeBytes vd size l).length = mbytes size := by
  cases size <;> simp [Group.storeBytes, mwords, mbytes, wBytes, List.range_succ]

theorem mem_laneBytesOf {r : Group} {f : LaneF} {size : MSize} {imm : W32} {p : Nat × Byte} (h : p ∈ laneBytesOf r f size imm) :
    ∃ l j, l < 96 ∧ (r.eff f.men).getLsbD l = true ∧ p.1 = r.laneOff f r.blkSnap imm l + j := by
  obtain ⟨l, hl, hp⟩ := List.mem_flatMap.1 h
  obtain ⟨j, -, rfl⟩ := List.mem_mapIdx.1 hp
  obtain ⟨h96, he⟩ := mem_lanesOf.1 hl
  exact ⟨l, j, h96, he, rfl⟩

theorem exists_mem_laneBytesOf {r : Group} {f : LaneF} {size : MSize} {imm : W32} {l j : Nat} (hl : l < 96) (he : (r.eff f.men).getLsbD l = true)
    (hj : j < mbytes size) : ∃ b, (r.laneOff f r.blkSnap imm l + j, b) ∈ laneBytesOf r f size imm := by
  rw [← length_storeBytes r f.vd.toNat size l] at hj
  exact ⟨_, List.mem_flatMap.2 ⟨l, mem_lanesOf.2 ⟨hl, he⟩, List.mem_mapIdx.2 ⟨j, hj, rfl⟩⟩⟩

theorem execVstsp_eq {s : State} {g : Nat} {r : Group} {m : Team} {f : LaneF} {size : MSize} {imm : W32} (hm : s.teamOf r = some m)
    (hin : ∀ l, l < 96 → (r.eff f.men).getLsbD l = true →
      r.laneOff f r.blkSnap imm l % mbytes size = 0 ∧ r.laneOff f r.blkSnap imm l + mbytes size ≤ m.spSize)
    (h : laneTurn ⟨dataRegs f.vd size :: addrRegs f false, [], kRegs f, [], none, false⟩ s g r) :
    execVstsp f size imm s = .next (((s.spPut r.team (laneBytesOf r f size imm) (some g)).modGrp g fun x =>
      { x with lpc := r.lpc + w64 (laneLen f) }).laneIssued g
        (spBeats m (mbytes size) (r.eff f.men) ((lanesOf (r.eff f.men)).map fun l => (l, r.laneOff f r.blkSnap imm l))).sum
        (beatsOf (r.eff f.men)).length) := by
  rw [execVstsp, laneOp_go _ h]
  simp only [hm, spBad_none hin, List.flatMap_map]
  rfl

/-- VSTSP (R208, R152). -/
theorem execVstsp_stores {s : State} {g : Nat} {r : Group} {m : Team} {f : LaneF} {size : MSize} {imm : W32} (hm : s.teamOf r = some m)
    (hin : ∀ l, l < 96 → (r.eff f.men).getLsbD l = true →
      r.laneOff f r.blkSnap imm l % mbytes size = 0 ∧ r.laneOff f r.blkSnap imm l + mbytes size ≤ m.spSize)
    (h : laneTurn ⟨dataRegs f.vd size :: addrRegs f false, [], kRegs f, [], none, false⟩ s g r)
    (hhi : ∀ l, l < 96 → (r.eff f.men).getLsbD l = true → 256 ≤ r.laneOff f r.blkSnap imm l) :
    ∃ t m' hid, execVstsp f size imm s = .next t ∧ t.mem = s.mem ∧ t.team? r.team = some m' ∧ t.ops = s.ops ∧
      t.grp? g = some { r.laneGoesOn (r.lpc + w64 (laneLen f)) s.ccount (beatsOf (r.eff f.men)).length with hidSp := hid } ∧
      (g ∈ m.members → r.hidSp = [] → ∀ l, l < 96 → (r.eff f.men).getLsbD l = true → ∀ j, j < mbytes size →
        kget hid (r.laneOff f r.blkSnap imm l + j) = some (sget m.sp (r.laneOff f r.blkSnap imm l + j))) ∧
      m'.sp = (laneBytesOf r f size imm).foldl (fun sp p => sset sp p.1 p.2) m.sp := by
  have hl : ∀ p ∈ laneBytesOf r f size imm, 256 ≤ p.1 := by
    intro p hp
    obtain ⟨l, j, h96, he, hkey⟩ := mem_laneBytesOf hp
    have := hhi l h96 he
    omega
  obtain ⟨hteam, hmem⟩ := spPut_plain (some g) (q := r.team) hm hl
  obtain ⟨hgrp, hops, hnow⟩ := spPut_frame (some g) (q := r.team) hm hl g
  obtain ⟨hid, hg, hkeep⟩ := grp?_hideOf (r := r) m.sp (laneBytesOf r f size imm) m.members (hid := r.hidSp) h.record
  have hexec := execVstsp_eq hm hin h
  generalize s.spPut r.team (laneBytesOf r f size imm) (some g) = u at hteam hmem hgrp hops hnow hexec
  refine ⟨_, _, hid, hexec, (goesOn_mem u g _ _ _).trans hmem, hteam, hops, ?_, fun hmb hempty l h96 he j hj => ?_, rfl⟩
  · rw [grp?_goesOn _ _ _ (hgrp.trans hg), hnow]; rfl
  · obtain ⟨b, hb⟩ := exists_mem_laneBytesOf (imm := imm) h96 he hj
    refine hkeep ?_ (.inl hmb) _ hb (hl _ hb)
    rw [hempty]
    nofun

/-! ## Prefetches (R209) -/

theorem execVpref_goesOn {s u : State} {g : Nat} {r : Group} {f : LaneF} {imm : W32}
    (h : laneTurn ⟨addrRegs f true, [], kRegs f, [], none, false⟩ s g r) (hheld : s.laneHeld g = false)
    (hpre : s.prefetch (g / 32) r.ctx r.lease.toNat (r.laneVas f imm (r.eff f.men)) = (true, u)) (hu : u.grp? g = some r) :
    ∃ t, execVpref f imm s = .next t ∧
      t.grp? g = some (r.laneGoesOn (r.lpc + w64 (laneLen f)) u.ccount (beatsOf (r.eff f.men)).length) ∧ t.mem = u.mem := by
  rw [execVpref, laneOp_go _ h]
  simp only [hheld, Bool.false_eq_true, if_false, coreOfG, hpre]
  exact ⟨_, rfl, grp?_goesOn _ _ _ hu, goesOn_mem _ _ _ _ _⟩

/-! ## The obligation -/

theorem w64_laneLen (f : LaneF) : w64 (laneLen f) = BitVec.ofNat 64 (if f.pfx then 16 else 12) := rfl

/-- Settles O24: the words of VLDSP's lanes, written or pending, are those of the scratchpad; VSTSP is one store away from the barrier words, and
the first store of a byte keeps the old one. -/
theorem laneScratchpadAndPrefetch : Obligations.LaneScratchpadAndPrefetch := by
  refine ⟨fun s g r m f size imm hm hwf hin => ⟨fun h hp hw => ?_, fun h hhi => ?_⟩, fun s g r f imm u h hheld hpre hu => ?_⟩
  · exact execVldsp_lands hm hwf hin h hp hw
  · rw [← length_beatsOf]
    exact execVstsp_stores hm hin h hhi
  · obtain ⟨t, ht, hg, hmem⟩ := execVpref_goesOn h hheld hpre hu
    exact ⟨t, _, ht, hg, rfl, rfl, hmem⟩

end Sys2Proof.Machine
end

section
/-! SUPPORT. A write that is accepted, one whose GWCT has come back, and the release of write masks (R306, R161, R307). -/
namespace Sys2Proof.Machine

/-! ## Frames -/

/-- The watchpoints that a write meets freeze the package at most. -/
theorem checkWatch_frame (s : State) (pa : Nat) (data : List (Option Byte)) (a : Agent) (core g : Nat) :
    ∃ fr fc du rp, s.checkWatch pa data a core g = { s with frozen := fr, fcause := fc, dumped := du, freport := rp } := by
  unfold State.checkWatch
  split_ifs
  · exact ⟨_, _, _, _, rfl⟩
  · refine List.foldlRecOn _ _ (motive := fun t => ∃ fr fc du rp, t = { s with frozen := fr, fcause := fc, dumped := du, freport := rp })
      ⟨s.frozen, s.fcause, s.dumped, s.freport, rfl⟩ ?_
    rintro t ⟨fr, fc, du, rp, rfl⟩ w -
    dsimp only
    split_ifs <;> exact ⟨_, _, _, _, rfl⟩

theorem rdcInvalidate_frame (s : State) (die pa n : Nat) : ∃ ds, s.rdcInvalidate die pa n = { s with dies := ds } := by
  unfold State.rdcInvalidate
  dsimp only
  split
  · exact ⟨_, rfl⟩
  · exact ⟨_, rfl⟩

theorem maskAccept_frame (s : State) (core pa n id : Nat) (a : Agent) (g w : Nat) :
    ∃ cs ts, s.maskAccept core pa n id a g w = { s with cores := cs, timed := ts } := by
  unfold State.maskAccept
  split_ifs
  · exact ⟨_, _, rfl⟩
  · exact ⟨_, _, rfl⟩

/-! ## The time of a write (R306) -/

theorem le_foldl_max {α : Type} (f : α → Nat) (l : List α) : ∀ a, a ≤ l.foldl (fun a p => max a (f p)) a ∧
    ∀ p ∈ l, f p ≤ l.foldl (fun a p => max a (f p)) a := by
  induction l with
  | nil => exact fun a => ⟨le_rfl, nofun⟩
  | cons x l ih =>
    intro a
    obtain ⟨h1, h2⟩ := ih (max a (f x))
    refine ⟨(le_max_left _ _).trans h1, List.forall_mem_cons.2 ⟨(le_max_right _ _).trans h1, h2⟩⟩

theorem foldl_max_eq {α : Type} (f : α → Nat) (l : List α) : ∀ a, l.foldl (fun a p => max a (f p)) a = a ∨
    ∃ p ∈ l, l.foldl (fun a p => max a (f p)) a = f p := by
  induction l with
  | nil => exact fun a => .inl rfl
  | cons x l ih =>
    intro a
    rw [List.foldl_cons]
    rcases ih (max a (f x)) with h | ⟨p, hp, h⟩
    · rcases max_choice a (f x) with hm | hm
      · exact .inl (h.trans hm)
      · exact .inr ⟨x, List.mem_cons_self, h.trans hm⟩
    · exact .inr ⟨p, List.mem_cons_of_mem _ hp, h⟩

theorem mem_pendingOn {s : State} {line : Nat} {x : Nat × PWrite} : x ∈ s.pendingOn line ↔ x ∈ s.writes ∧ x.2.pa / 256 = line := by
  rw [State.pendingOn, List.mem_filter, beq_iff_eq]

/-- The GWCT of a write is the latest of PTIME, the line's lease and the GWCTs of its pending writes. -/
theorem gwctOf_spec (s : State) (line : Nat) : s.ptime ≤ s.gwctOf line ∧ (s.homeLine line).lease ≤ s.gwctOf line ∧
    (∀ x, x ∈ s.writes → x.2.pa / 256 = line → x.2.gwct ≤ s.gwctOf line) ∧
    (s.gwctOf line = s.ptime ∨ s.gwctOf line = (s.homeLine line).lease ∨ ∃ x, x ∈ s.writes ∧ x.2.pa / 256 = line ∧ s.gwctOf line = x.2.gwct) := by
  obtain ⟨-, hall⟩ := le_foldl_max (fun p : Nat × PWrite => p.2.gwct) (s.pendingOn line) 0
  have hone := foldl_max_eq (fun p : Nat × PWrite => p.2.gwct) (s.pendingOn line) 0
  unfold State.gwctOf
  generalize (s.pendingOn line).foldl (fun a p => max a p.2.gwct) 0 = pend at hall hone ⊢
  refine ⟨le_max_left _ _, (le_max_left _ _).trans (le_max_right _ _), fun x hx hl => ?_, ?_⟩
  · exact (hall x (mem_pendingOn.2 ⟨hx, hl⟩)).trans ((le_max_right _ _).trans (le_max_right _ _))
  · rcases hone with h0 | ⟨x, hx, hpend⟩
    · rw [h0]; omega
    · obtain ⟨hx, hl⟩ := mem_pendingOn.1 hx
      rcases max_choice s.ptime (max (s.homeLine line).lease pend) with h | h
      · exact .inl h
      · rcases max_choice (s.homeLine line).lease pend with h' | h'
        · exact .inr (.inl (h.trans h'))
        · exact .inr (.inr ⟨x, hx, hl, h.trans (h'.trans hpend)⟩)

/-! ## Acceptance -/

/-- What an accepted write to the module's memory leaves: the write with its GWCT, and the GWCT at its part. -/
theorem acceptWrite_frame (s : State) (pa : Nat) (data : List (Option Byte)) (o p : Nat) (a : Agent) (core : Nat) :
    ∃ cs ts fr fc du rp id lane, s.acceptWrite pa data o p a core = (s.gwctOf (pa / 256), { s with
      cores := cs, timed := ts, frozen := fr, fcause := fc, dumped := du, freport := rp, nextId := s.nextId + 1
      writes := kset s.writes id ⟨pa, data, s.gwctOf (pa / 256), o, p, none, core, lane⟩ }) := by
  unfold State.acceptWrite
  obtain ⟨fr, fc, du, rp, hw⟩ := checkWatch_frame s pa data a core (s.gwctOf (pa / 256))
  simp only [hw, State.fresh]
  obtain ⟨cs, ts, hm⟩ := maskAccept_frame { s with frozen := fr, fcause := fc, dumped := du, freport := rp, nextId := s.nextId + 1 }
    core pa data.length o a (s.gwctOf (pa / 256)) s.nextId
  rw [hm]
  exact ⟨cs, _, fr, fc, du, rp, s.nextId, _, rfl⟩

theorem part?_eq_some {s : State} {o p : Nat} {m : MemOp} {q : Part} : s.part? o p = some (m, q) ↔ s.op? o = some m ∧ m.parts[p]? = some q := by
  unfold State.part?
  cases s.op? o with
  | none => simp
  | some m' =>
    simp only [Option.bind_some, Option.map_eq_some_iff, Prod.mk.injEq, Option.some.injEq]
    constructor
    · rintro ⟨q', hq, rfl, rfl⟩
      exact ⟨rfl, hq⟩
    · rintro ⟨rfl, hq⟩
      exact ⟨q, hq, rfl, rfl⟩

/-- Changing a part changes that part and no other of its operation. -/
theorem op?_modPart {s : State} {o : Nat} {m : MemOp} (p : Nat) (f : Part → Part) (h : s.op? o = some m) :
    (s.modPart o p f).op? o = some { m with parts := m.parts.mapIdx fun j q => if j = p then f q else q } := by
  unfold State.modPart State.modOp State.op?
  rw [kget_kmod_same]
  exact congrArg (Option.map _) h

theorem part?_modPart {s : State} {o p : Nat} {m : MemOp} {q : Part} (f : Part → Part) (h : s.part? o p = some (m, q)) :
    ∃ m', (s.modPart o p f).part? o p = some (m', f q) := by
  obtain ⟨ho, hp⟩ := part?_eq_some.1 h
  refine ⟨_, part?_eq_some.2 ⟨op?_modPart p f ho, ?_⟩⟩
  rw [List.getElem?_mapIdx, hp, Option.map_some, if_pos rfl]

/-- No earlier part of the same line or of the same lane is still to be accepted. -/
theorem noneBefore {m : MemOp} {q : Part} {p : Nat} (hq : m.parts[p]? = some q)
    (h : ∀ e, e ∈ m.parts.take p → e.gwct = none → e.pa / 256 ≠ q.pa / 256 ∧ e.lane ≠ q.lane) :
    ((m.parts.take p).any (fun e => e.gwct.isNone && e.pa / 256 == q.pa / 256) || partBefore m.parts p (·.gwct.isNone)) = false := by
  unfold partBefore
  rw [hq, Bool.or_eq_false_iff, List.any_eq_false, List.any_eq_false]
  constructor
  · intro e he
    by_cases hn : e.gwct = none
    · simp [(h e he hn).1]
    · simp [hn]
  · intro e he
    by_cases hn : e.gwct = none
    · simp [(h e he hn).2]
    · simp [hn]

/-- A write to the module's memory that nothing holds up is accepted. -/
theorem execWriteAccept_eq {s : State} {o p : Nat} {m : MemOp} {q : Part} (ha : s.args = [o, p]) (hp : s.part? o p = some (m, q))
    (hg : q.gwct = none) (hpa : paClass q.pa = 0) (hearlier : s.earlierWrite m.core ((m.agent.group?).getD 1048576) o q.pa q.len = false)
    (hbefore : ((m.parts.take p).any (fun e => e.gwct.isNone && e.pa / 256 == q.pa / 256) || partBefore m.parts p (·.gwct.isNone)) = false)
    (hpin : s.pinnedCopy (q.pa / 256) = false) {u : State} (hu : s.rdcInvalidate (dieOf m.core) q.pa q.len = u) {t : State} {g : Nat}
    (ht : u.acceptWrite q.pa (q.data.map some) o p m.agent m.core = (g, t)) :
    execWriteAccept s = .next ((t.modPart o p fun x => { x with gwct := some g }).schedPath .storeGwctReturn [o, p]) := by
  have h0 : s.a0 = o := by rw [State.a0, ha]; rfl
  have h1 : s.a1 = p := by rw [State.a1, ha]; rfl
  simp only [execWriteAccept, h0, h1, hp, hg, Option.isSome_none, hearlier, hbefore, hpin, Bool.or_false, Bool.false_eq_true, if_false, hpa,
    hu, ht, zero_ne_one, false_and]

/-- WRITE_ACCEPT (R306). -/
theorem writeAccept_accepts {s : State} {o p : Nat} {m : MemOp} {q : Part} (ha : s.args = [o, p]) (hp : s.part? o p = some (m, q))
    (hg : q.gwct = none) (hpa : paClass q.pa = 0) (hearlier : s.earlierWrite m.core ((m.agent.group?).getD 1048576) o q.pa q.len = false)
    (hbefore : ∀ e, e ∈ m.parts.take p → e.gwct = none → e.pa / 256 ≠ q.pa / 256 ∧ e.lane ≠ q.lane)
    (hpin : s.pinnedCopy (q.pa / 256) = false) :
    ∃ t id w, execWriteAccept s = .next t ∧ t.mem = s.mem ∧ t.slices = s.slices ∧ t.groups = s.groups ∧
      kget t.writes id = some w ∧ w.pa = q.pa ∧ w.data = q.data.map some ∧ (t.part? o p).map (·.2.gwct) = some (some w.gwct) ∧
      w.gwct = s.gwctOf (q.pa / 256) := by
  obtain ⟨ds, hinv⟩ := rdcInvalidate_frame s (dieOf m.core) q.pa q.len
  obtain ⟨cs, ts, fr, fc, du, rp, id, lane, hacc⟩ := acceptWrite_frame { s with dies := ds } q.pa (q.data.map some) o p m.agent m.core
  rw [execWriteAccept_eq ha hp hg hpa hearlier (noneBefore (part?_eq_some.1 hp).2 hbefore) hpin hinv hacc]
  obtain ⟨m', hpart⟩ := part?_modPart (s := { s with
      dies := ds, cores := cs, timed := ts, frozen := fr, fcause := fc, dumped := du, freport := rp, nextId := s.nextId + 1
      writes := kset s.writes id ⟨q.pa, q.data.map some, s.gwctOf (q.pa / 256), o, p, none, m.core, lane⟩ })
    (fun x => { x with gwct := some (s.gwctOf (q.pa / 256)) }) hp
  exact ⟨_, id, _, rfl, rfl, rfl, rfl, kget_kset_same _ _ _, rfl, rfl, congrArg (Option.map (·.2.gwct)) hpart, rfl⟩

/-! ## Return of the GWCT (R161, R319) -/

theorem gwctHome_frame {s : State} {o : Nat} {m : MemOp} {q : Part} {g gr : Nat} (hm : m.agent.group? = some gr) :
    ∃ cs ts, s.gwctHome o m q g = { s with
      cores := cs, timed := ts, groups := kmod s.groups gr fun r => { r with gwctMax := max r.gwctMax g } } := by
  unfold State.gwctHome
  simp only [hm]
  split_ifs
  · obtain ⟨cs, ts, h⟩ := maskAccept_frame ((s.noteGwct m.core (s.ctxOfOp m) g).modGrp gr fun r => { r with gwctMax := max r.gwctMax g })
      m.core q.pa q.len o m.agent g s.nextId
    exact ⟨cs, ts, h⟩
  · exact ⟨_, _, rfl⟩

theorem risesFrom_kmod {α : Type} {m : KMap α} (x : Nat) (f : α → α) {b : Option Nat} (h : risesFrom b m = true) : risesFrom b (kmod m x f) = true := by
  unfold kmod
  induction m generalizing b with
  | nil => rfl
  | cons p m ih =>
    obtain ⟨hp, hm⟩ := Bool.and_eq_true_iff.1 h
    rw [List.map_cons]
    split_ifs
    · exact Bool.and_eq_true_iff.2 ⟨hp, ih hm⟩
    · exact Bool.and_eq_true_iff.2 ⟨hp, ih hm⟩

/-- With the last part bound no part is left. -/
theorem allBound {m : MemOp} {p : Nat} (h : (m.parts.eraseIdx p).all (·.bound) = true) :
    (m.parts.mapIdx fun j q => if j = p then { q with bound := true } else q).any (!·.bound) = false := by
  rw [List.any_eq_false]
  intro e he
  obtain ⟨j, hj, rfl⟩ := List.mem_mapIdx.1 he
  by_cases hjp : j = p
  · simp [hjp]
  · have hmem : m.parts[j] ∈ m.parts.eraseIdx p := List.mem_eraseIdx_iff_getElem.2 ⟨j, hj, hjp, rfl⟩
    simp [hjp, List.all_eq_true.1 h _ hmem]

theorem dropDone_subset (c : Ctr) (l : List Outst) : ∀ x ∈ dropDone c l, x ∈ l := by
  induction l with
  | nil => nofun
  | cons o l ih =>
    intro x hx
    unfold dropDone at hx
    split_ifs at hx
    · exact List.mem_cons_of_mem _ (ih x hx)
    · exact hx
    · exact (List.mem_cons.1 hx).elim (fun h => h ▸ List.mem_cons_self) fun h => List.mem_cons_of_mem _ (ih x h)

theorem outDone_gwctMax (r : Group) (id : Nat) : (r.outDone id).gwctMax = r.gwctMax := by
  unfold Group.outDone
  dsimp only
  split <;> rfl

/-- What has been done is no longer outstanding but as done. -/
theorem outDone_done {r : Group} {id : Nat} {x : Outst} (hx : x ∈ (r.outDone id).outs) (hid : x.id = id) : x.done = true := by
  have hmarked : ∀ y ∈ r.outs.map fun o => if o.id == id then { o with done := true } else o, y.id = id → y.done = true := by
    intro y hy hyid
    obtain ⟨o, -, rfl⟩ := List.mem_map.1 hy
    by_cases ho : o.id = id
    · simp [ho]
    · simp [ho] at hyid
  unfold Group.outDone at hx
  dsimp only at hx
  split at hx
  case h_1 => exact hmarked x (dropDone_subset _ _ x hx) hid
  case h_2 hnone =>
    have hno := List.find?_eq_none.1 hnone
    by_contra hdone
    refine hno { x with done := true } (List.mem_map.2 ⟨x, hx, ?_⟩) ?_
    · simp [hid]
    · simp [hid]

theorem op?_delOp_modPart {s : State} {o p : Nat} {f : Part → Part} (h : kwf s.ops = true) : ((s.modPart o p f).delOp o).op? o = none := by
  have hops : (s.modPart o p f).ops = kmod s.ops o fun m => { m with parts := m.parts.mapIdx fun j q => if j = p then f q else q } := rfl
  exact kget_kdel_same (b := none) o (hops ▸ risesFrom_kmod o _ h)

/-- STORE_GWCT_RETURN of the last part (R161). -/
theorem storeGwctReturn_ends {s : State} {o p g gr : Nat} {m : MemOp} {q : Part} {r : Group} (ha : s.args = [o, p])
    (hp : s.part? o p = some (m, q)) (hq : q.gwct = some g) (hb : q.bound = false) (hall : (m.parts.eraseIdx p).all (·.bound) = true)
    (hm : m.agent = .scalar gr ∨ m.agent = .lane gr) (hg : s.grp? gr = some r) (hk : kwf s.ops = true) :
    ∃ t r', execStoreGwctReturn s = .next t ∧ t.op? o = none ∧ t.grp? gr = some r' ∧ r'.gwctMax = max r.gwctMax g ∧
      (∀ x, x ∈ r'.outs → x.id = m.out → x.done = true) ∧ t.mem = s.mem ∧ t.slices = s.slices := by
  have h0 : s.a0 = o := by rw [State.a0, ha]; rfl
  have h1 : s.a1 = p := by rw [State.a1, ha]; rfl
  have hgroup : m.agent.group? = some gr := by rcases hm with h | h <;> rw [h] <;> rfl
  obtain ⟨cs, ts, hhome⟩ := gwctHome_frame (o := o) (q := q) (g := g) hgroup
  have hop := op?_modPart (s := s.gwctHome o m q g) p (fun x => { x with bound := true }) (m := m)
    ((congrArg (·.op? o) hhome).trans (part?_eq_some.1 hp).1)
  have hexec : execStoreGwctReturn s = .next ((((s.gwctHome o m q g).modPart o p fun x => { x with bound := true }).delOp o).modGrp gr
      fun r => r.outDone m.out) := by
    unfold execStoreGwctReturn
    simp only [h0, h1, hp, hq, hb, hop, Option.map_some, allBound hall, Option.getD_some, Bool.false_eq_true, if_false]
    rcases hm with h | h <;> rw [h]
  rw [hhome] at hexec
  have hgrp : kget (kmod (kmod s.groups gr fun r => { r with gwctMax := max r.gwctMax g }) gr fun r => r.outDone m.out) gr =
      some (({ r with gwctMax := max r.gwctMax g } : Group).outDone m.out) := by
    rw [kget_kmod_same, kget_kmod_same, show kget s.groups gr = some r from hg]
    rfl
  exact ⟨_, _, hexec, op?_delOp_modPart hk, hgrp, outDone_gwctMax _ _, fun x hx hid => outDone_done hx hid, rfl, rfl⟩

/-! ## Release of write masks (R307) -/

/-- Whether the GWCT of a masked byte has been reached. -/
def reached (now : Nat) (m : MaskB) : Bool :=
  match m.acc with
  | some (g, _) => decide (g ≤ now)
  | none => false

theorem reached_eq_false {now : Nat} {m : MaskB} : reached now m = false ↔ ∀ g w, m.acc = some (g, w) → now < g := by
  unfold reached
  cases m.acc with
  | none => simp
  | some x =>
    rw [decide_eq_false_iff_not, Nat.not_le]
    exact ⟨fun h g w hx => by cases hx; exact h, fun h => h x.1 x.2 rfl⟩

/-- The masks of a core once those of a line are these. -/
def keepMasks (m : KMap (List MaskB)) (line : Nat) (keep : List MaskB) : KMap (List MaskB) :=
  if keep.isEmpty then kdel m line else kset m line keep

theorem kgetD_keepMasks {m : KMap (List MaskB)} {line : Nat} {keep : List MaskB} (hwf : kwf m = true) :
    kgetD (keepMasks m line keep) line [] = keep := by
  unfold keepMasks kgetD
  split_ifs with hempty
  · rw [kget_kdel_same line hwf, List.isEmpty_iff.1 hempty]; rfl
  · rw [kget_kset_same]; rfl

theorem kget_keepMasks_ne {m : KMap (List MaskB)} {line l : Nat} {keep : List MaskB} (hwf : kwf m = true) (hl : l ≠ line) :
    kget (keepMasks m line keep) l = kget m l := by
  unfold keepMasks
  split_ifs
  · exact kget_kdel_ne hwf hl
  · exact kget_kset_ne _ _ hl

/-- WRITE_MASK_RELEASE. -/
theorem writeMaskRelease_drops {s : State} {core line : Nat} {ms : List MaskB} (ha : s.args = [core, line])
    (hms : kget (s.core core).masks line = some ms) (hwf : kwf (s.core core).masks = true) :
    ∃ t, execWriteMaskRelease s = .next t ∧ t = { s with cores := t.cores } ∧
      (∀ b, b ∈ kgetD (t.core core).masks line [] ↔ b ∈ ms ∧ (∀ g w, b.acc = some (g, w) → s.ptime < g)) ∧
      ∀ l, l ≠ line → kget (t.core core).masks l = kget (s.core core).masks l := by
  have h0 : s.a0 = core := by rw [State.a0, ha]; rfl
  have h1 : s.a1 = line := by rw [State.a1, ha]; rfl
  have hkeep : ∀ b : MaskB, b ∈ ms.filter (fun m => !reached s.ptime m) ↔ b ∈ ms ∧ ∀ g w, b.acc = some (g, w) → s.ptime < g := by
    intro b
    rw [List.mem_filter, Bool.not_eq_true', reached_eq_false]
  have hexec : execWriteMaskRelease s = .next (s.modCore core fun c =>
      { c with masks := keepMasks c.masks line (ms.filter fun m => !reached s.ptime m) }) := by
    rw [execWriteMaskRelease, h0, h1, State.maskDrop, hms]
    rfl
  refine ⟨_, hexec, rfl, fun b => ?_, fun l hl => ?_⟩
  · rw [core_modCore_same, ← hkeep, kgetD_keepMasks hwf]
  · rw [core_modCore_same]
    exact kget_keepMasks_ne hwf hl

end Sys2Proof.Machine
end

section
/-! SUPPORT. The sets of the L2 slices, and the bytes of the module's memory that they hold (R304, R338, R339). -/
namespace Sys2Proof.Machine

/-! ## Maps in their canonical form, entry by entry -/

/-- A map in its canonical form holds at a key what stands in it under that key. -/
theorem kget_eq_some_iff {α : Type} {m : KMap α} {b : Option Nat} (h : risesFrom b m = true) {x : Nat} {a : α} :
    kget m x = some a ↔ (x, a) ∈ m := by
  induction m generalizing b with
  | nil => exact ⟨nofun, nofun⟩
  | cons p m ih =>
    obtain ⟨k, v⟩ := p
    obtain ⟨-, hm⟩ := Bool.and_eq_true_iff.1 h
    have hrest := ih hm
    unfold kget
    split_ifs with h1 h2
    · subst h1
      have hnot : (k, a) ∉ m := by
        rw [← hrest, kget_lt hm le_rfl]
        nofun
      rw [List.mem_cons, Prod.mk.injEq, Option.some.injEq, or_iff_left hnot]
      exact ⟨fun hv => ⟨rfl, hv.symm⟩, fun hv => hv.2.symm⟩
    · have hnot : (x, a) ∉ m := by
        rw [← hrest, kget_lt hm h2.le]
        nofun
      rw [List.mem_cons, Prod.mk.injEq, or_iff_left hnot]
      exact ⟨nofun, fun hv => absurd hv.1.symm h1⟩
    · rw [List.mem_cons, Prod.mk.injEq, hrest, or_iff_right fun hv => h1 hv.1.symm]

theorem kwf_kset {α : Type} {m : KMap α} (h : kwf m = true) (x : Nat) (a : α) : kwf (kset m x a) = true := risesFrom_kset a h nofun

theorem mem_kset_iff {α : Type} {m : KMap α} (h : kwf m = true) {x : Nat} {a : α} {p : Nat × α} :
    p ∈ kset m x a ↔ p = (x, a) ∨ p ∈ m ∧ p.1 ≠ x := by
  obtain ⟨y, v⟩ := p
  rw [← kget_eq_some_iff (kwf_kset h x a), ← kget_eq_some_iff h, Prod.mk.injEq]
  by_cases hy : y = x
  · subst hy
    rw [kget_kset_same, Option.some.injEq]
    exact ⟨fun hv => .inl ⟨rfl, hv.symm⟩, fun hv => hv.elim (fun h => h.2.symm) fun h => absurd rfl h.2⟩
  · rw [kget_kset_ne _ _ hy]
    exact ⟨fun hv => .inr ⟨hv, hy⟩, fun hv => hv.elim (fun h => absurd h.1 hy) fun h => h.1⟩

/-! ## A set that holds a line once -/

structure CSet.once (c : CSet) : Prop where
  keys : kwf c.ways = true
  lines : ∀ p ∈ c.ways, ∀ q ∈ c.ways, p.2.line = q.2.line → p = q
  bytes : ∀ p ∈ c.ways, swf p.2.data = true

theorem CSet.once_empty : CSet.empty.once := ⟨rfl, nofun, nofun⟩

theorem CSet.once.way?_eq_some {c : CSet} (h : c.once) {L : Nat} {p : Nat × CLine} : c.way? L = some p ↔ p ∈ c.ways ∧ p.2.line = L := by
  unfold CSet.way?
  constructor
  · exact fun hp => ⟨List.mem_of_find?_eq_some hp, by simpa using List.find?_some hp⟩
  · rintro ⟨hp, hl⟩
    obtain ⟨q, hq⟩ := Option.isSome_iff_exists.1 (List.find?_isSome (p := fun x : Nat × CLine => x.2.line == L).2 ⟨p, hp, by simpa using hl⟩)
    have hql : q.2.line = L := by simpa using List.find?_some hq
    rw [hq, h.lines q (List.mem_of_find?_eq_some hq) p hp (hql.trans hl.symm)]

/-- The line of a set. -/
def CSet.line? (c : CSet) (L : Nat) : Option CLine := (c.way? L).map (·.2)

/-- A set in which a way has a new line, one that no other way holds. -/
theorem CSet.once.put {c : CSet} (h : c.once) {i : Nat} {l' : CLine} (b : BitVec 15) (hb : swf l'.data = true)
    (hne : ∀ q ∈ c.ways, q.1 ≠ i → q.2.line ≠ l'.line) : CSet.once ⟨kset c.ways i l', b⟩ where
  keys := kwf_kset h.keys i l'
  lines := by
    intro p hp q hq hl
    rcases (mem_kset_iff h.keys).1 hp with rfl | ⟨hp, hpi⟩ <;> rcases (mem_kset_iff h.keys).1 hq with rfl | ⟨hq, hqi⟩
    · rfl
    · exact absurd hl.symm (hne q hq hqi)
    · exact absurd hl (hne p hp hpi)
    · exact h.lines p hp q hq hl
  bytes := by
    intro p hp
    rcases (mem_kset_iff h.keys).1 hp with rfl | ⟨hp, -⟩
    · exact hb
    · exact h.bytes p hp

section
variable {c : CSet} {i : Nat} {l' : CLine} (b : BitVec 15) (h : c.once) (hb : swf l'.data = true) (hne : ∀ q ∈ c.ways, q.1 ≠ i → q.2.line ≠ l'.line)
include h hb hne

theorem CSet.line?_put_same : CSet.line? ⟨kset c.ways i l', b⟩ l'.line = some l' := by
  unfold CSet.line?
  rw [(h.put b hb hne).way?_eq_some.2 ⟨(mem_kset_iff h.keys).2 (.inl rfl), rfl⟩]
  rfl

/-- The other lines of the set stay, but for the one that stood in the way. -/
theorem CSet.line?_put_ne {L : Nat} (hL : L ≠ l'.line) (hi : ∀ l, (i, l) ∈ c.ways → l.line ≠ L) :
    CSet.line? ⟨kset c.ways i l', b⟩ L = c.line? L := by
  have hw : CSet.way? ⟨kset c.ways i l', b⟩ L = c.way? L := by
    refine Option.ext fun p => ?_
    rw [(h.put b hb hne).way?_eq_some, h.way?_eq_some]
    refine and_congr_left fun hp => ?_
    rw [mem_kset_iff h.keys]
    constructor
    · rintro (rfl | ⟨hmem, -⟩)
      · exact absurd hp.symm hL
      · exact hmem
    · refine fun hmem => .inr ⟨hmem, fun hpi => hi p.2 ?_ hp⟩
      rwa [← hpi]
  rw [CSet.line?, hw, CSet.line?]

/-- The line that stood in the way is gone. -/
theorem CSet.line?_put_gone {l : CLine} (hl : (i, l) ∈ c.ways) (hL : l.line ≠ l'.line) : CSet.line? ⟨kset c.ways i l', b⟩ l.line = none := by
  have hw : CSet.way? ⟨kset c.ways i l', b⟩ l.line = none := by
    refine Option.eq_none_iff_forall_ne_some.2 fun p hp => ?_
    obtain ⟨hmem, hline⟩ := (h.put b hb hne).way?_eq_some.1 hp
    rcases (mem_kset_iff h.keys).1 hmem with rfl | ⟨hmem, hpi⟩
    · exact hL hline.symm
    · exact hpi (congrArg Prod.fst (h.lines p hmem (i, l) hl hline))
  rw [CSet.line?, hw, Option.map_none]

end

/-! ## The slices -/

/-- A set of an L2 slice. -/
def State.setAt (s : State) (x k : Nat) : CSet := kgetD (s.slice x).l2 k CSet.empty

theorem slice_modSlice (s : State) (x : Nat) (f : Slice → Slice) (y : Nat) :
    (s.modSlice x f).slice y = if y = x then f (s.slice x) else s.slice y := by
  have hslice : (s.modSlice x f).slice y = (kget (kset s.slices x (f (s.slice x))) y).getD Slice.reset := rfl
  rw [hslice]
  by_cases h : y = x
  · rw [h, if_pos rfl, kget_kset_same]; rfl
  · rw [if_neg h, kget_kset_ne _ _ h]; rfl

/-- A slice with a new set. -/
def State.putSet (s : State) (x k : Nat) (c : CSet) : State := s.modSlice x fun z => { z with l2 := kset z.l2 k c }

theorem setAt_putSet (s : State) (x k : Nat) (c : CSet) (y j : Nat) :
    (s.putSet x k c).setAt y j = if y = x ∧ j = k then c else s.setAt y j := by
  unfold State.putSet State.setAt kgetD
  rw [slice_modSlice]
  by_cases hy : y = x
  · by_cases hj : j = k
    · rw [if_pos hy, if_pos ⟨hy, hj⟩, hj, kget_kset_same]; rfl
    · rw [if_pos hy, if_neg fun h => hj h.2, kget_kset_ne _ _ hj, hy]
  · rw [if_neg hy, if_neg fun h => hy h.1]

theorem l2Line_eq (s : State) (o : Nat) : s.l2Line o = (s.setAt (homeSlice o) (l2Set o)).line? (o / 256) := by
  unfold State.l2Line State.setAt kgetD CSet.line?
  cases kget (s.slice (homeSlice o)).l2 (l2Set o) <;> rfl

/-- Every set of every slice holds a line once. -/
def State.setsOnce (s : State) : Prop := swf (w := 8) s.mem = true ∧ ∀ x k, (s.setAt x k).once

/-! ## The slice and the set of a line -/

theorem isBonded_line (o : Nat) : isBonded (o / 256 * 256) = isBonded o := by
  rw [isBonded, isBonded, decide_eq_decide]
  omega

theorem homeDie_line (o : Nat) : homeDie (o / 256 * 256) = homeDie o := by
  rw [homeDie, homeDie, isBonded_line]
  split_ifs <;> omega

theorem dieLocal_line (o : Nat) : dieLocal (o / 256 * 256) / 256 = dieLocal o / 256 := by
  rw [dieLocal, dieLocal, isBonded_line]
  split_ifs <;> omega

/-- The slice of an address is that of its line. -/
theorem homeSlice_line (o : Nat) : homeSlice (o / 256 * 256) = homeSlice o := by
  have h := dieLocal_line o
  rw [homeSlice, homeSlice, homeDie_line]
  omega

theorem l2Set_line (o : Nat) : l2Set (o / 256 * 256) = l2Set o := by
  have h := dieLocal_line o
  rw [l2Set, l2Set]
  omega

/-! ## The byte of an address -/

/-- The byte of an address in its line where the line holds its sector, else the one in DRAM. -/
def byteIn (l : Option CLine) (d : Byte) (o : Nat) : Byte :=
  match l with
  | some l => if l.valid.getLsbD (o % 256 / 64) then sget l.data (o % 256) else d
  | none => d

/-- The byte that the module itself holds at an address: in its L2 slice, or in DRAM. -/
def State.cell (s : State) (o : Nat) : Byte := byteIn (s.l2Line o) (s.dram o) o

theorem modByte_eq (s : State) (o : Nat) : s.modByte o = match s.pod.hot.find? fun h => h.addr == s.ownPa (o / 8 * 8) with
    | some h => h.val.extractLsb' (8 * (o % 8)) 8
    | none => s.cell o := by
  unfold State.modByte State.cell byteIn
  rfl

/-- The byte of an address whose set and DRAM byte have not changed. -/
theorem cell_congr {s t : State} {a : Nat} (hset : t.setAt (homeSlice a) (l2Set a) = s.setAt (homeSlice a) (l2Set a)) (hd : t.dram a = s.dram a) :
    t.cell a = s.cell a := by
  rw [State.cell, State.cell, l2Line_eq, l2Line_eq, hset, hd]

end Sys2Proof.Machine
end

section
/-! SUPPORT. A sector is brought into its slice, and a byte is written there: what each address then holds (R306, R339, R420). -/
namespace Sys2Proof.Machine

/-! ## Copied bytes -/

theorem sget_ssetL_sgetL {w : Nat} (m : SMap w) (n : Nat) : ∀ {m' : SMap w} {o base j : Nat}, swf m' = true → j < n →
    sget (ssetL m' o (sgetL m base n)) (o + j) = sget m (base + j) := by
  induction n with
  | zero => intro m' o base j _ hj; omega
  | succ n ih =>
    intro m' o base j hm hj
    have hm1 := swf_sset o (sget m base) hm
    rw [sgetL, ssetL]
    cases j with
    | zero => exact (sget_ssetL_ne _ hm1 (.inl (Nat.lt_succ_self o))).trans (sget_sset_same o _ hm)
    | succ j =>
      have h := ih (o := o + 1) (base := base + 1) (j := j) hm1 (by omega)
      rwa [Nat.add_right_comm o, Nat.add_right_comm base] at h

theorem length_sgetL {w : Nat} (m : SMap w) (n : Nat) : ∀ base, (sgetL m base n).length = n := by
  induction n with
  | zero => exact fun _ => rfl
  | succ n ih => exact fun base => congrArg (· + 1) (ih (base + 1))

theorem getLsbD_or_bit {w : Nat} (x : BitVec w) {i j : Nat} (hi : i < w) : (x ||| ((1 : BitVec w) <<< j)).getLsbD i = (x.getLsbD i || decide (i = j)) := by
  have hbit : (1 : BitVec w) <<< j = BitVec.twoPow w j := (BitVec.twoPow_eq w j).symm
  rw [BitVec.getLsbD_or, hbit, BitVec.getLsbD_twoPow]
  by_cases hij : i = j
  · subst hij
    simp [hi]
  · simp [hij, Ne.symm hij]

/-! ## A filled sector -/

theorem putSector_line (l : CLine) (sec : Nat) (bs : List Byte) (e t : Nat) : (l.putSector sec bs e t).line = l.line := rfl

theorem putSector_data (l : CLine) (sec : Nat) (bs : List Byte) (e t : Nat) : (l.putSector sec bs e t).data = ssetL l.data (64 * sec) bs := rfl

theorem putSector_valid (l : CLine) {sec j : Nat} (bs : List Byte) (e t : Nat) (hj : j < 4) :
    (l.putSector sec bs e t).valid.getLsbD j = (l.valid.getLsbD j || decide (j = sec)) :=
  getLsbD_or_bit l.valid hj

/-- A line with the sector of an address o from DRAM: the bytes of that sector are DRAM's, the others as before. -/
theorem byteIn_putSector {l : CLine} (hl : swf l.data = true) (m : SMap 8) (o a e t : Nat) (hline : a / 256 = o / 256)
    (hv : l.valid.getLsbD (o % 256 / 64) = false) :
    byteIn (some (l.putSector (o % 256 / 64) (sgetL m (o / 64 * 64) 64) e t)) (sget m a) a = byteIn (some l) (sget m a) a := by
  have h4 : a % 256 / 64 < 4 := by omega
  simp only [byteIn, putSector_valid l _ e t h4, putSector_data]
  by_cases hsec : a % 256 / 64 = o % 256 / 64
  · have hoff : a % 256 = 64 * (o % 256 / 64) + a % 64 := by omega
    have hbase : o / 64 * 64 + a % 64 = a := by omega
    rw [hsec, hv, decide_eq_true rfl, Bool.false_or, if_pos rfl, if_neg Bool.false_ne_true, hoff,
      sget_ssetL_sgetL m 64 hl (Nat.mod_lt _ (by decide)), hbase]
  · rw [decide_eq_false hsec, Bool.or_false]
    rw [sget_ssetL_ne _ hl (by rw [length_sgetL]; omega)]

/-! ## A line that is written back -/

theorem writeBack_frame (s : State) (l : CLine) : s.writeBack l = { s with mem := (s.writeBack l).mem } := by
  unfold State.writeBack
  refine List.foldlRecOn _ _ (motive := fun t : State => t = { s with mem := t.mem }) rfl ?_
  intro t ht i _
  split_ifs
  · conv_lhs => rw [ht]
    rfl
  · exact ht

theorem dram_writeBack {s : State} {l : CLine} (hs : swf (w := 8) s.mem = true) (a : Nat) :
    (s.writeBack l).dram a = if a / 256 = l.line ∧ l.dirty.getLsbD (a % 256) = true then sget l.data (a % 256) else s.dram a := by
  have hfold (n : Nat) (hn : n ≤ 256) : swf (w := 8) ((List.range n).foldl (fun s i => if l.dirty.getLsbD i then s.setDram (l.line * 256 + i) (sget l.data i)
      else s) s).mem = true ∧ ((List.range n).foldl (fun s i => if l.dirty.getLsbD i then s.setDram (l.line * 256 + i) (sget l.data i) else s) s).dram a =
      if a / 256 = l.line ∧ a % 256 < n ∧ l.dirty.getLsbD (a % 256) = true then sget l.data (a % 256) else s.dram a := by
    induction n with
    | zero => exact ⟨hs, by simp⟩
    | succ n ih =>
      obtain ⟨hm, hd⟩ := ih (by omega)
      rw [List.range_succ, List.foldl_append, List.foldl_cons, List.foldl_nil]
      generalize (List.range n).foldl (fun s i => if l.dirty.getLsbD i then s.setDram (l.line * 256 + i) (sget l.data i) else s) s = t at hm hd ⊢
      by_cases hbit : l.dirty.getLsbD n = true
      · rw [if_pos hbit]
        refine ⟨swf_sset _ _ hm, ?_⟩
        by_cases ha : a = l.line * 256 + n
        · have h1 : a / 256 = l.line := by omega
          have h2 : a % 256 = n := by omega
          rw [ha, dram_setDram_same _ _ hm, ← ha, h1, h2, if_pos ⟨rfl, Nat.lt_succ_self n, hbit⟩]
        · rw [dram_setDram_ne _ hm ha, hd]
          refine if_congr (and_congr_right fun h1 => ?_) rfl rfl
          have h2 : a % 256 ≠ n := by omega
          exact and_congr_left fun _ => by omega
      · rw [if_neg hbit]
        refine ⟨hm, hd.trans (if_congr (and_congr_right fun h1 => ?_) rfl rfl)⟩
        constructor
        · exact fun ⟨h2, h3⟩ => ⟨by omega, h3⟩
        · exact fun ⟨h2, h3⟩ => ⟨by have : a % 256 ≠ n := fun h => hbit (h ▸ h3); omega, h3⟩
  have h256 : a % 256 < 256 := Nat.mod_lt _ (by decide)
  refine (hfold 256 le_rfl).2.trans (if_congr (and_congr_right fun _ => ?_) rfl rfl)
  exact and_iff_right h256

/-! ## Bringing a sector into its slice (R339) -/

theorem State.homePlain.set {s : State} (h : s.homePlain) {x k : Nat} {p : Nat × CLine} (hp : p ∈ (s.setAt x k).ways) :
    homeSlice (p.2.line * 256) = x ∧ l2Set (p.2.line * 256) = k ∧ ∀ i, i < 256 → (p.2.dirty.getLsbD i = true → p.2.valid.getLsbD (i / 64) = true) ∧
      (p.2.valid.getLsbD (i / 64) = true → p.2.dirty.getLsbD i = false → sget p.2.data i = s.dram (p.2.line * 256 + i)) := by
  cases hc : kget (s.slice x).l2 k with
  | none =>
    rw [State.setAt, kgetD, hc] at hp
    exact absurd hp nofun
  | some c =>
    rw [State.setAt, kgetD, hc] at hp
    obtain ⟨-, -, hall⟩ := h.2 x k c hc
    exact (hall p hp).2

theorem State.homePlain.setsOnce {s : State} (h : s.homePlain) : s.setsOnce := by
  refine ⟨h.1, fun x k => ?_⟩
  cases hc : kget (s.slice x).l2 k with
  | none =>
    rw [State.setAt, kgetD, hc]
    exact CSet.once_empty
  | some c =>
    rw [State.setAt, kgetD, hc]
    obtain ⟨hkeys, hnd, hall⟩ := h.2 x k c hc
    exact ⟨hkeys, fun p hp q hq hl => List.inj_on_of_nodup_map hnd hp hq hl, fun p hp => (hall p hp).1⟩

/-- From s to t bytes may have moved between DRAM and the slices, but every address holds what it held. -/
structure sameCells (s t : State) : Prop where
  frame : t = { s with mem := t.mem, slices := t.slices }
  once : t.setsOnce
  cell : ∀ a, t.cell a = s.cell a

theorem setsOnce_putSet {s : State} (h : s.setsOnce) {c : CSet} (x k : Nat) (hc : c.once) : (s.putSet x k c).setsOnce := by
  refine ⟨h.1, fun y j => ?_⟩
  rw [setAt_putSet]
  split_ifs
  · exact hc
  · exact h.2 y j

/-- In a set only the replacement bits have moved. -/
theorem sameCells_touch {s : State} (h : s.setsOnce) (x k : Nat) (b : BitVec 15) : sameCells s (s.putSet x k ⟨(s.setAt x k).ways, b⟩) where
  frame := rfl
  once := by
    obtain ⟨hkeys, hlines, hbytes⟩ := h.2 x k
    exact setsOnce_putSet h x k ⟨hkeys, hlines, hbytes⟩
  cell := by
    intro a
    rw [State.cell, State.cell, l2Line_eq, l2Line_eq, setAt_putSet]
    split_ifs with hset
    · obtain ⟨hx, hk⟩ := hset
      rw [hx, hk]
      rfl
    · rfl

/-- A line of the slice gets a sector that it did not hold. -/
theorem sameCells_sector {s : State} (h : s.setsOnce) {o i : Nat} {l : CLine} (b : BitVec 15)
    (hl : (i, l) ∈ (s.setAt (homeSlice o) (l2Set o)).ways) (hline : l.line = o / 256) (hv : l.valid.getLsbD (o % 256 / 64) = false) :
    sameCells s (s.putSet (homeSlice o) (l2Set o) ⟨kset (s.setAt (homeSlice o) (l2Set o)).ways i
      (l.putSector (o % 256 / 64) (sgetL (w := 8) s.mem (o / 64 * 64) 64) 0 0), b⟩) := by
  have hset := h.2 (homeSlice o) (l2Set o)
  have hbytes : swf (l.putSector (o % 256 / 64) (sgetL (w := 8) s.mem (o / 64 * 64) 64) 0 0).data = true := swf_ssetL _ _ (hset.bytes _ hl)
  have hne : ∀ q ∈ (s.setAt (homeSlice o) (l2Set o)).ways, q.1 ≠ i → q.2.line ≠ l.line :=
    fun q hq hqi hql => hqi (congrArg Prod.fst (hset.lines q hq (i, l) hl hql))
  refine ⟨rfl, setsOnce_putSet h _ _ (hset.put b hbytes hne), fun a => ?_⟩
  rw [State.cell, State.cell, l2Line_eq, l2Line_eq, setAt_putSet]
  split_ifs with ha
  · obtain ⟨hx, hk⟩ := ha
    rw [hx, hk]
    by_cases hal : a / 256 = o / 256
    · have hold : (s.setAt (homeSlice o) (l2Set o)).line? (a / 256) = some l := by
        rw [CSet.line?, hset.way?_eq_some.2 ⟨hl, hline.trans hal.symm⟩]; rfl
      have hnew := CSet.line?_put_same b hset hbytes hne
      rw [putSector_line, hline, ← hal] at hnew
      rw [hold, hnew]
      exact byteIn_putSector (hset.bytes _ hl) s.mem o a 0 0 hal hv
    · rw [CSet.line?_put_ne b hset hbytes hne (by rwa [putSector_line, hline])]
      · rfl
      · intro l2 hl2
        have hkey : (i, l2) = (i, l) := by
          have h1 := (kget_eq_some_iff hset.keys).2 hl2
          have h2 := (kget_eq_some_iff hset.keys).2 hl
          rw [Option.some.inj (h1.symm.trans h2)]
        rw [(Prod.mk.inj hkey).2, hline]
        exact Ne.symm hal
  · rfl

/-- The state once an evicted line is written back. -/
def State.evict (s : State) : Option CLine → State
  | some l => s.writeBack l
  | none => s

theorem evict_frame (s : State) (l : Option CLine) : s.evict l = { s with mem := (s.evict l).mem } := by
  cases l with
  | none => rfl
  | some l => exact writeBack_frame s l

theorem evict_memOk {s : State} (h : swf (w := 8) s.mem = true) (l : Option CLine) : swf (w := 8) (s.evict l).mem = true := by
  cases l with
  | none => exact h
  | some l => exact memOk_writeBack l h

/-- Writing a line back leaves DRAM's other bytes. -/
theorem dram_evict_ne {s : State} (h : swf (w := 8) s.mem = true) {old : Option CLine} {a : Nat} (hne : ∀ l, old = some l → a / 256 ≠ l.line) :
    (s.evict old).dram a = s.dram a := by
  cases old with
  | none => rfl
  | some l => exact (dram_writeBack h a).trans (if_neg fun hl => hne l rfl hl.1)

/-- What a line of the slice holds is DRAM's once it is written back. -/
theorem dram_evict_eq {s : State} (h : s.homePlain) {x k i a : Nat} {l : CLine} (hl : (i, l) ∈ (s.setAt x k).ways) (ha : a / 256 = l.line) :
    (s.evict (some l)).dram a = byteIn (some l) (s.dram a) a := by
  have hlt : a % 256 < 256 := Nat.mod_lt _ (by decide)
  obtain ⟨-, -, hdirty⟩ := h.set hl
  obtain ⟨hdv, hclean⟩ := hdirty (a % 256) hlt
  dsimp only at hdv hclean
  have haddr : l.line * 256 + a % 256 = a := by omega
  rw [State.evict, dram_writeBack h.1, byteIn]
  by_cases hd : l.dirty.getLsbD (a % 256) = true
  · rw [if_pos ⟨ha, hd⟩, if_pos (hdv hd)]
  · rw [if_neg fun hx => hd hx.2]
    by_cases hv : l.valid.getLsbD (a % 256 / 64) = true
    · rw [if_pos hv, hclean hv (Bool.eq_false_iff.2 hd), haddr]
    · rw [if_neg hv]

/-- A new line in a way of the slice, with a sector of DRAM. -/
def newLine (m : SMap 8) (o : Nat) : CLine := (CLine.new (o / 256)).putSector (o % 256 / 64) (sgetL m (o / 64 * 64) 64) 0 0

theorem newLine_line (m : SMap 8) (o : Nat) : (newLine m o).line = o / 256 := rfl

/-- A line that the slice did not hold takes a way; what stood there is written back. -/
theorem sameCells_newLine {s : State} (h : s.homePlain) {o : Nat} (i : Nat) (b : BitVec 15) (hno : (s.setAt (homeSlice o) (l2Set o)).way? (o / 256) = none) :
    sameCells s ((s.evict (kget (s.setAt (homeSlice o) (l2Set o)).ways i)).putSet (homeSlice o) (l2Set o)
      ⟨kset (s.setAt (homeSlice o) (l2Set o)).ways i (newLine s.mem o), b⟩) := by
  have hset := h.setsOnce.2 (homeSlice o) (l2Set o)
  have hplace (p) (hp : p ∈ (s.setAt (homeSlice o) (l2Set o)).ways) := h.set hp
  generalize hc : s.setAt (homeSlice o) (l2Set o) = c at hno hset hplace ⊢
  have hin (l : CLine) (hl : kget c.ways i = some l) : (i, l) ∈ c.ways := (kget_eq_some_iff hset.keys).1 hl
  have habsent (p : Nat × CLine) (hp : p ∈ c.ways) : p.2.line ≠ o / 256 := fun hl => by
    rw [hset.way?_eq_some.2 ⟨hp, hl⟩] at hno
    cases hno
  have hbytes : swf (newLine s.mem o).data = true := swf_ssetL _ _ rfl
  have hne : ∀ q ∈ c.ways, q.1 ≠ i → q.2.line ≠ (newLine s.mem o).line := fun q hq _ => habsent q hq
  have hframe := evict_frame s (kget c.ways i)
  have hevict : (s.evict (kget c.ways i)).setsOnce := by
    rw [hframe]
    exact ⟨evict_memOk h.1 _, h.setsOnce.2⟩
  have hat (x k : Nat) : (s.evict (kget c.ways i)).setAt x k = s.setAt x k := by
    rw [hframe]; rfl
  refine ⟨?_, setsOnce_putSet hevict _ _ (hset.put b hbytes hne), fun a => ?_⟩
  · rw [hframe]; rfl
  have hdram : ((s.evict (kget c.ways i)).putSet (homeSlice o) (l2Set o) ⟨kset c.ways i (newLine s.mem o), b⟩).dram a =
    (s.evict (kget c.ways i)).dram a := rfl
  rw [State.cell, State.cell, l2Line_eq, l2Line_eq, setAt_putSet, hdram, hat]
  split_ifs with ha
  · obtain ⟨hx, hk⟩ := ha
    rw [hx, hk, hc]
    by_cases hal : a / 256 = o / 256
    · have hold : c.line? (a / 256) = none := by rw [CSet.line?, hal, hno]; rfl
      have hnew := CSet.line?_put_same b hset hbytes hne
      rw [newLine_line, ← hal] at hnew
      rw [hold, hnew, dram_evict_ne h.1 fun l hl hla => habsent _ (hin l hl) (hla.symm.trans hal)]
      have hempty : byteIn (some (CLine.new (o / 256))) (s.dram a) a = s.dram a := by simp [byteIn, CLine.new]
      exact (byteIn_putSector (l := CLine.new (o / 256)) rfl s.mem o a 0 0 hal (by simp [CLine.new])).trans hempty
    · by_cases hgone : ∃ l, (i, l) ∈ c.ways ∧ l.line = a / 256
      · obtain ⟨l, hl, hla⟩ := hgone
        have hold : c.line? (a / 256) = some l := by rw [CSet.line?, hset.way?_eq_some.2 ⟨hl, hla⟩]; rfl
        have hnew := CSet.line?_put_gone b hset hbytes hne hl (by rw [hla]; exact hal)
        rw [hla] at hnew
        rw [hold, hnew, (kget_eq_some_iff hset.keys).2 hl]
        exact dram_evict_eq h (x := homeSlice o) (k := l2Set o) (hc.symm ▸ hl) hla.symm
      · have hi : ∀ l, (i, l) ∈ c.ways → l.line ≠ a / 256 := fun l hl hla => hgone ⟨l, hl, hla⟩
        rw [CSet.line?_put_ne b hset hbytes hne hal hi, dram_evict_ne h.1 fun l hl hla => hi l (hin l hl) hla.symm]
  · have hother : ∀ l, kget c.ways i = some l → a / 256 ≠ l.line := by
      intro l hl hla
      obtain ⟨hx, hk, -⟩ := hplace _ (hin l hl)
      dsimp only at hx hk
      rw [← hla] at hx hk
      exact ha ⟨(homeSlice_line a).symm.trans hx, (l2Set_line a).symm.trans hk⟩
    rw [dram_evict_ne h.1 hother]

/-- A fill of a line that the set does not hold. -/
theorem fill_absent {c : CSet} {L : Nat} (ways sec : Nat) (bs : List Byte) (e t : Nat) (keep : CLine → Bool) (h : c.way? L = none) :
    c.fill ways L sec bs e t keep = (c.choose ways keep).map fun i =>
      (⟨kset c.ways i ((CLine.new L).putSector sec bs e t), plruTouch c.plru i⟩, kget c.ways i) := by
  rw [CSet.fill, h]
  dsimp only
  cases c.choose ways keep <;> rfl

/-- A fill of a line that the set holds. -/
theorem fill_present {c : CSet} {L i : Nat} {l : CLine} (ways sec : Nat) (bs : List Byte) (e t : Nat) (keep : CLine → Bool)
    (h : c.way? L = some (i, l)) : c.fill ways L sec bs e t keep = some (⟨kset c.ways i (l.putSector sec bs e t), plruTouch c.plru i⟩, none) := by
  rw [CSet.fill, h]

/-- Bringing a sector into its slice changes no byte. -/
theorem sameCells_l2Fill {s : State} (h : s.homePlain) (o : Nat) : sameCells s (s.l2Fill o) := by
  have hset := h.setsOnce.2 (homeSlice o) (l2Set o)
  unfold State.l2Fill
  dsimp only
  have hc : kgetD (s.slice (homeSlice o)).l2 (l2Set o) CSet.empty = s.setAt (homeSlice o) (l2Set o) := rfl
  rw [hc]
  cases hw : (s.setAt (homeSlice o) (l2Set o)).way? (o / 256) with
  | some p =>
    obtain ⟨i, l⟩ := p
    obtain ⟨hl, hline⟩ := hset.way?_eq_some.1 hw
    rw [fill_present _ _ _ _ _ _ hw]
    dsimp only
    split_ifs with hv
    · rw [CSet.touch, hw]
      exact sameCells_touch h.setsOnce _ _ _
    · exact sameCells_sector h.setsOnce _ hl hline (Bool.eq_false_iff.2 hv)
  | none =>
    rw [fill_absent _ _ _ _ _ _ hw]
    cases (s.setAt (homeSlice o) (l2Set o)).choose (16 - (s.slice (homeSlice o)).carve) fun l => s.pinnedL2 l.line with
    | none => exact ⟨rfl, h.setsOnce, fun _ => rfl⟩
    | some i =>
      rw [Option.map_some]
      dsimp only
      have hnew := sameCells_newLine h i (plruTouch (s.setAt (homeSlice o) (l2Set o)).plru i) hw
      cases hold : kget (s.setAt (homeSlice o) (l2Set o)).ways i with
      | none => rwa [hold] at hnew
      | some l => rwa [hold] at hnew

end Sys2Proof.Machine
end

section
/-! SUPPORT. One byte written at its home: to the switch where its word is delegated, else to its slice or to DRAM (R306, R339, R420). -/
namespace Sys2Proof.Machine

/-! ## A delegated word (R420) -/

/-- A byte of a word of which one byte is replaced. -/
theorem extract_setByte (w : W64) {i j : Nat} (b : Byte) (hj : j < 8) :
    (setByte w i b).extractLsb' (8 * j) 8 = if j = i then b else w.extractLsb' (8 * j) 8 := by
  have hlow (n : Nat) : (0xFF : W64).getLsbD n = decide (n < 8) := Nat.testBit_two_pow_sub_one 8 n
  refine BitVec.eq_of_getLsbD_eq fun n hn => ?_
  have hlt : 8 * j + n < 64 := by omega
  rw [BitVec.getLsbD_extractLsb', setByte, BitVec.getLsbD_or, BitVec.getLsbD_and, BitVec.getLsbD_not, BitVec.getLsbD_shiftLeft,
    BitVec.getLsbD_shiftLeft, hlow, BitVec.getLsbD_setWidth]
  by_cases hji : j = i
  · have hoff : 8 * j + n - 8 * i = n := by omega
    have hge : ¬8 * j + n < 8 * i := by omega
    rw [if_pos hji, hoff]
    simp [hn, hlt, hge, show n < 64 by omega]
  · rw [if_neg hji, BitVec.getLsbD_extractLsb']
    by_cases hlo : j < i
    · have hlt' : 8 * j + n < 8 * i := by omega
      simp [hn, hlt, hlt']
    · have hge : ¬8 * j + n < 8 * i := by omega
      have hout : ¬8 * j + n - 8 * i < 8 := by omega
      have hb : b.getLsbD (8 * j + n - 8 * i) = false := BitVec.getLsbD_of_ge _ _ (by omega)
      simp [hn, hlt, hge, hout, hb]

/-- The address of a word names that word alone. -/
theorem ownPa_inj {s : State} {a o : Nat} : s.ownPa (a / 8 * 8) = s.ownPa (o / 8 * 8) ↔ a / 8 = o / 8 := by
  unfold State.ownPa
  omega

/-- The new value of a delegated word. -/
def hotByte (key i : Nat) (b : Byte) (h : HotWord) : HotWord := if h.addr = key then { h with val := setByte h.val i b } else h

theorem hotByte_addr (key i : Nat) (b : Byte) (h : HotWord) : (hotByte key i b h).addr = h.addr := by
  unfold hotByte
  split_ifs <;> rfl

theorem find?_hotByte (hot : List HotWord) (key i : Nat) (b : Byte) (k : Nat) :
    (hot.map (hotByte key i b)).find? (fun h => h.addr == k) = (hot.find? fun h => h.addr == k).map (hotByte key i b) := by
  rw [List.find?_map]
  refine congrArg (Option.map _) (congrArg (List.find? · hot) (funext fun h => ?_))
  rw [Function.comp_apply, hotByte_addr]

/-- A byte of a delegated word goes to the switch. -/
theorem modByte_putMod_hot {s : State} {o : Nat} (b : Byte) (hhot : (s.pod.hot.any fun h => h.addr == s.ownPa (o / 8 * 8)) = true) (a : Nat) :
    (s.putMod o b).modByte a = if a = o then b else s.modByte a := by
  have hput : s.putMod o b = { s with pod := { s.pod with hot := s.pod.hot.map (hotByte (s.ownPa (o / 8 * 8)) (o % 8) b) } } := by
    unfold State.putMod
    dsimp only
    rw [if_pos hhot]
    rfl
  have hown : ({ s with pod := { s.pod with hot := s.pod.hot.map (hotByte (s.ownPa (o / 8 * 8)) (o % 8) b) } } : State).ownPa (a / 8 * 8) =
    s.ownPa (a / 8 * 8) := rfl
  rw [hput, modByte_eq, modByte_eq, hown]
  dsimp only
  rw [find?_hotByte]
  have h8 (x : Nat) : x % 8 < 8 := Nat.mod_lt _ (by decide)
  cases hf : s.pod.hot.find? fun h => h.addr == s.ownPa (a / 8 * 8) with
  | none =>
    have hne : a ≠ o := by
      rintro rfl
      obtain ⟨h, hmem, hk⟩ := List.any_eq_true.1 hhot
      exact List.find?_eq_none.1 hf h hmem hk
    rw [if_neg hne]
    rfl
  | some h =>
    have haddr : h.addr = s.ownPa (a / 8 * 8) := by simpa using List.find?_some hf
    rw [Option.map_some]
    dsimp only
    unfold hotByte
    rw [haddr]
    by_cases hw : a / 8 = o / 8
    · rw [if_pos (ownPa_inj.2 hw), extract_setByte _ _ (h8 a)]
      exact if_congr (by omega) rfl rfl
    · rw [if_neg fun hk => hw (ownPa_inj.1 hk), if_neg fun hao => hw (congrArg (· / 8) hao)]

/-! ## Slices and DRAM (R339) -/

/-- The bytes of the module itself once one of them has changed. -/
structure cellPut (s t : State) (o : Nat) (b : Byte) : Prop where
  frame : t = { s with mem := t.mem, slices := t.slices }
  once : t.setsOnce
  cell : ∀ a, t.cell a = if a = o then b else s.cell a

theorem byteIn_some (l : CLine) (d : Byte) (o : Nat) : byteIn (some l) d o = if l.valid.getLsbD (o % 256 / 64) then sget l.data (o % 256) else d := rfl

/-- A byte of a sector that the slice does not hold goes to DRAM. -/
theorem cellPut_setDram {s : State} (h : s.setsOnce) {o : Nat} (b : Byte)
    (hno : ∀ l, s.l2Line o = some l → l.valid.getLsbD (o % 256 / 64) = false) : cellPut s (s.setDram o b) o b where
  frame := rfl
  once := ⟨swf_sset o b h.1, h.2⟩
  cell := by
    intro a
    have hline (x : Nat) : (s.setDram o b).l2Line x = s.l2Line x := rfl
    by_cases ha : a = o
    · rw [if_pos ha, ha, State.cell, hline, dram_setDram_same o b h.1]
      cases hl : s.l2Line o with
      | none => rfl
      | some l => rw [byteIn_some, hno l hl, if_neg Bool.false_ne_true]
    · rw [if_neg ha, State.cell, State.cell, hline, dram_setDram_ne b h.1 ha]

/-- A line with a byte changed, which is dirty from now on. -/
def CLine.putByte (l : CLine) (o : Nat) (b : Byte) : CLine :=
  { l with data := sset l.data (o % 256) b, dirty := l.dirty ||| ((1 : BitVec 256) <<< (o % 256)) }

theorem byteIn_putByte_same {l : CLine} (hl : swf l.data = true) {o : Nat} (b d : Byte) (hv : l.valid.getLsbD (o % 256 / 64) = true) :
    byteIn (some (l.putByte o b)) d o = b := by
  have hvalid : (l.putByte o b).valid = l.valid := rfl
  have hdata : (l.putByte o b).data = sset l.data (o % 256) b := rfl
  rw [byteIn_some, hvalid, if_pos hv, hdata, sget_sset_same _ _ hl]

theorem byteIn_putByte_ne {l : CLine} (hl : swf l.data = true) {o a : Nat} (b d : Byte) (hoff : a % 256 ≠ o % 256) :
    byteIn (some (l.putByte o b)) d a = byteIn (some l) d a := by
  have hvalid : (l.putByte o b).valid = l.valid := rfl
  have hdata : (l.putByte o b).data = sset l.data (o % 256) b := rfl
  rw [byteIn_some, byteIn_some, hvalid, hdata, sget_sset_ne _ hl hoff]

/-- A byte of a sector that the slice holds goes there. -/
theorem cellPut_set {s : State} (h : s.setsOnce) {o i : Nat} {l : CLine} (b : Byte) (hl : (s.setAt (homeSlice o) (l2Set o)).way? (o / 256) = some (i, l))
    (hv : l.valid.getLsbD (o % 256 / 64) = true) {t : State} (hframe : t = { s with slices := t.slices })
    (hat : ∀ y j, t.setAt y j = if y = homeSlice o ∧ j = l2Set o then ⟨kset (s.setAt (homeSlice o) (l2Set o)).ways i (l.putByte o b),
      (s.setAt (homeSlice o) (l2Set o)).plru⟩ else s.setAt y j) : cellPut s t o b := by
  have hset := h.2 (homeSlice o) (l2Set o)
  obtain ⟨hin, hline⟩ := hset.way?_eq_some.1 hl
  dsimp only at hline
  have hbytes : swf (l.putByte o b).data = true := swf_sset _ _ (hset.bytes _ hin)
  have hne : ∀ q ∈ (s.setAt (homeSlice o) (l2Set o)).ways, q.1 ≠ i → q.2.line ≠ (l.putByte o b).line :=
    fun q hq hqi hql => hqi (congrArg Prod.fst (hset.lines q hq (i, l) hin hql))
  have hmem : t.mem = s.mem := by rw [hframe]
  refine ⟨?_, ⟨hmem ▸ h.1, fun y j => ?_⟩, fun a => ?_⟩
  · rw [hframe]
  · rw [hat]
    split_ifs
    · exact hset.put _ hbytes hne
    · exact h.2 y j
  have hdram : t.dram a = s.dram a := by rw [State.dram, hmem]; rfl
  rw [State.cell, l2Line_eq, hat, hdram]
  split_ifs with ha hao hao
  · subst hao
    have hnew := CSet.line?_put_same (s.setAt (homeSlice a) (l2Set a)).plru hset hbytes hne
    rw [show (l.putByte a b).line = a / 256 from hline] at hnew
    rw [hnew]
    exact byteIn_putByte_same (hset.bytes _ hin) b _ hv
  · obtain ⟨hx, hk⟩ := ha
    rw [State.cell, l2Line_eq, hx, hk]
    by_cases hal : a / 256 = o / 256
    · have hnew := CSet.line?_put_same (s.setAt (homeSlice o) (l2Set o)).plru hset hbytes hne
      rw [show (l.putByte o b).line = a / 256 from hline.trans hal.symm] at hnew
      have hold : (s.setAt (homeSlice o) (l2Set o)).line? (a / 256) = some l := by rw [CSet.line?, hal, hl]; rfl
      rw [hnew, hold]
      exact byteIn_putByte_ne (hset.bytes _ hin) b _ (by omega)
    · rw [CSet.line?_put_ne _ hset hbytes hne (by rw [show (l.putByte o b).line = o / 256 from hline]; exact hal)]
      intro l2 hl2 hl2a
      have h1 := (kget_eq_some_iff hset.keys).2 hl2
      have h2 := (kget_eq_some_iff hset.keys).2 hin
      obtain rfl : l2 = l := Option.some.inj (h1.symm.trans h2)
      exact hal (hl2a.symm.trans hline)
  · exact absurd (by rw [hao]; exact ⟨rfl, rfl⟩) ha
  · rw [State.cell, l2Line_eq]

/-- A set that holds a line is replaced by changing its ways. -/
theorem setAt_modWays {s : State} {x k : Nat} {f : CSet → CSet} (hf : kget (s.slice x).l2 k ≠ none) (y j : Nat) :
    (s.modSlice x fun z => { z with l2 := kmod z.l2 k f }).setAt y j = if y = x ∧ j = k then f (s.setAt x k) else s.setAt y j := by
  unfold State.setAt kgetD
  rw [slice_modSlice]
  by_cases hy : y = x
  · subst hy
    by_cases hj : j = k
    · subst hj
      obtain ⟨c, hc⟩ := Option.ne_none_iff_exists'.1 hf
      rw [if_pos rfl, if_pos ⟨rfl, rfl⟩, kget_kmod_same, hc]
      rfl
    · rw [if_pos rfl, if_neg fun h => hj h.2, kget_kmod_ne _ _ hj]
  · rw [if_neg hy, if_neg fun h => hy h.1]

/-- A byte of a word that is not delegated goes to its slice or to DRAM. -/
theorem cellPut_putMod {s : State} (h : s.setsOnce) {o : Nat} (b : Byte) (hhot : ¬(s.pod.hot.any fun h => h.addr == s.ownPa (o / 8 * 8)) = true) :
    cellPut s (s.putMod o b) o b := by
  unfold State.putMod
  dsimp only
  rw [if_neg hhot]
  have hc : kgetD (s.slice (homeSlice o)).l2 (l2Set o) CSet.empty = s.setAt (homeSlice o) (l2Set o) := rfl
  rw [hc]
  cases hw : (s.setAt (homeSlice o) (l2Set o)).way? (o / 256) with
  | none =>
    refine cellPut_setDram h b fun l hl => ?_
    rw [l2Line_eq, CSet.line?, hw] at hl
    cases hl
  | some p =>
    obtain ⟨i, l⟩ := p
    dsimp only
    split_ifs with hv
    · have hpresent : kget (s.slice (homeSlice o)).l2 (l2Set o) ≠ none := fun hnone => by
        rw [State.setAt, kgetD, hnone] at hw
        cases hw
      exact cellPut_set h b hw hv rfl (setAt_modWays hpresent)
    · refine cellPut_setDram h b fun l' hl => ?_
      rw [l2Line_eq, CSet.line?, hw] at hl
      rw [← Option.some.inj hl]
      exact Bool.eq_false_iff.2 hv

theorem setsOnce_putMod {s : State} (h : s.setsOnce) (o : Nat) (b : Byte) : (s.putMod o b).setsOnce := by
  by_cases hhot : (s.pod.hot.any fun h => h.addr == s.ownPa (o / 8 * 8)) = true
  · unfold State.putMod
    dsimp only
    rw [if_pos hhot]
    exact h
  · exact (cellPut_putMod h b hhot).once

/-- A byte written at its home is what the home then holds, and no other byte changes. -/
theorem modByte_putMod {s : State} (h : s.setsOnce) (o : Nat) (b : Byte) (a : Nat) :
    (s.putMod o b).modByte a = if a = o then b else s.modByte a := by
  by_cases hhot : (s.pod.hot.any fun h => h.addr == s.ownPa (o / 8 * 8)) = true
  · exact modByte_putMod_hot b hhot a
  · obtain ⟨hframe, -, hcell⟩ := cellPut_putMod h b hhot
    have hpod : (s.putMod o b).pod = s.pod := by rw [hframe]
    have hown : (s.putMod o b).ownPa (a / 8 * 8) = s.ownPa (a / 8 * 8) := by rw [hframe]; rfl
    rw [modByte_eq, modByte_eq, hpod, hown, hcell]
    cases hf : s.pod.hot.find? fun h => h.addr == s.ownPa (a / 8 * 8) with
    | none => rfl
    | some w =>
      have hne : a ≠ o := by
        rintro rfl
        exact hhot (List.any_eq_true.2 ⟨w, List.mem_of_find?_eq_some hf, by simpa using List.find?_some hf⟩)
      exact (if_neg hne).symm

end Sys2Proof.Machine
end

section
/-! Writes at their home: `Obligations.WritesAtHome`. -/
namespace Sys2Proof.Machine

/-! ## The bytes of a write (R306) -/

/-- The enabled bytes of the first n of a write from an address. -/
def State.putFirst (s : State) (lo : Nat) (data : List (Option Byte)) (n : Nat) : State :=
  (List.range n).foldl (fun s i => match data.getD i none with
    | some b => s.putMod (lo + i) b
    | none => s) s

theorem putFirst_succ (s : State) (lo : Nat) (data : List (Option Byte)) (n : Nat) :
    s.putFirst lo data (n + 1) = match data.getD n none with
      | some b => (s.putFirst lo data n).putMod (lo + n) b
      | none => s.putFirst lo data n := by
  rw [State.putFirst, List.range_succ, List.foldl_append]
  rfl

theorem putFirst_spec {s : State} (h : s.setsOnce) (lo : Nat) (data : List (Option Byte)) (n : Nat) : (s.putFirst lo data n).setsOnce ∧
    ∀ a, (s.putFirst lo data n).modByte a = if lo ≤ a ∧ a < lo + n then (data.getD (a - lo) none).getD (s.modByte a) else s.modByte a := by
  induction n with
  | zero => exact ⟨h, fun a => (if_neg (by omega)).symm⟩
  | succ n ih =>
    obtain ⟨honce, hbyte⟩ := ih
    rw [putFirst_succ]
    cases hd : data.getD n none with
    | none =>
      refine ⟨honce, fun a => (hbyte a).trans ?_⟩
      by_cases ha : a = lo + n
      · rw [if_neg (by omega), if_pos (by omega), ha, Nat.add_sub_cancel_left, hd, Option.getD_none]
      · exact if_congr (by omega) rfl rfl
    | some b =>
      refine ⟨setsOnce_putMod honce _ _, fun a => ?_⟩
      dsimp only
      rw [modByte_putMod honce, hbyte]
      by_cases ha : a = lo + n
      · rw [if_pos ha, if_pos (by omega), ha, Nat.add_sub_cancel_left, hd, Option.getD_some]
      · rw [if_neg ha]
        exact if_congr (by omega) rfl rfl

/-- Of the groups and the pending writes a byte at its home changes nothing. -/
theorem putMod_groups_writes (s : State) (o : Nat) (b : Byte) : (s.putMod o b).groups = s.groups ∧ (s.putMod o b).writes = s.writes := by
  unfold State.putMod
  dsimp only
  split_ifs
  · exact ⟨rfl, rfl⟩
  · split
    · split_ifs <;> exact ⟨rfl, rfl⟩
    · exact ⟨rfl, rfl⟩

theorem putFirst_groups_writes (s : State) (lo : Nat) (data : List (Option Byte)) (n : Nat) :
    (s.putFirst lo data n).groups = s.groups ∧ (s.putFirst lo data n).writes = s.writes := by
  induction n with
  | zero => exact ⟨rfl, rfl⟩
  | succ n ih =>
    obtain ⟨hg, hw⟩ := ih
    rw [putFirst_succ]
    cases data.getD n none with
    | none => exact ⟨hg, hw⟩
    | some b =>
      obtain ⟨hg', hw'⟩ := putMod_groups_writes (s.putFirst lo data n) (lo + n) b
      exact ⟨hg'.trans hg, hw'.trans hw⟩

/-- The module's own memory: not a register. -/
theorem homeByte_eq (s : State) {a : Nat} (ha : a < 2 ^ 50) (hreg : isRegBlock a = false) : s.homeByte a = s.modByte a := by
  have hclass : paClass a = 0 := by unfold paClass; omega
  have hlow : paLow a = a := Nat.mod_eq_of_lt ha
  unfold State.homeByte
  rw [hclass, hlow, hreg]
  rfl

theorem homeWrite_eq (s : State) {pa : Nat} (data : List (Option Byte)) (hpa : pa < 2 ^ 50) (hreg : isRegBlock pa = false) :
    s.homeWrite pa data = (s.l2Fill pa).putFirst pa data data.length := by
  have hclass : paClass pa = 0 := by unfold paClass; omega
  have hlow : paLow pa = pa := Nat.mod_eq_of_lt hpa
  unfold State.homeWrite
  rw [hclass, hlow, hreg]
  rfl

/-- A state with the same bytes in the slices, in DRAM and at the switch has the same bytes at home. -/
theorem modByte_congr {s t : State} {a : Nat} (hpod : t.pod = s.pod) (hmod : t.modNum = s.modNum) (hcell : t.cell a = s.cell a) :
    t.modByte a = s.modByte a := by
  have hown : t.ownPa (a / 8 * 8) = s.ownPa (a / 8 * 8) := by rw [State.ownPa, hmod]; rfl
  rw [modByte_eq, modByte_eq, hpod, hown, hcell]

/-- A write at its home changes its enabled bytes and no other. -/
theorem homeWrite_spec {s : State} (h : s.homePlain) {pa : Nat} {data : List (Option Byte)} (hlen : pa + data.length ≤ 2 ^ 50)
    (hreg : isRegBlock pa = false) : (s.homeWrite pa data).groups = s.groups ∧ (s.homeWrite pa data).writes = s.writes ∧
    ∀ a, (s.homeWrite pa data).modByte a =
      if pa ≤ a ∧ a < pa + data.length then (data.getD (a - pa) none).getD (s.modByte a) else s.modByte a := by
  by_cases hpa : pa < 2 ^ 50
  · obtain ⟨hframe, honce, hcell⟩ := sameCells_l2Fill h pa
    obtain ⟨hg, hw⟩ := putFirst_groups_writes (s.l2Fill pa) pa data data.length
    rw [homeWrite_eq s data hpa hreg]
    refine ⟨hg.trans (by rw [hframe]), hw.trans (by rw [hframe]), fun a => ?_⟩
    have hsame : (s.l2Fill pa).modByte a = s.modByte a := modByte_congr (by rw [hframe]) (by rw [hframe]) (hcell a)
    rw [(putFirst_spec honce pa data data.length).2, hsame]
  · have hdata : data = [] := List.length_eq_zero_iff.1 (by omega)
    have hclass : paClass pa = 1 := by unfold paClass; omega
    have hsame : s.homeWrite pa data = s := by
      rw [State.homeWrite, hclass, hdata]
      rfl
    rw [hsame, hdata]
    exact ⟨rfl, rfl, fun a => (if_neg fun ha => by rw [List.length_nil] at ha; omega).symm⟩

/-! ## Behind the bytes: poison, masks, notices and wakes (R342, R307, R344) -/

/-- From s to t neither a byte at its home has changed nor a group's record nor a pending write. -/
structure keepsHome (s t : State) : Prop where
  groups : t.groups = s.groups
  writes : t.writes = s.writes
  mem : t.mem = s.mem
  pod : t.pod = s.pod
  modNum : t.modNum = s.modNum
  l2 : ∀ x, (t.slice x).l2 = (s.slice x).l2

theorem keepsHome.trans {s t u : State} (h : keepsHome s t) (h' : keepsHome t u) : keepsHome s u where
  groups := h'.groups.trans h.groups
  writes := h'.writes.trans h.writes
  mem := h'.mem.trans h.mem
  pod := h'.pod.trans h.pod
  modNum := h'.modNum.trans h.modNum
  l2 x := (h'.l2 x).trans (h.l2 x)

theorem keepsHome_refl (s : State) : keepsHome s s := ⟨rfl, rfl, rfl, rfl, rfl, fun _ => rfl⟩

theorem keepsHome.modByte {s t : State} (h : keepsHome s t) (a : Nat) : t.modByte a = s.modByte a := by
  refine modByte_congr h.pod h.modNum (cell_congr ?_ ?_)
  · rw [State.setAt, State.setAt, h.l2]
  · rw [State.dram, State.dram, h.mem]

section
variable {s u : State} (h : keepsHome s u)
include h

theorem keepsHome.maskDrop (core line : Nat) (gone : MaskB → Bool) : keepsHome s (u.maskDrop core line gone) := by
  refine h.trans ?_
  unfold State.maskDrop
  split
  · exact keepsHome_refl u
  · exact ⟨rfl, rfl, rfl, rfl, rfl, fun _ => rfl⟩

theorem keepsHome.send (x : Sent) : keepsHome s (u.send x) := by
  refine h.trans ?_
  unfold State.send
  split <;> exact ⟨rfl, rfl, rfl, rfl, rfl, fun _ => rfl⟩

theorem keepsHome.emit (port : Nat) (p : Packet) : keepsHome s (u.emit port p) := by
  refine h.trans ?_
  unfold State.emit
  dsimp only
  split_ifs
  · refine keepsHome.send ?_ _
    exact ⟨rfl, rfl, rfl, rfl, rfl, fun _ => rfl⟩
  · exact ⟨rfl, rfl, rfl, rfl, rfl, fun _ => rfl⟩

theorem keepsHome.noticeLine (line : Nat) : keepsHome s (u.noticeLine line) := by
  refine h.trans ?_
  unfold State.noticeLine
  split
  · exact keepsHome_refl u
  · split_ifs
    · refine keepsHome.emit ?_ _ _
      exact ⟨rfl, rfl, rfl, rfl, rfl, fun _ => rfl⟩
    · exact keepsHome_refl u

theorem keepsHome.sendWake (x g : Nat) : keepsHome s (u.sendWake x g) := by
  refine h.trans ?_
  unfold State.sendWake
  split_ifs <;> exact ⟨rfl, rfl, rfl, rfl, rfl, fun _ => rfl⟩

theorem keepsHome.wakeLine (slice line : Nat) : keepsHome s (u.wakeLine slice line) := by
  unfold State.wakeLine
  dsimp only
  refine List.foldlRecOn _ _ (motive := keepsHome s) (h.trans ?_) fun v hv m _ => hv.sendWake slice m.gident
  split_ifs
  · exact keepsHome_refl u
  · refine ⟨rfl, rfl, rfl, rfl, rfl, fun x => ?_⟩
    rw [slice_modSlice]
    split_ifs with hx
    · rw [hx]
    · rfl

end

/-! ## The early loads of the groups (R152) -/

theorem kget_mapEntries {α : Type} (m : KMap α) (f : Nat → α → α) (x : Nat) : kget (m.map fun p => (p.1, f p.1 p.2)) x = (kget m x).map (f x) := by
  induction m with
  | nil => rfl
  | cons p m ih =>
    rw [List.map_cons, kget, kget, ih]
    split_ifs with h1
    · rw [h1, Option.map_some]
    · rfl
    · rfl

/-- Of the groups' records a performed write changes what they keep for their early loads. -/
theorem noteHidden_frame (s : State) (w : PWrite) : ∃ gs, s.noteHidden w = { s with groups := gs } ∧
    ∀ g r, s.grp? g = some r → ∃ h, kget gs g = some { r with hid := h } := by
  unfold State.noteHidden
  dsimp only
  split_ifs
  · exact ⟨s.groups, rfl, fun g r hg => ⟨r.hid, hg⟩⟩
  · refine ⟨_, rfl, fun g r hg => ?_⟩
    rw [kget_mapEntries s.groups fun g r => r.hideMem (w.lane == some g && r.inBlock w.op) s.homeByte w.pa w.data, show kget s.groups g = some r from hg]
    exact ⟨_, rfl⟩

/-! ## WRITE_PERFORM (R306) -/

/-- A performed write is its bytes at their home; what follows changes no byte. -/
theorem performWrite_keeps {s : State} (id : Nat) {w : PWrite} (hlen : w.pa + w.data.length ≤ 2 ^ 50) :
    keepsHome ({ s.noteHidden w with writes := kdel (s.noteHidden w).writes id }.homeWrite w.pa w.data) (s.performWrite id w) := by
  unfold State.performWrite
  dsimp only
  generalize State.homeWrite _ w.pa w.data = u
  have hpoison : keepsHome u (u.clearPoison w.pa w.data) := ⟨rfl, rfl, rfl, rfl, rfl, fun _ => rfl⟩
  have hdrop := hpoison.maskDrop w.core (w.pa / 256) fun m => m.acc.any fun q => q.2 == id
  by_cases hany : w.data.any (·.isSome) = true
  · have hpos : 0 < w.data.length := by
      rw [List.length_pos_iff]
      rintro hnil
      rw [hnil] at hany
      cases hany
    have hclass : paClass w.pa = 0 := by unfold paClass; omega
    rw [if_neg (by rw [hany]; decide), hclass]
    split_ifs
    · exact hdrop
    · exact (hdrop.noticeLine _).wakeLine _ _
  · rw [if_pos (by rw [Bool.not_eq_true', Bool.eq_false_iff]; exact hany)]
    exact hdrop

/-- WRITE_PERFORM of a write whose GWCT has come, behind no add-on-store of its line. -/
theorem execWritePerform_eq {s : State} {id : Nat} {w : PWrite} (ha : s.args = [id]) (hw : kget s.writes id = some w) (ht : w.gwct ≤ s.ptime)
    (hb : s.behindAdd id w = false) : execWritePerform s = .next (s.performWrite id w) := by
  have h0 : s.a0 = id := by rw [State.a0, ha]; rfl
  unfold execWritePerform
  rw [h0, hw]
  dsimp only
  rw [if_neg (Nat.not_lt.2 ht), hb]
  rfl

theorem writePerform_writes {s : State} {id : Nat} {w : PWrite} (ha : s.args = [id]) (hw : kget s.writes id = some w) (hk : kwf s.writes = true)
    (ht : w.gwct ≤ s.ptime) (hb : s.behindAdd id w = false) (hlen : w.pa + w.data.length ≤ 2 ^ 50) (hreg : isRegBlock w.pa = false) (h : s.homePlain) :
    ∃ t, execWritePerform s = .next t ∧ kget t.writes id = none ∧ (∀ g r, s.grp? g = some r → ∃ h, t.grp? g = some { r with hid := h }) ∧
      ∀ a, a < 2 ^ 50 → isRegBlock a = false →
        t.homeByte a = if w.pa ≤ a ∧ a < w.pa + w.data.length then (w.data.getD (a - w.pa) none).getD (s.homeByte a) else s.homeByte a := by
  obtain ⟨gs, hnote, hgs⟩ := noteHidden_frame s w
  have hkeeps := performWrite_keeps (s := s) id hlen
  rw [hnote] at hkeeps
  have hplain : ({ s with groups := gs, writes := kdel s.writes id } : State).homePlain := h
  obtain ⟨hgroups, hwrites, hbytes⟩ := homeWrite_spec hplain hlen hreg
  refine ⟨_, execWritePerform_eq ha hw ht hb, ?_, fun g r hg => ?_, fun a halt hareg => ?_⟩
  · rw [hkeeps.writes, hwrites]
    exact kget_kdel_same id hk
  · rw [State.grp?, hkeeps.groups, hgroups]
    exact hgs g r hg
  · rw [homeByte_eq _ halt hareg, homeByte_eq s halt hareg, hkeeps.modByte, hbytes]
    rfl

/-! ## The obligation -/

/-- Settles O30: a fill moves bytes between DRAM and the slice without changing what an address holds, and each byte that is written then goes to
where its address is read. -/
theorem writesAtHome : Obligations.WritesAtHome := by
  refine ⟨fun s o p m q ha hp hg hpa hearlier hbefore hpin => ?_, fun s id w ha hw hk ht hb hlen _ hreg h => ?_,
    fun s o p g gr m q r ha hp hq hb hall hm hg hk => ?_, fun s core line ms ha hms hwf => ?_⟩
  · obtain ⟨t, id, w, ht, hmem, hsl, hgr, hw, hwpa, hdata, hpart, hgwct⟩ := writeAccept_accepts ha hp hg hpa hearlier hbefore hpin
    obtain ⟨hptime, hlease, hpending, hone⟩ := gwctOf_spec s (q.pa / 256)
    rw [← hgwct] at hptime hlease hpending hone
    exact ⟨t, id, w, ht, hmem, hsl, hgr, hw, hwpa, hdata, hpart, hptime, hlease, hpending, hone⟩
  · exact writePerform_writes ha hw hk ht hb hlen hreg h
  · exact storeGwctReturn_ends ha hp hq hb hall hm hg hk
  · exact writeMaskRelease_drops ha hms hwf

end Sys2Proof.Machine
end
